-- ==== Sys2Proof/Word.lean ====
section
/-! DEFINITION. The word and byte types and their plainest arithmetic. -/

namespace Sys2Proof

/-- A 64-bit register, instruction word or doubleword. -/
abbrev Word := BitVec 64

/-- A byte of memory (R5). -/
abbrev Byte := BitVec 8

/-- Bits [lo + n - 1 : lo] of a word as a number (R5). -/
def Word.field (w : Word) (lo n : Nat) : Nat := (w.extractLsb' lo n).toNat

end Sys2Proof
end

