-- ==== Sys2Proof/Syntax.lean ====
section
/-! DEFINITION. The syntax of Drimal 1: element types, format tags, the six instruction formats (R76 to R84) and the one
inductive of instructions and machine events. -/

namespace Sys2Proof

/-- Element type codes of R85, in code order. -/
inductive ETy where
  | i64 | i32 | i16 | i8 | n64 | n32 | n16 | n8 | b64 | b32 | f32 | f16 | bf16 | e4m3 | e5m2 | e2m1
deriving DecidableEq, Repr

/-- The code that R85 gives a type. -/
def ETy.code : ETy → BitVec 4
  | .i64 => 0 | .i32 => 1 | .i16 => 2 | .i8 => 3 | .n64 => 4 | .n32 => 5 | .n16 => 6 | .n8 => 7
  | .b64 => 8 | .b32 => 9 | .f32 => 10 | .f16 => 11 | .bf16 => 12 | .e4m3 => 13 | .e5m2 => 14 | .e2m1 => 15

/-- The type of a code; all sixteen codes are allocated (R85). -/
def ETy.ofCode (c : BitVec 4) : ETy :=
  match c.toNat with
  | 0 => .i64 | 1 => .i32 | 2 => .i16 | 3 => .i8 | 4 => .n64 | 5 => .n32 | 6 => .n16 | 7 => .n8
  | 8 => .b64 | 9 => .b32 | 10 => .f32 | 11 => .f16 | 12 => .bf16 | 13 => .e4m3 | 14 => .e5m2 | _ => .e2m1

/-- Width of one element in bits (R85). -/
def ETy.bits : ETy → Nat
  | .i64 | .n64 | .b64 => 64
  | .i32 | .n32 | .b32 | .f32 => 32
  | .i16 | .n16 | .f16 | .bf16 => 16
  | .i8 | .n8 | .e4m3 | .e5m2 => 8
  | .e2m1 => 4

/-- Elements per 64-bit register (R85). -/
def ETy.count (t : ETy) : Nat := 64 / t.bits

def ETy.isI : ETy → Bool | .i64 | .i32 | .i16 | .i8 => true | _ => false
def ETy.isN : ETy → Bool | .n64 | .n32 | .n16 | .n8 => true | _ => false
def ETy.isB : ETy → Bool | .b64 | .b32 => true | _ => false
def ETy.isF : ETy → Bool | .f32 | .f16 | .bf16 => true | _ => false
def ETy.isFloat : ETy → Bool | .f32 | .f16 | .bf16 | .e4m3 | .e5m2 | .e2m1 => true | _ => false
def ETy.dotTy : ETy → Bool | .f16 | .bf16 | .e4m3 | .e5m2 | .e2m1 => true | _ => false
def ETy.intN (t : ETy) : Bool := t.isI || t.isN
def ETy.natB (t : ETy) : Bool := t.isN || t.isB
def ETy.intNB (t : ETy) : Bool := t.isI || t.isN || t.isB
/-- Types of `bfx` and `icmpi`: codes 0x0, 0x1, 0x4, 0x5. -/
def ETy.wide : ETy → Bool | .i64 | .i32 | .n64 | .n32 => true | _ => false
/-- Types of `lea`: codes 0x0, 0x1, 0x5 (R106). -/
def ETy.leaTy : ETy → Bool | .i64 | .i32 | .n32 => true | _ => false
/-- Types of `subx`: codes 0x1 to 0x3, 0x5 to 0x7 and 0x9 (R101). -/
def ETy.subxTy : ETy → Bool | .i32 | .i16 | .i8 | .n32 | .n16 | .n8 | .b32 => true | _ => false
/-- Types of `wait`: codes 0x0 to 0x9 (R160). -/
def ETy.waitTy (t : ETy) : Bool := !t.isFloat

/-- Format tags of R34; codes 0xC to 0xF are reserved and have no constructor. -/
inductive Tag where
  | raw | f32 | f16 | bf16 | e4m3 | e5m2 | e2m1 | e8m0 | e3m5 | mx8 | mx4 | fb4
deriving DecidableEq, Repr

def Tag.code : Tag → BitVec 4
  | .raw => 0 | .f32 => 1 | .f16 => 2 | .bf16 => 3 | .e4m3 => 4 | .e5m2 => 5 | .e2m1 => 6 | .e8m0 => 7
  | .e3m5 => 8 | .mx8 => 9 | .mx4 => 10 | .fb4 => 11

def Tag.ofCode? (c : Nat) : Option Tag :=
  match c with
  | 0 => some .raw | 1 => some .f32 | 2 => some .f16 | 3 => some .bf16 | 4 => some .e4m3 | 5 => some .e5m2
  | 6 => some .e2m1 | 7 => some .e8m0 | 8 => some .e3m5 | 9 => some .mx8 | 10 => some .mx4 | 11 => some .fb4
  | _ => none

/-- Block tags mx8, mx4 and fb4 (R54). -/
def Tag.isBlock : Tag → Bool | .mx8 | .mx4 | .fb4 => true | _ => false

/-- Rounding modes of R56. -/
inductive Rnd where
  | rne | rtz | rdn | rup | rna | sd
deriving DecidableEq, Repr

/-- The mode of a rounding code; 0b110 and 0b111 are reserved (R56). The well-formedness check refuses those two, so the
last arm is met by code 5 alone. -/
def Rnd.ofCode (c : Nat) : Rnd :=
  match c with
  | 0 => .rne | 1 => .rtz | 2 => .rdn | 3 => .rup | 4 => .rna | _ => .sd

/-- Bits [4:0] of every instruction word: yield, predicate negate, predicate register (R75). -/
structure Guard where
  y : Bool
  neg : Bool
  pred : BitVec 3
deriving DecidableEq, Repr

/-- Format V below sub (R76). `mods` is [27:22]: negate a, abs a, negate b, abs b, negate c, abs c. -/
structure VF where
  d : BitVec 6
  a : BitVec 6
  b : BitVec 6
  c : BitVec 6
  mods : BitVec 6
  permA : BitVec 3
  permB : BitVec 3
  p : BitVec 6
  clamp : BitVec 2
  scale : BitVec 3
  g : Guard
deriving DecidableEq, Repr

/-- Format I below sub (R80); bits [7:5] are zero. -/
structure IF where
  d : BitVec 6
  a : BitVec 6
  imm : BitVec 32
  g : Guard
deriving DecidableEq, Repr

/-- Format M below sub (R81). `off` is [33:14], which some entries divide further (R157, R160, R396, R400). -/
structure MF where
  d : BitVec 6
  a : BitVec 6
  b : BitVec 6
  off : BitVec 20
  order : BitVec 2
  scope : Bool
  policy : BitVec 2
  la : BitVec 4
  g : Guard
deriving DecidableEq, Repr

/-- Format B below sub (R82); bits [13:5] are zero. -/
structure BF where
  a : BitVec 6
  off : BitVec 32
  g : Guard
deriving DecidableEq, Repr

/-- Format X below sub (R83). `fields` is [23:9]. -/
structure XF where
  td : BitVec 4
  ta : BitVec 4
  tb : BitVec 4
  v : BitVec 6
  tA : Bool
  tB : Bool
  ov : Bool
  pr : Bool
  k : BitVec 6
  fields : BitVec 15
  la : BitVec 4
  g : Guard
deriving DecidableEq, Repr

/-- Format S below sub (R84); bits [19:5] are zero. -/
structure SF where
  d : BitVec 6
  a : BitVec 6
  imm : BitVec 20
  g : Guard
deriving DecidableEq, Repr

/-- A fibre of a placed team: the team's number in the model and the fibre position $fid. -/
structure FibreRef where
  team : Nat
  fid : Nat
deriving DecidableEq, Repr

/-- One member's contribution to a collective: its package and the bytes of its SRC (R401). -/
structure MemberData where
  pkg : Nat
  src : List (BitVec 8)
deriving DecidableEq, Repr

/-- What an error in a core array hits (the rows of R189). -/
inductive SramTarget where
  | regRow (r : FibreRef) (reg lane : Nat)
  | scratchWord (bank off : Nat)
  | l1Line (bank : Nat)
  | fifoWord (team : Nat) (tid : Nat)
  | accElem (bank off : Nat)
  | clauseCache
  | galleryRow (bin thread reg : Nat)
deriving DecidableEq, Repr

/-- An error found in a core array, with the fields of its record (R189, R190). -/
structure SramError where
  core : Nat
  ctx : BitVec 6
  bank : BitVec 6
  word : BitVec 13
  syn : BitVec 8
  uncorrectable : Bool
  target : SramTarget
deriving DecidableEq, Repr

/-- State that cannot carry poison (R360). -/
inductive StateKind where
  | reconvergence | barrier | faultRecord | binHeader | tile | walker | handler | saveFixed
deriving DecidableEq, Repr

/-- An error found in state that cannot carry poison (R360), with the fields of its core error record (R190). -/
structure StateError where
  core : Nat
  ctx : BitVec 6
  bank : BitVec 6
  word : BitVec 13
  syn : BitVec 8
  uncorrectable : Bool
  what : StateKind
deriving DecidableEq, Repr

/-- What an error in a cluster unit hits (R277). -/
inductive ClusterTarget where
  | messageRow (queue msg lane : Nat)
  | messageHeader (queue msg : Nat)
  | reservation (entry : Nat)
  | rasteriser (entry : Nat)
deriving DecidableEq, Repr

structure ClusterError where
  cluster : Nat
  ctx : BitVec 6
  syn : BitVec 8
  uncorrectable : Bool
  target : ClusterTarget
deriving DecidableEq, Repr

/-- An error in an L2 or HBM word (R285), with UNIT of the memory error record (R368). -/
structure MemoryError where
  addr : Nat
  unit : BitVec 4
  uncorrectable : Bool
deriving DecidableEq, Repr

/-- A host access to device HBM through CXL.mem (R293). -/
inductive HostAccess where
  | read (addr len : Nat)
  | write (addr : Nat) (bytes : List (BitVec 8))
deriving DecidableEq, Repr

/-- The firmware image in flash: its version and security version, and the outcome of its two signature checks (R373). -/
structure FirmwareImage where
  version : BitVec 32
  svn : BitVec 16
  rsaOk : Bool
  slhOk : Bool
deriving DecidableEq, Repr

/-- A mailbox command entry (R365): DW0's fields and DW1 to DW7. -/
structure Cmd where
  tag : BitVec 16
  die : Bool
  op : BitVec 8
  dws : List (BitVec 64)
deriving DecidableEq, Repr

/-- A flit on a link: the packages of its transaction, the package at the other end of its link, the channel of R383 (stair 0, stair 1,
2 other responses, 3 atomic responses, 4 control), device time of issue (R392), its number within its transaction, whether more flits of
it follow, whether its CRC holds (R386), the increments for atomic responses and control that it carries (R385), and its body. -/
structure Flit where
  src : Nat
  dst : Nat
  hop : Nat
  chan : Nat
  time : BitVec 64
  seq : Nat
  more : Bool
  good : Bool
  incAtomic : BitVec 6
  incControl : BitVec 6
  body : List (BitVec 8)
deriving DecidableEq, Repr

/-- What a link tells of a transaction that ends here: the package of its last hop, its channel (R383), whether the CRC of its flits holds
(R386), and the increments that they carry (R385). -/
structure LinkHdr where
  via : Nat
  chan : Nat
  good : Bool
  incAtomic : BitVec 6
  incControl : BitVec 6
deriving DecidableEq, Repr

/-- Kinds of a request between packages (R392); `other` stands for a transaction that no package of the domain originates. -/
inductive ReqKind where
  | read
  | write
  | atomic (op ty : BitVec 4)
  | increment (counter : BitVec 8)
  | other
deriving DecidableEq, Repr

/-- A request that arrives from another package (R294, R295): `num` is its sequence number when it is numbered (R387), `time` the
device time in its header. The data of an atomic are the data and comparand of each combined lane in turn, 8 bytes each (R158). -/
structure RemoteReq where
  src : BitVec 6
  kind : ReqKind
  addr : Nat
  len : Nat
  data : List (BitVec 8)
  key : BitVec 32
  num : Option (BitVec 32)
  tag : Nat
  gen : BitVec 4
  time : BitVec 64
  link : LinkHdr
deriving DecidableEq, Repr

/-- An answer to a request of this package (R391): the unit that holds the tag (a core 0 to 127, or 128 + die for a collective
engine), its tag and generation, the device time in its header, whether the destination refused, and the data returned. -/
structure FabricAnswer where
  unit : Nat
  tag : Nat
  gen : BitVec 4
  time : BitVec 64
  refused : Bool
  poison : Bool
  data : List (BitVec 8)
  link : LinkHdr
deriving DecidableEq, Repr

/-- A CXL configuration request of the host (R372): read, or configure the memory and cache protocols. -/
inductive ConfigReq where
  | read
  | enable (mem cache : Bool) (hdmBase : Nat)
deriving DecidableEq, Repr

/-- The instructions and machine events of the opcode table, one constructor per row. Instructions carry the fields of
their format word (R76 to R84); an event carries what the outside, or the unit that raises it, brings to the step.
Instructions and the events that the machine raises itself stand first, events from outside last. -/
inductive Instr where
  | iadd (ty : ETy) (f : VF)
  | isub (ty : ETy) (f : VF)
  | imul (ty : ETy) (f : VF)
  | imad (ty : ETy) (f : VF)
  | idiv (ty : ETy) (f : VF)
  | irem (ty : ETy) (f : VF)
  | imin (ty : ETy) (f : VF)
  | imax (ty : ETy) (f : VF)
  | iabsd (ty : ETy) (f : VF)
  | and (ty : ETy) (f : VF)
  | or (ty : ETy) (f : VF)
  | xor (ty : ETy) (f : VF)
  | shl (ty : ETy) (f : VF)
  | shr (ty : ETy) (f : VF)
  | sar (ty : ETy) (f : VF)
  | rot (ty : ETy) (f : VF)
  | bfx (ty : ETy) (f : VF)
  | bfi (ty : ETy) (f : VF)
  | popc (ty : ETy) (f : VF)
  | clz (ty : ETy) (f : VF)
  | brev (ty : ETy) (f : VF)
  | sel (f : VF)
  | icmp (ty : ETy) (f : VF)
  | lea (ty : ETy) (f : VF)
  | mov (f : VF)
  | subx (ty : ETy) (f : VF)
  | movi (f : IF)
  | iaddi (ty : ETy) (f : IF)
  | andi (f : IF)
  | ori (f : IF)
  | xori (f : IF)
  | icmpi (ty : ETy) (f : IF)
  | movhi (f : IF)
  | fadd (ty : ETy) (f : VF)
  | fmul (ty : ETy) (f : VF)
  | ffma (ty : ETy) (f : VF)
  | fmin (ty : ETy) (f : VF)
  | fmax (ty : ETy) (f : VF)
  | fcmp (ty : ETy) (f : VF)
  | fclass (ty : ETy) (f : VF)
  | fdot (ty : ETy) (f : VF)
  | frcp (ty : ETy) (f : VF)
  | frsq (ty : ETy) (f : VF)
  | fsqrt (ty : ETy) (f : VF)
  | fdiv (ty : ETy) (f : VF)
  | fexp2 (ty : ETy) (f : VF)
  | flog2 (ty : ETy) (f : VF)
  | fsin (ty : ETy) (f : VF)
  | fcos (ty : ETy) (f : VF)
  | fcvt (sub : BitVec 4) (f : VF)
  | icvt (sub : BitVec 4) (f : VF)
  | fcvti (sub : BitVec 4) (f : VF)
  | fround (sub : BitVec 4) (f : VF)
  | fscale (ty : ETy) (f : VF)
  | bcvtScale (sub : BitVec 4) (f : VF)
  | bcvtEnc (sub : BitVec 4) (f : VF)
  | bcvtDec (sub : BitVec 4) (f : VF)
  | shfl (sub : BitVec 4) (f : VF)
  | voteAny (f : VF)
  | voteAll (f : VF)
  | voteBallot (f : VF)
  | voteCount (f : VF)
  | cdetMask (f : VF)
  | cdetFadd (f : VF)
  | cdetIadd (f : VF)
  | lred (sub : BitVec 4) (f : VF)
  | lscan (sub : BitVec 4) (f : VF)
  | wbind (sub : BitVec 4) (f : VF)
  | wctlEnds (sub : BitVec 4) (f : VF)
  | wctlVtype (sub : BitVec 4) (f : VF)
  | wctlShift (sub : BitVec 4) (f : VF)
  | wctlRew (sub : BitVec 4) (f : VF)
  | wctlUnbind (sub : BitVec 4) (f : VF)
  | wctlTell (sub : BitVec 4) (f : VF)
  | wctlSkip (sub : BitVec 4) (f : VF)
  | shapeGet (f : VF)
  | shapeGen (f : VF)
  | shapeUni (f : VF)
  | shapeAff (f : VF)
  | ftagGet (f : VF)
  | ftagSet (f : VF)
  | ftagTget (f : VF)
  | ftagTset (f : VF)
  | bra (f : BF)
  | brx (f : BF)
  | call (f : BF)
  | callX (f : BF)
  | ret (f : BF)
  | exit (f : SF)
  | join (f : SF)
  | joinM (f : SF)
  | reform (f : SF)
  | reformX (f : SF)
  | galleryDraw (core bin : Nat)
  | binAgeLimit (core bin : Nat)
  | yield (f : SF)
  | nop (f : SF)
  | fbarArrive (f : SF)
  | fbarWait (f : SF)
  | tbar (f : SF)
  | tbarArrive (f : SF)
  | ld (ty : ETy) (f : MF)
  | st (ty : ETy) (f : MF)
  | ld2 (ty : ETy) (f : MF)
  | st2 (ty : ETy) (f : MF)
  | ldn (f : MF)
  | stn (f : MF)
  | atom (sub : BitVec 4) (f : MF)
  | red (sub : BitVec 4) (f : MF)
  | fence (f : SF)
  | fenceDom (f : SF)
  | wait (ty : ETy) (f : MF)
  | waitRetestWrite (r : FibreRef) (lane : Nat)
  | waitRetestTimer (r : FibreRef) (lane : Nat)
  | prefetch (sub : BitVec 4) (f : MF)
  | ldt (sub : BitVec 4) (f : XF)
  | stt (sub : BitVec 4) (f : XF)
  | cpy (f : MF)
  | cpyComplete (r : FibreRef) (op : Nat)
  | lockWait (f : MF)
  | lockTest (f : MF)
  | bmodeL1 (f : SF)
  | bmodeScr (f : SF)
  | bmodeFifo (f : SF)
  | fpgQuery (f : MF)
  | fpgPin (f : MF)
  | fpgUnpin (f : MF)
  | fpgForce (f : MF)
  | parkedAccessResume (r : FibreRef)
  | tdesc (f : XF)
  | tget (f : XF)
  | mma (sub : BitVec 4) (f : XF)
  | mdist (f : XF)
  | gmma (f : XF)
  | acqa (f : XF)
  | rela (f : XF)
  | mzero (f : XF)
  | mld (sub : BitVec 4) (f : XF)
  | mst (sub : BitVec 4) (f : XF)
  | mcancel (f : XF)
  | mcancelTeam (f : XF)
  | accumulatorGrant (core : Nat)
  | forwardArrayComplete (core : Nat)
  | gradientEngineStart (cluster : Nat)
  | gradientEngineComplete (cluster : Nat)
  | trec (f : SF)
  | tmarkRec (f : SF)
  | tmarkRc (f : SF)
  | tpop (f : SF)
  | tend (f : SF)
  | tqueryNext (f : SF)
  | tqueryUsed (f : SF)
  | tqueryQuota (f : SF)
  | tapeSpill (team : Nat)
  | tapeRefill (r : FibreRef) (op : Nat)
  | gscat (sub : BitVec 4) (f : MF)
  | scatterAddition (idx : Nat)
  | gflush (f : SF)
  | gflushAll (f : SF)
  | triadj (f : VF)
  | texadjLod (f : VF)
  | texadjGrad (f : VF)
  | edgeq (f : VF)
  | boxt (f : VF)
  | trit (sub : BitVec 4) (f : VF)
  | spush (f : VF)
  | spop (f : VF)
  | spopDepth (f : VF)
  | spopClear (f : VF)
  | cull (f : VF)
  | exptri (f : VF)
  | rasterBufferEntry (core : Nat)
  | rasteriseTriangle (cluster : Nat)
  | texLod (f : VF)
  | texGrad (f : VF)
  | texqSize (f : VF)
  | texqLod (f : VF)
  | qpush (sub : BitVec 4) (f : MF)
  | qpushUnpark (r : FibreRef)
  | qpushCommit (idx : Nat)
  | qinfoRange (f : SF)
  | qinfoFill (f : SF)
  | qinfoSpace (f : SF)
  | msnd (sub : BitVec 4) (f : VF)
  | mrcv (sub : BitVec 4) (f : VF)
  | msndUnpark (r : FibreRef)
  | mrcvUnpark (r : FibreRef)
  | put (f : MF)
  | get (f : MF)
  | putComplete (die id : Nat)
  | getComplete (die id : Nat)
  | cntrRead (f : SF)
  | cntrAdd (f : SF)
  | cntrSet (f : SF)
  | trigPut (f : MF)
  | trigGet (f : MF)
  | triggerFire (die idx : Nat)
  | collAllreduce (f : MF)
  | collRscatter (f : MF)
  | collBcast (f : MF)
  | collTimeout (die id : Nat) (seen : Option (List (BitVec 64)))
  | sget (f : SF)
  | sset (f : SF)
  | trap (f : SF)
  | tret (f : SF)
  | tinv (f : SF)
  | copInv (f : SF)
  | copInvall (f : SF)
  | halt (f : SF)
  | brk (f : SF)
  | clauseIssue (r : FibreRef)
  | pathAgeing (r : FibreRef)
  | clauseFetchFill (r : FibreRef)
  | lookaheadLanding (r : FibreRef) (op : Nat)
  | scoreboardLanding (r : FibreRef) (op : Nat)
  | storeAcknowledged (r : FibreRef) (op : Nat)
  | loadReply (r : FibreRef) (op : Nat)
  | tileTransferComplete (r : FibreRef) (op : Nat)
  | launchRecordTake (die queue : Nat)
  | launchDependenceMet (launch : Nat)
  | teamPlacement (die : Nat)
  | teamRetirement (team : Nat)
  | launchCompletion (launch : Nat)
  | queueAgeLimit (launch : Nat)
  | launchStop (launch : Nat)
  | requantiserPick (page : Nat)
  | requantiserCommit (page : Nat)
  | drainDeadline (ctx : Nat)
  | saveDeadline (ctx : Nat)
  | parkSwap (core : Nat)
  | watchdogFire (team : Nat)
  | terminationComplete (ctx : Nat)
  | fabricRequestTimeout (unit tag : Nat)
  | bulkSend (idx : Nat)
  | relayForward (idx : Nat)
  | creditUpdateSend (peer : Nat)
  | creditIncrementFlit (peer : Nat)
  | flitReplay (idx : Nat)
  | spareSwitchComplete (port : Nat)
  | tapeEntryInRing (r : FibreRef) (op : Nat)
  | remoteRequestArrival (q : RemoteReq)
  | collComplete (die id : Nat) (members : List MemberData)
  | sramEccError (e : SramError)
  | uncorrectableStateError (e : StateError)
  | clusterEccError (e : ClusterError)
  | memoryEccError (e : MemoryError)
  | scatterUnitError (target : Nat) (record : Bool)
  | patrolScrub (addr : Nat)
  | hostSnoop (line : Nat) (stores : List Host.Cell)
  | hostMemAccess (a : HostAccess)
  | bridgeFlitFailure (replays : Nat)
  | packageReset (pkg : BitVec 6)
  | powerLoss
  | powerArbiterPeriod (draw : BitVec 16) (busyGrad busyFwd : Nat)
  | thermalLimitChange (celsius : BitVec 8)
  | thermalTrip
  | registerContext (c : Cmd)
  | registerLaunchQueue (c : Cmd)
  | registerReclaimQueue (c : Cmd)
  | requantiserThreshold (c : Cmd)
  | invalidateTranslation (c : Cmd)
  | pageReply (c : Cmd)
  | preemptContext (c : Cmd)
  | liftPreemption (c : Cmd)
  | terminateContext (c : Cmd)
  | registerWindowKey (c : Cmd)
  | firmwareChunk (c : Cmd)
  | setPowerLimit (c : Cmd)
  | reservedCommand (c : Cmd)
  | mailboxRegisterWrite (offset : Nat) (value : BitVec 64)
  | getVersion (req : List (BitVec 8))
  | getCapabilities (req : List (BitVec 8))
  | negotiateAlgorithms (req : List (BitVec 8))
  | getDigests (req : List (BitVec 8))
  | getCertificate (req : List (BitVec 8))
  | challenge (req : List (BitVec 8))
  | getMeasurements (req : List (BitVec 8))
  | keyExchange (req : List (BitVec 8))
  | ideKm (req : List (BitVec 8))
  | slotMarker (slot : BitVec 3) (time : BitVec 64)
  | calendarLoad (start : BitVec 64) (table : List (BitVec 8))
  | relayFlitArrival (flit : Flit)
  | creditUpdateReceived (peer : Nat) (freed : List (BitVec 32))
  | flitAck (flit : Flit)
  | skipNoticeArrival (src : BitVec 6) (num : BitVec 32)
  | fabricResponseArrival (a : FabricAnswer)
  | portFailure (port : Nat) (laser : Bool)
  | configurationRequest (q : ConfigReq)
  | guardIntervalEnd
  | blackoutNotice (peer port : Nat) (live : Bool)
deriving DecidableEq, Repr

end Sys2Proof
end

