-- ==== Sys2Proof/WellFormed.lean ====
section
/-! DEFINITION. Well-formedness of an instruction: the checks on its fields that the word alone decides (R6, R75, R100). Checks
that depend on the launch (the register window of R17, the fibre width, walker bindings) belong to the machine. -/

namespace Sys2Proof

/-- What an entry allows in an operand field of six or four bits. -/
inductive Use where
  | zero          -- unused: must be zero (R75)
  | any
  | reg           -- v0 to v55
  | src           -- any operand code of R21
  | lt (n : Nat)  -- a code below n
  | eq (n : Nat)  -- exactly n
deriving DecidableEq, Repr

def Use.ok {n : Nat} (u : Use) (x : BitVec n) : Bool :=
  match u with
  | .zero => x == 0
  | .any => true
  | .reg => x.toNat < 56
  | .src => true
  | .lt k => x.toNat < k
  | .eq k => x.toNat == k

/-- Rounding code in sub[2:0] with any overflow bit in sub[3] (R60, R115). -/
def chkCvtSub (s : BitVec 4) : Bool := s.toNat % 8 < 6
/-- Rounding code with sub[3] zero (R61, R115). -/
def chkFcvtiSub (s : BitVec 4) : Bool := s.toNat < 6
/-- RNE to RNA with sub[3] zero (R114). -/
def chkRoundSub (s : BitVec 4) : Bool := s.toNat < 5
def chkSubZero (s : BitVec 4) : Bool := s.toNat == 0
/-- `bcvt.dec`: sub[2:0] zero (R117). -/
def chkDecSub (s : BitVec 4) : Bool := s.toNat % 8 == 0
/-- Element widths of `shfl` (R121). -/
def chkShflSub (s : BitVec 4) : Bool := s.toNat == 8 || s.toNat == 9 || s.toNat == 6 || s.toNat == 7
/-- Operations of `lred` and `lscan` (R124). -/
def chkRedOp (s : BitVec 4) : Bool := s.toNat < 9
/-- `wbind`: sub[2:0] is 0 to 6, sub[3] the mode (R125). -/
def chkWbindSub (s : BitVec 4) : Bool := s.toNat % 8 < 7
/-- `wctl`: sub[2:0] is 0 to 6, sub[3] zero (R127). -/
def chkWctlSub (s : BitVec 4) : Bool := s.toNat < 7
/-- `trit`: sub[3] zero (R238). -/
def chkTritSub (s : BitVec 4) : Bool := s.toNat < 8
/-- Operations of `atom` (R157). -/
def chkAtomOp (s : BitVec 4) : Bool := s.toNat < 12
/-- Operations of `red`: 7 and 8 are reserved (R157). -/
def chkRedAOp (s : BitVec 4) : Bool := s.toNat < 12 && s.toNat != 7 && s.toNat != 8
def chkLvlSub (s : BitVec 4) : Bool := s.toNat < 3
def chkGscatSub (s : BitVec 4) : Bool := s.toNat < 2
def chkQpushSub (s : BitVec 4) : Bool := s.toNat < 4
def chkRnd5 (s : BitVec 4) : Bool := s.toNat < 5
def chkRnd6 (s : BitVec 4) : Bool := s.toNat < 6
def chkMmaSub (s : BitVec 4) : Bool := s.toNat < 2

/-- The mode of `imul`; `.wide` needs an element of at most 32 bits (R102). -/
def chkMulMode (sub : BitVec 4) (f : VF) : Bool :=
  f.c.toNat < 2 || (f.c.toNat == 2 && (ETy.ofCode sub).bits ≤ 32)

/-- The condition of `icmp`; type B takes only `.eq` and `.ne` (R105). -/
def chkIcmpCond (sub : BitVec 4) (f : VF) : Bool :=
  f.c.toNat < (if (ETy.ofCode sub).isB then 2 else 6)

/-- `subx`: b is used by modes 1 and 2 (R107). -/
def chkSubxB (_ : BitVec 4) (f : VF) : Bool := f.c.toNat / 16 != 0 || f.b == 0

/-- `subx`: mode in c[5:4], c[3] zero, an index below k, and index 0 in mode 2 (R107). -/
def chkSubxC (sub : BitVec 4) (f : VF) : Bool :=
  let m := f.c.toNat / 16
  let j := f.c.toNat % 16
  m < 3 && j < (ETy.ofCode sub).count && (m != 2 || j == 0)

/-- Element counts ks and kd of a conversion allow group g (R116). -/
def groupOk (ks kd g : Nat) : Bool :=
  if ks == kd then g == 0
  else if kd < ks then ks ≤ 4 * kd && g < ks / kd
  else kd ≤ 4 * ks && g < kd / ks

/-- SD is accepted only for destinations of eight bits or fewer (R57). -/
def sdOk (sub : BitVec 4) (dst : ETy) : Bool := sub.toNat % 8 != 5 || dst.bits ≤ 8

/-- The type code in b[3:0] or c[3:0] of a conversion. -/
def cvtTy (x : BitVec 6) : ETy := ETy.ofCode (x.extractLsb' 0 4)

/-- Source and destination, and the group, of a conversion agree (R115, R116). -/
def cvtGroup (f : VF) : Bool := groupOk (cvtTy f.c).count (cvtTy f.b).count (f.c.toNat / 16)

def chkFcvtB (sub : BitVec 4) (f : VF) : Bool := f.b.toNat < 16 && (cvtTy f.b).isFloat && sdOk sub (cvtTy f.b)
def chkFcvtC (_ : BitVec 4) (f : VF) : Bool := (cvtTy f.c).isFloat && cvtTy f.c != cvtTy f.b && cvtGroup f
def chkIcvtB (sub : BitVec 4) (f : VF) : Bool := f.b.toNat < 16 && (cvtTy f.b).isFloat && sdOk sub (cvtTy f.b)
def chkIcvtC (_ : BitVec 4) (f : VF) : Bool := (cvtTy f.c).intN && cvtGroup f
def chkFcvtiB (sub : BitVec 4) (f : VF) : Bool := f.b.toNat < 16 && (cvtTy f.b).intN && sdOk sub (cvtTy f.b)
def chkFcvtiC (_ : BitVec 4) (f : VF) : Bool := (cvtTy f.c).isFloat && cvtGroup f
/-- `fround`: c[3:0] a type of F, c[5:4] zero (R114). -/
def chkFroundC (_ : BitVec 4) (f : VF) : Bool := f.c.toNat < 16 && (cvtTy f.c).isF

/-- `bcvt`: c[5:4] the operation, c[3:0] a block tag (R117). -/
def chkBlkC (op : Nat) (_ : BitVec 4) (f : VF) : Bool :=
  f.c.toNat / 16 == op && 9 ≤ f.c.toNat % 16 && f.c.toNat % 16 ≤ 11

/-- The member-mask bit M, bit [23] of the word (R119). -/
def VF.member (f : VF) : Bool := f.mods.getLsbD 1

/-- With M clear the c field is zero (R119). -/
def chkMemberC (_ : BitVec 4) (f : VF) : Bool := f.member || f.c == 0

/-- The types of each fold operation (R124). -/
def redTyOk (op : BitVec 4) (t : ETy) : Bool :=
  match op.toNat with
  | 0 | 2 | 3 => t.intN
  | 1 | 7 | 8 => t.isF
  | _ => t.isB

def chkLredB (sub : BitVec 4) (f : VF) : Bool := f.b.toNat < 16 && redTyOk sub (cvtTy f.b)
def chkLscanB (sub : BitVec 4) (f : VF) : Bool := f.b.toNat < 32 && redTyOk sub (cvtTy f.b)

/-- `msnd`: c is 0, or c[3] set and c[2:0] a predicate (R270). -/
def chkMsndC (_ : BitVec 4) (f : VF) : Bool := f.c == 0 || (8 ≤ f.c.toNat && f.c.toNat < 16)

/-- The type of an atomic stands in [33:30], the top of the offset field (R157). -/
def MF.atomTy (f : MF) : ETy := ETy.ofCode (f.off.extractLsb' 16 4)

/-- The types of each atomic operation (R157). -/
def atomTyOk (op : BitVec 4) (t : ETy) : Bool :=
  match op.toNat with
  | 0 | 2 | 3 => t.wide
  | 1 | 9 | 10 => t == .f32
  | 4 | 5 | 6 => t.isB
  | 7 | 8 => t.wide || t.isB
  | 11 => t == .n64 || t == .n32
  | _ => false

def chkAtomTy (sub : BitVec 4) (f : MF) : Bool := atomTyOk sub f.atomTy

/-- The condition of `wait` stands in [33:30]; types 0x8 and 0x9 take only `.eq` and `.ne` (R160). -/
def chkWaitCond (sub : BitVec 4) (f : MF) : Bool :=
  f.off.toNat / 65536 < (if (ETy.ofCode sub).isB then 2 else 6)

/-- `put` and its armed form: [14] is zero (R396). -/
def putFields (f : MF) : List (Nat × Bool) := [(14, f.off.toNat % 2 == 0)]
/-- `get` and its armed form: RCTR, RCE and [14] are zero (R396). -/
def getFields (f : MF) : List (Nat × Bool) :=
  [(18, f.off.toNat / 16 % 256 == 0), (16, f.off.toNat / 4 % 2 == 0), (14, f.off.toNat % 2 == 0)]
/-- `coll`: LCTR and LCE only (R400). -/
def collFields (f : MF) : List (Nat × Bool) := [(18, f.off.toNat / 16 % 256 == 0), (14, f.off.toNat % 8 == 0)]

/-- Each modifier bit is a field of its own; a bit outside `allowed` must be zero (R77). -/
def modsMask (allowed : BitVec 6) (f : VF) : List (Nat × Bool) :=
  [5, 4, 3, 2, 1, 0].map fun k => (22 + k, !f.mods.getLsbD k || allowed.getLsbD k)

/-- No modifier admitted (R98). -/
def modsNone (f : VF) : List (Nat × Bool) := modsMask 0 f

/-- Integer entries admit modifiers on signed types only (R77, R101). -/
def modsInt (allowed : BitVec 6) (ty : ETy) (f : VF) : List (Nat × Bool) := modsMask (if ty.isI then allowed else 0) f

/-- `icvt` admits signed-integer modifiers (R115). -/
def modsCvt (allowed : BitVec 6) (f : VF) : List (Nat × Bool) := modsMask (if (cvtTy f.c).isI then allowed else 0) f

/-- Bits [27:24] and [22] are zero beside the member-mask bit [23] (R119). -/
def modsMember (f : VF) : List (Nat × Bool) := modsMask 0b000010 f

/-- A permute pattern that reads lanes by the parameter p (R78). -/
def permUsesP (k : BitVec 3) : Bool := k.toNat != 0 && k.toNat != 5 && k.toNat != 7

/-- The limit of R78 on p that does not depend on the fibre width. -/
def permLimit (k : BitVec 3) (p : BitVec 6) : Bool :=
  match k.toNat with
  | 5 => p == 0
  | 6 => p.toNat < 4
  | _ => true

/-- The pattern of an operand: allocated, allowed on the operand, and identity on a walker or kc (R78). -/
def permField (allowed : Bool) (k : BitVec 3) (x : BitVec 6) : Bool :=
  k == 0 || (allowed && k.toNat != 7 && x.toNat < 56)

def permChecks (pa pb : Bool) (f : VF) : List (Nat × Bool) :=
  [(19, permField pa f.permA f.a), (16, permField pb f.permB f.b),
   (10, (permUsesP f.permA || permUsesP f.permB || f.p == 0) && permLimit f.permA f.p && permLimit f.permB f.p)]

/-- Destination clamp and scale: zero unless the entry admits them, and scale code 0b100 is reserved (R79). -/
def scaleChecks (allowed : Bool) (f : VF) : List (Nat × Bool) :=
  [(8, allowed || f.clamp == 0), (5, if allowed then f.scale != 4 else f.scale == 0)]

/-- Memory format of `ldt` and `stt`, [23:20] (R163). -/
def XF.mfmt (f : XF) : Nat := f.fields.toNat / 2048
/-- Bit [23]: ZC of `mma`, MERGE of `mdist`, SCAT of `gmma` (R195). -/
def XF.bit23 (f : XF) : Bool := f.fields.getLsbD 14
/-- Bit [22]: PS of `mma`, ZC of `gmma` (R195). -/
def XF.bit22 (f : XF) : Bool := f.fields.getLsbD 13

/-- The flag bits TA, TB, OV and PR where an entry admits none of the ones named by a clear argument. -/
def xFlags (t ov pr : Bool) (f : XF) : List (Nat × Bool) :=
  [(33, t || !f.tA), (32, t || !f.tB), (31, ov || !f.ov), (30, pr || !f.pr)]

/-- [29:24], [23:22] and [21:9] (R195): k within its range, and which of the two flag bits are admitted. -/
def xTail (kOk b23 b22 : Bool) (f : XF) : List (Nat × Bool) :=
  [(24, kOk), (23, b23 || !f.bit23), (22, b22 || !f.bit22), (9, f.fields.toNat % 8192 == 0)]

def xLdt (_ : BitVec 4) (f : XF) : List (Nat × Bool) :=
  [(44, f.ta == 0), (40, f.tb == 0), (34, f.v.toNat < 56)] ++ xFlags false true false f ++
    [(24, f.k == 0), (20, f.mfmt < 7), (9, f.fields.toNat % 2048 == 0)]
def xStt (sub : BitVec 4) (f : XF) : List (Nat × Bool) :=
  [(48, f.td == 0), (40, f.tb == 0), (34, f.v.toNat < 56)] ++ xFlags false true false f ++
    [(24, f.k == 0), (20, f.mfmt < 7 && (sub.toNat != 5 || f.mfmt == 0 || 4 ≤ f.mfmt)), (9, f.fields.toNat % 2048 == 0)]
def xTdesc (f : XF) : List (Nat × Bool) :=
  [(44, f.ta == 0), (40, f.tb == 0), (34, f.v.toNat < 56)] ++ xFlags false false false f ++ xTail (f.k == 0) false false f ++ [(5, f.la == 0)]
def xTget (f : XF) : List (Nat × Bool) :=
  [(48, f.td == 0), (40, f.tb == 0), (34, f.v.toNat < 56)] ++ xFlags false false false f ++ xTail (f.k == 0) false false f ++ [(5, f.la == 0)]
def xMma (_ : BitVec 4) (f : XF) : List (Nat × Bool) :=
  [(34, f.v == 0)] ++ xFlags true true true f ++ xTail (f.k == 0) true f.pr f
def xMdist (f : XF) : List (Nat × Bool) :=
  [(34, f.v.toNat < 56 || f.v.toNat == 63)] ++ xFlags true true false f ++ xTail (1 ≤ f.k.toNat && f.k.toNat ≤ 16) true false f
def xGmma (f : XF) : List (Nat × Bool) :=
  [(48, !f.bit23 || f.td == 0), (34, if f.bit23 then f.v.toNat < 56 else f.v == 0)] ++ xFlags true true false f ++
    xTail (f.k.toNat < 4) true (!f.bit23) f ++ [(5, f.la == 15)]
def xAcqa (f : XF) : List (Nat × Bool) :=
  [(48, f.td == 0), (44, f.ta == 0), (40, f.tb == 0), (34, f.v == 0)] ++ xFlags false false false f ++
    xTail (1 ≤ f.k.toNat && f.k.toNat ≤ 8) false false f ++ [(5, f.la == 0)]
def xRela (f : XF) : List (Nat × Bool) :=
  [(48, f.td == 0), (44, f.ta == 0), (40, f.tb == 0), (34, f.v == 0)] ++ xFlags false false false f ++
    xTail (f.k == 0) false false f ++ [(5, f.la == 0)]
def xMzero (f : XF) : List (Nat × Bool) :=
  [(44, f.ta == 0), (40, f.tb == 0), (34, f.v == 0)] ++ xFlags false false false f ++ xTail (f.k == 0) false false f
def xMld (f : XF) : List (Nat × Bool) :=
  [(40, f.tb == 0), (34, f.v == 0)] ++ xFlags false true false f ++ xTail (f.k == 0) false false f
def xMst (_ : BitVec 4) (f : XF) : List (Nat × Bool) := xMld f
def xMcancel (f : XF) : List (Nat × Bool) :=
  [(48, f.td == 0), (44, f.ta == 0), (40, f.tb == 0), (34, f.v.toNat < 56)] ++ xFlags false false false f ++
    xTail (f.k == 0) false false f ++ [(5, f.la == 0)]

/-- The static checks of each instruction's fields, from the most significant field down: the bit position at which the field
stands, and whether the field holds a value that the instruction's entry allocates (R75, R100 and the entries). -/
def Instr.checks : Instr → List (Nat × Bool)
  | .iadd ty f => [(52, ETy.intN ty), (46, Use.ok .reg f.d), (40, Use.ok .src f.a), (34, Use.ok .src f.b), (28, Use.ok .zero f.c)] ++ modsInt 0b111100 ty f ++ permChecks true true f ++ scaleChecks false f
  | .isub ty f => [(52, ETy.intN ty), (46, Use.ok .reg f.d), (40, Use.ok .src f.a), (34, Use.ok .src f.b), (28, Use.ok .zero f.c)] ++ modsInt 0b111100 ty f ++ permChecks true true f ++ scaleChecks false f
  | .imul ty f => [(52, ETy.intN ty), (46, Use.ok .reg f.d), (40, Use.ok .src f.a), (34, Use.ok .src f.b), (28, chkMulMode ty.code f)] ++ modsInt 0b111100 ty f ++ permChecks true true f ++ scaleChecks false f
  | .imad ty f => [(52, ETy.intN ty), (46, Use.ok .reg f.d), (40, Use.ok .src f.a), (34, Use.ok .src f.b), (28, Use.ok .src f.c)] ++ modsInt 0b111111 ty f ++ permChecks true true f ++ scaleChecks false f
  | .idiv ty f => [(52, ETy.intN ty), (46, Use.ok .reg f.d), (40, Use.ok .src f.a), (34, Use.ok .src f.b), (28, Use.ok .zero f.c)] ++ modsNone f ++ permChecks true true f ++ scaleChecks false f
  | .irem ty f => [(52, ETy.intN ty), (46, Use.ok .reg f.d), (40, Use.ok .src f.a), (34, Use.ok .src f.b), (28, Use.ok .zero f.c)] ++ modsNone f ++ permChecks true true f ++ scaleChecks false f
  | .imin ty f => [(52, ETy.intN ty), (46, Use.ok .reg f.d), (40, Use.ok .src f.a), (34, Use.ok .src f.b), (28, Use.ok .zero f.c)] ++ modsInt 0b111100 ty f ++ permChecks true true f ++ scaleChecks false f
  | .imax ty f => [(52, ETy.intN ty), (46, Use.ok .reg f.d), (40, Use.ok .src f.a), (34, Use.ok .src f.b), (28, Use.ok .zero f.c)] ++ modsInt 0b111100 ty f ++ permChecks true true f ++ scaleChecks false f
  | .iabsd ty f => [(52, ETy.intN ty), (46, Use.ok .reg f.d), (40, Use.ok .src f.a), (34, Use.ok .src f.b), (28, Use.ok .zero f.c)] ++ modsNone f ++ permChecks true true f ++ scaleChecks false f
  | .and ty f => [(52, ETy.isB ty), (46, Use.ok .reg f.d), (40, Use.ok .src f.a), (34, Use.ok .src f.b), (28, Use.ok .zero f.c)] ++ modsMask 0b101000 f ++ permChecks true true f ++ scaleChecks false f
  | .or ty f => [(52, ETy.isB ty), (46, Use.ok .reg f.d), (40, Use.ok .src f.a), (34, Use.ok .src f.b), (28, Use.ok .zero f.c)] ++ modsMask 0b101000 f ++ permChecks true true f ++ scaleChecks false f
  | .xor ty f => [(52, ETy.isB ty), (46, Use.ok .reg f.d), (40, Use.ok .src f.a), (34, Use.ok .src f.b), (28, Use.ok .zero f.c)] ++ modsMask 0b101000 f ++ permChecks true true f ++ scaleChecks false f
  | .shl ty f => [(52, ETy.natB ty), (46, Use.ok .reg f.d), (40, Use.ok .src f.a), (34, Use.ok .src f.b), (28, Use.ok .zero f.c)] ++ modsNone f ++ permChecks true true f ++ scaleChecks false f
  | .shr ty f => [(52, ETy.natB ty), (46, Use.ok .reg f.d), (40, Use.ok .src f.a), (34, Use.ok .src f.b), (28, Use.ok .zero f.c)] ++ modsNone f ++ permChecks true true f ++ scaleChecks false f
  | .sar ty f => [(52, ETy.isI ty), (46, Use.ok .reg f.d), (40, Use.ok .src f.a), (34, Use.ok .src f.b), (28, Use.ok .zero f.c)] ++ modsNone f ++ permChecks true true f ++ scaleChecks false f
  | .rot ty f => [(52, ETy.natB ty), (46, Use.ok .reg f.d), (40, Use.ok .src f.a), (34, Use.ok .src f.b), (28, Use.ok .zero f.c)] ++ modsNone f ++ permChecks true true f ++ scaleChecks false f
  | .bfx ty f => [(52, ETy.wide ty), (46, Use.ok .reg f.d), (40, Use.ok .src f.a), (34, Use.ok .src f.b), (28, Use.ok .zero f.c)] ++ modsNone f ++ permChecks true true f ++ scaleChecks false f
  | .bfi ty f => [(52, ETy.isB ty), (46, Use.ok .reg f.d), (40, Use.ok .src f.a), (34, Use.ok .src f.b), (28, Use.ok .src f.c)] ++ modsNone f ++ permChecks true true f ++ scaleChecks false f
  | .popc ty f => [(52, ETy.natB ty), (46, Use.ok .reg f.d), (40, Use.ok .src f.a), (34, Use.ok .zero f.b), (28, Use.ok .zero f.c)] ++ modsNone f ++ permChecks true false f ++ scaleChecks false f
  | .clz ty f => [(52, ETy.natB ty), (46, Use.ok .reg f.d), (40, Use.ok .src f.a), (34, Use.ok .zero f.b), (28, Use.ok .zero f.c)] ++ modsNone f ++ permChecks true false f ++ scaleChecks false f
  | .brev ty f => [(52, ETy.natB ty), (46, Use.ok .reg f.d), (40, Use.ok .src f.a), (34, Use.ok .zero f.b), (28, Use.ok .zero f.c)] ++ modsNone f ++ permChecks true false f ++ scaleChecks false f
  | .sel f => [(46, Use.ok .reg f.d), (40, Use.ok .src f.a), (34, Use.ok .src f.b), (28, Use.ok (.lt 16) f.c)] ++ modsMask 0b101000 f ++ permChecks true true f ++ scaleChecks false f
  | .icmp ty f => [(52, ETy.intNB ty), (46, Use.ok (.lt 8) f.d), (40, Use.ok .src f.a), (34, Use.ok .src f.b), (28, chkIcmpCond ty.code f)] ++ modsInt 0b111100 ty f ++ permChecks true true f ++ scaleChecks false f
  | .lea ty f => [(52, ETy.leaTy ty), (46, Use.ok .reg f.d), (40, Use.ok .src f.a), (34, Use.ok .src f.b), (28, Use.ok (.lt 8) f.c)] ++ modsNone f ++ permChecks true true f ++ scaleChecks false f
  | .mov f => [(46, Use.ok .reg f.d), (40, Use.ok .src f.a), (34, Use.ok .zero f.b), (28, Use.ok .zero f.c)] ++ modsMask 0b100000 f ++ permChecks true false f ++ scaleChecks false f
  | .subx ty f => [(52, ETy.subxTy ty), (46, Use.ok .reg f.d), (40, Use.ok .src f.a), (34, chkSubxB ty.code f), (28, chkSubxC ty.code f)] ++ modsNone f ++ permChecks true (f.c.toNat / 16 != 0) f ++ scaleChecks false f
  | .fadd ty f => [(52, ETy.isF ty), (46, Use.ok .reg f.d), (40, Use.ok .src f.a), (34, Use.ok .src f.b), (28, Use.ok .zero f.c)] ++ modsMask 0b111100 f ++ permChecks true true f ++ scaleChecks true f
  | .fmul ty f => [(52, ETy.isF ty), (46, Use.ok .reg f.d), (40, Use.ok .src f.a), (34, Use.ok .src f.b), (28, Use.ok .zero f.c)] ++ modsMask 0b111100 f ++ permChecks true true f ++ scaleChecks true f
  | .ffma ty f => [(52, ETy.isF ty), (46, Use.ok .reg f.d), (40, Use.ok .src f.a), (34, Use.ok .src f.b), (28, Use.ok .src f.c)] ++ modsMask 0b111111 f ++ permChecks true true f ++ scaleChecks true f
  | .fmin ty f => [(52, ETy.isF ty), (46, Use.ok .reg f.d), (40, Use.ok .src f.a), (34, Use.ok .src f.b), (28, Use.ok .zero f.c)] ++ modsMask 0b111100 f ++ permChecks true true f ++ scaleChecks true f
  | .fmax ty f => [(52, ETy.isF ty), (46, Use.ok .reg f.d), (40, Use.ok .src f.a), (34, Use.ok .src f.b), (28, Use.ok .zero f.c)] ++ modsMask 0b111100 f ++ permChecks true true f ++ scaleChecks true f
  | .fcmp ty f => [(52, ETy.isF ty), (46, Use.ok (.lt 8) f.d), (40, Use.ok .src f.a), (34, Use.ok .src f.b), (28, Use.ok (.lt 8) f.c)] ++ modsMask 0b111100 f ++ permChecks true true f ++ scaleChecks false f
  | .fclass ty f => [(52, ETy.isFloat ty), (46, Use.ok .reg f.d), (40, Use.ok .src f.a), (34, Use.ok .zero f.b), (28, Use.ok .zero f.c)] ++ modsMask 0b110000 f ++ permChecks true false f ++ scaleChecks false f
  | .fdot ty f => [(52, ETy.dotTy ty), (46, Use.ok .reg f.d), (40, Use.ok .src f.a), (34, Use.ok .src f.b), (28, Use.ok .src f.c)] ++ modsMask 0b111111 f ++ permChecks true true f ++ scaleChecks true f
  | .frcp ty f => [(52, ETy.isF ty), (46, Use.ok .reg f.d), (40, Use.ok .src f.a), (34, Use.ok .zero f.b), (28, Use.ok .zero f.c)] ++ modsMask 0b110000 f ++ permChecks true false f ++ scaleChecks true f
  | .frsq ty f => [(52, ETy.isF ty), (46, Use.ok .reg f.d), (40, Use.ok .src f.a), (34, Use.ok .zero f.b), (28, Use.ok .zero f.c)] ++ modsMask 0b110000 f ++ permChecks true false f ++ scaleChecks true f
  | .fsqrt ty f => [(52, ETy.isF ty), (46, Use.ok .reg f.d), (40, Use.ok .src f.a), (34, Use.ok .zero f.b), (28, Use.ok .zero f.c)] ++ modsMask 0b110000 f ++ permChecks true false f ++ scaleChecks true f
  | .fdiv ty f => [(52, ETy.isF ty), (46, Use.ok .reg f.d), (40, Use.ok .src f.a), (34, Use.ok .src f.b), (28, Use.ok .zero f.c)] ++ modsMask 0b111100 f ++ permChecks true true f ++ scaleChecks true f
  | .fexp2 ty f => [(52, ETy.isF ty), (46, Use.ok .reg f.d), (40, Use.ok .src f.a), (34, Use.ok .zero f.b), (28, Use.ok .zero f.c)] ++ modsMask 0b110000 f ++ permChecks true false f ++ scaleChecks true f
  | .flog2 ty f => [(52, ETy.isF ty), (46, Use.ok .reg f.d), (40, Use.ok .src f.a), (34, Use.ok .zero f.b), (28, Use.ok .zero f.c)] ++ modsMask 0b110000 f ++ permChecks true false f ++ scaleChecks true f
  | .fsin ty f => [(52, ETy.isF ty), (46, Use.ok .reg f.d), (40, Use.ok .src f.a), (34, Use.ok .zero f.b), (28, Use.ok .zero f.c)] ++ modsMask 0b110000 f ++ permChecks true false f ++ scaleChecks true f
  | .fcos ty f => [(52, ETy.isF ty), (46, Use.ok .reg f.d), (40, Use.ok .src f.a), (34, Use.ok .zero f.b), (28, Use.ok .zero f.c)] ++ modsMask 0b110000 f ++ permChecks true false f ++ scaleChecks true f
  | .fcvt sub f => [(52, chkCvtSub sub), (46, Use.ok .reg f.d), (40, Use.ok .src f.a), (34, chkFcvtB sub f), (28, chkFcvtC sub f)] ++ modsMask 0b110000 f ++ permChecks true false f ++ scaleChecks false f
  | .icvt sub f => [(52, chkCvtSub sub), (46, Use.ok .reg f.d), (40, Use.ok .src f.a), (34, chkIcvtB sub f), (28, chkIcvtC sub f)] ++ modsCvt 0b110000 f ++ permChecks true false f ++ scaleChecks false f
  | .fcvti sub f => [(52, chkFcvtiSub sub), (46, Use.ok .reg f.d), (40, Use.ok .src f.a), (34, chkFcvtiB sub f), (28, chkFcvtiC sub f)] ++ modsMask 0b110000 f ++ permChecks true false f ++ scaleChecks false f
  | .fround sub f => [(52, chkRoundSub sub), (46, Use.ok .reg f.d), (40, Use.ok .src f.a), (34, Use.ok .zero f.b), (28, chkFroundC sub f)] ++ modsMask 0b110000 f ++ permChecks true false f ++ scaleChecks true f
  | .fscale ty f => [(52, ETy.isF ty), (46, Use.ok .reg f.d), (40, Use.ok .src f.a), (34, Use.ok .src f.b), (28, Use.ok .zero f.c)] ++ modsMask 0b111100 f ++ permChecks true true f ++ scaleChecks true f
  | .bcvtScale sub f => [(52, chkSubZero sub), (46, Use.ok .reg f.d), (40, Use.ok .src f.a), (34, Use.ok .zero f.b), (28, chkBlkC 0 sub f)] ++ modsNone f ++ permChecks true false f ++ scaleChecks false f
  | .bcvtEnc sub f => [(52, chkCvtSub sub), (46, Use.ok .reg f.d), (40, Use.ok .src f.a), (34, Use.ok .src f.b), (28, chkBlkC 1 sub f)] ++ modsNone f ++ permChecks true true f ++ scaleChecks false f
  | .bcvtDec sub f => [(52, chkDecSub sub), (46, Use.ok .reg f.d), (40, Use.ok .src f.a), (34, Use.ok .src f.b), (28, chkBlkC 2 sub f)] ++ modsNone f ++ permChecks true true f ++ scaleChecks false f
  | .shfl sub f => [(52, chkShflSub sub), (46, Use.ok .reg f.d), (40, Use.ok .src f.a), (34, Use.ok .src f.b), (28, chkMemberC sub f)] ++ modsMember f ++ permChecks true true f ++ scaleChecks false f
  | .voteAny f => [(46, Use.ok (.lt 8) f.d), (40, Use.ok (.lt 16) f.a), (34, Use.ok .zero f.b), (28, chkMemberC 0 f)] ++ modsMember f ++ permChecks false false f ++ scaleChecks false f
  | .voteAll f => [(46, Use.ok (.lt 8) f.d), (40, Use.ok (.lt 16) f.a), (34, Use.ok .zero f.b), (28, chkMemberC 1 f)] ++ modsMember f ++ permChecks false false f ++ scaleChecks false f
  | .voteBallot f => [(46, Use.ok .reg f.d), (40, Use.ok (.lt 16) f.a), (34, Use.ok .zero f.b), (28, chkMemberC 2 f)] ++ modsMember f ++ permChecks false false f ++ scaleChecks false f
  | .voteCount f => [(46, Use.ok .reg f.d), (40, Use.ok (.lt 16) f.a), (34, Use.ok .zero f.b), (28, chkMemberC 3 f)] ++ modsMember f ++ permChecks false false f ++ scaleChecks false f
  | .cdetMask f => [(46, Use.ok .reg f.d), (40, Use.ok .src f.a), (34, Use.ok .zero f.b), (28, Use.ok (.lt 8) f.c)] ++ modsNone f ++ permChecks true false f ++ scaleChecks false f
  | .cdetFadd f => [(46, Use.ok .reg f.d), (40, Use.ok .src f.a), (34, Use.ok .src f.b), (28, Use.ok (.lt 8) f.c)] ++ modsNone f ++ permChecks true true f ++ scaleChecks false f
  | .cdetIadd f => [(46, Use.ok .reg f.d), (40, Use.ok .src f.a), (34, Use.ok .src f.b), (28, Use.ok (.lt 8) f.c)] ++ modsNone f ++ permChecks true true f ++ scaleChecks false f
  | .lred sub f => [(52, chkRedOp sub), (46, Use.ok .reg f.d), (40, Use.ok .src f.a), (34, chkLredB sub f), (28, Use.ok .zero f.c)] ++ modsNone f ++ permChecks true false f ++ scaleChecks false f
  | .lscan sub f => [(52, chkRedOp sub), (46, Use.ok .reg f.d), (40, Use.ok .src f.a), (34, chkLscanB sub f), (28, Use.ok .zero f.c)] ++ modsNone f ++ permChecks true false f ++ scaleChecks false f
  | .wbind sub f => [(52, chkWbindSub sub), (46, Use.ok .zero f.d), (40, Use.ok .reg f.a), (34, Use.ok .reg f.b), (28, Use.ok .reg f.c)] ++ modsNone f ++ permChecks true true f ++ scaleChecks false f
  | .wctlEnds sub f => [(52, chkWctlSub sub), (46, Use.ok .zero f.d), (40, Use.ok .src f.a), (34, Use.ok .zero f.b), (28, Use.ok (.eq 0) f.c)] ++ modsNone f ++ permChecks true false f ++ scaleChecks false f
  | .wctlVtype sub f => [(52, chkWctlSub sub), (46, Use.ok .zero f.d), (40, Use.ok .src f.a), (34, Use.ok .zero f.b), (28, Use.ok (.eq 1) f.c)] ++ modsNone f ++ permChecks true false f ++ scaleChecks false f
  | .wctlShift sub f => [(52, chkWctlSub sub), (46, Use.ok .zero f.d), (40, Use.ok .src f.a), (34, Use.ok .zero f.b), (28, Use.ok (.eq 2) f.c)] ++ modsNone f ++ permChecks true false f ++ scaleChecks false f
  | .wctlRew sub f => [(52, chkWctlSub sub), (46, Use.ok .zero f.d), (40, Use.ok .zero f.a), (34, Use.ok .zero f.b), (28, Use.ok (.eq 3) f.c)] ++ modsNone f ++ permChecks false false f ++ scaleChecks false f
  | .wctlUnbind sub f => [(52, chkWctlSub sub), (46, Use.ok .zero f.d), (40, Use.ok .zero f.a), (34, Use.ok .zero f.b), (28, Use.ok (.eq 4) f.c)] ++ modsNone f ++ permChecks false false f ++ scaleChecks false f
  | .wctlTell sub f => [(52, chkWctlSub sub), (46, Use.ok .reg f.d), (40, Use.ok .zero f.a), (34, Use.ok .zero f.b), (28, Use.ok (.eq 5) f.c)] ++ modsNone f ++ permChecks false false f ++ scaleChecks false f
  | .wctlSkip sub f => [(52, chkWctlSub sub), (46, Use.ok .zero f.d), (40, Use.ok .src f.a), (34, Use.ok .zero f.b), (28, Use.ok (.eq 6) f.c)] ++ modsNone f ++ permChecks true false f ++ scaleChecks false f
  | .shapeGet f => [(46, Use.ok .reg f.d), (40, Use.ok .src f.a), (34, Use.ok .zero f.b), (28, Use.ok .zero f.c)] ++ modsNone f ++ permChecks true false f ++ scaleChecks false f
  | .shapeGen f => [(46, Use.ok .reg f.d), (40, Use.ok .src f.a), (34, Use.ok .zero f.b), (28, Use.ok .zero f.c)] ++ modsNone f ++ permChecks true false f ++ scaleChecks false f
  | .shapeUni f => [(46, Use.ok .reg f.d), (40, Use.ok .src f.a), (34, Use.ok .zero f.b), (28, Use.ok .zero f.c)] ++ modsNone f ++ permChecks true false f ++ scaleChecks false f
  | .shapeAff f => [(46, Use.ok .reg f.d), (40, Use.ok .src f.a), (34, Use.ok .src f.b), (28, Use.ok .zero f.c)] ++ modsNone f ++ permChecks true true f ++ scaleChecks false f
  | .ftagGet f => [(46, Use.ok .reg f.d), (40, Use.ok .src f.a), (34, Use.ok .zero f.b), (28, Use.ok .zero f.c)] ++ modsNone f ++ permChecks true false f ++ scaleChecks false f
  | .ftagSet f => [(46, Use.ok .reg f.d), (40, Use.ok .src f.a), (34, Use.ok .zero f.b), (28, Use.ok (.lt 9) f.c)] ++ modsNone f ++ permChecks true false f ++ scaleChecks false f
  | .ftagTget f => [(46, Use.ok .reg f.d), (40, Use.ok (.lt 16) f.a), (34, Use.ok .zero f.b), (28, Use.ok .zero f.c)] ++ modsNone f ++ permChecks false false f ++ scaleChecks false f
  | .ftagTset f => [(46, Use.ok (.lt 16) f.d), (40, Use.ok .zero f.a), (34, Use.ok .zero f.b), (28, Use.ok (.lt 12) f.c)] ++ modsNone f ++ permChecks false false f ++ scaleChecks false f
  | .triadj f => [(46, Use.ok .reg f.d), (40, Use.ok .reg f.a), (34, Use.ok .reg f.b), (28, Use.ok .reg f.c)] ++ modsNone f ++ permChecks false false f ++ scaleChecks false f
  | .texadjLod f => [(46, Use.ok .reg f.d), (40, Use.ok .reg f.a), (34, Use.ok .reg f.b), (28, Use.ok .reg f.c)] ++ modsNone f ++ permChecks false false f ++ scaleChecks false f
  | .texadjGrad f => [(46, Use.ok .reg f.d), (40, Use.ok .reg f.a), (34, Use.ok .reg f.b), (28, Use.ok .reg f.c)] ++ modsNone f ++ permChecks false false f ++ scaleChecks false f
  | .edgeq f => [(46, Use.ok .reg f.d), (40, Use.ok .reg f.a), (34, Use.ok .zero f.b), (28, Use.ok (.lt 8) f.c)] ++ modsNone f ++ permChecks false false f ++ scaleChecks false f
  | .boxt f => [(46, Use.ok .reg f.d), (40, Use.ok .reg f.a), (34, Use.ok .reg f.b), (28, Use.ok .reg f.c)] ++ modsNone f ++ permChecks false false f ++ scaleChecks false f
  | .trit sub f => [(52, chkTritSub sub), (46, Use.ok .reg f.d), (40, Use.ok .reg f.a), (34, Use.ok .reg f.b), (28, Use.ok .reg f.c)] ++ modsNone f ++ permChecks false false f ++ scaleChecks false f
  | .spush f => [(46, Use.ok .zero f.d), (40, Use.ok .reg f.a), (34, Use.ok .zero f.b), (28, Use.ok .zero f.c)] ++ modsNone f ++ permChecks false false f ++ scaleChecks false f
  | .spop f => [(46, Use.ok .reg f.d), (40, Use.ok .zero f.a), (34, Use.ok .zero f.b), (28, Use.ok (.lt 8) f.c)] ++ modsNone f ++ permChecks false false f ++ scaleChecks false f
  | .spopDepth f => [(46, Use.ok .reg f.d), (40, Use.ok .zero f.a), (34, Use.ok .zero f.b), (28, Use.ok .zero f.c)] ++ modsNone f ++ permChecks false false f ++ scaleChecks false f
  | .spopClear f => [(46, Use.ok .zero f.d), (40, Use.ok .zero f.a), (34, Use.ok .zero f.b), (28, Use.ok .zero f.c)] ++ modsNone f ++ permChecks false false f ++ scaleChecks false f
  | .cull f => [(46, Use.ok .reg f.d), (40, Use.ok .reg f.a), (34, Use.ok .reg f.b), (28, Use.ok (.lt 8) f.c)] ++ modsNone f ++ permChecks false false f ++ scaleChecks false f
  | .exptri f => [(46, Use.ok .zero f.d), (40, Use.ok .reg f.a), (34, Use.ok .reg f.b), (28, Use.ok .reg f.c)] ++ modsNone f ++ permChecks false false f ++ scaleChecks false f
  | .texLod f => [(46, Use.ok .reg f.d), (40, Use.ok .reg f.a), (34, Use.ok .reg f.b), (28, Use.ok .zero f.c)] ++ modsNone f ++ permChecks false false f ++ scaleChecks false f
  | .texGrad f => [(46, Use.ok .reg f.d), (40, Use.ok .reg f.a), (34, Use.ok .reg f.b), (28, Use.ok .zero f.c)] ++ modsNone f ++ permChecks false false f ++ scaleChecks false f
  | .texqSize f => [(46, Use.ok .reg f.d), (40, Use.ok .reg f.a), (34, Use.ok .reg f.b), (28, Use.ok .zero f.c)] ++ modsNone f ++ permChecks false false f ++ scaleChecks false f
  | .texqLod f => [(46, Use.ok .reg f.d), (40, Use.ok .reg f.a), (34, Use.ok .reg f.b), (28, Use.ok .zero f.c)] ++ modsNone f ++ permChecks false false f ++ scaleChecks false f
  | .msnd sub f => [(46, Use.ok .zero f.d), (40, Use.ok .reg f.a), (34, Use.ok .reg f.b), (28, chkMsndC sub f)] ++ modsNone f ++ permChecks false false f ++ scaleChecks false f
  | .mrcv _ f => [(46, Use.ok .reg f.d), (40, Use.ok .zero f.a), (34, Use.ok .zero f.b), (28, Use.ok (.lt 16) f.c)] ++ modsNone f ++ permChecks false false f ++ scaleChecks false f
  | .movi f => [(46, Use.ok .reg f.d), (40, Use.ok .zero f.a)]
  | .iaddi ty f => [(52, ETy.intN ty), (46, Use.ok .reg f.d), (40, Use.ok .src f.a)]
  | .andi f => [(46, Use.ok .reg f.d), (40, Use.ok .src f.a)]
  | .ori f => [(46, Use.ok .reg f.d), (40, Use.ok .src f.a)]
  | .xori f => [(46, Use.ok .reg f.d), (40, Use.ok .src f.a)]
  | .icmpi ty f => [(52, ETy.wide ty), (46, decide (f.d.toNat < 48)), (40, Use.ok .src f.a)]
  | .movhi f => [(46, Use.ok .reg f.d), (40, Use.ok .zero f.a)]
  | .ld _ f => [(46, Use.ok .reg f.d), (40, Use.ok .src f.a), (34, Use.ok .src f.b), (12, f.order.toNat < 2)]
  | .st _ f => [(46, Use.ok .zero f.d), (40, Use.ok .src f.a), (34, Use.ok .src f.b), (12, f.order == 0 || f.order == 2)]
  | .ld2 _ f => [(46, Use.ok .reg f.d), (40, Use.ok .src f.a), (34, Use.ok .src f.b), (12, f.order.toNat < 2)]
  | .st2 _ f => [(46, Use.ok .zero f.d), (40, Use.ok .src f.a), (34, Use.ok .reg f.b), (12, f.order == 0 || f.order == 2)]
  | .atom sub f => [(52, chkAtomOp sub), (46, Use.ok .reg f.d), (40, Use.ok .src f.a), (34, Use.ok .src f.b), (30, chkAtomTy sub f), (9, f.policy == 0 || f.policy == 2)]
  | .red sub f => [(52, chkRedAOp sub), (46, Use.ok .zero f.d), (40, Use.ok .src f.a), (34, Use.ok .src f.b), (30, chkAtomTy sub f), (12, f.order == 0 || f.order == 2), (9, f.policy == 0 || f.policy == 2)]
  | .wait ty f => [(52, ETy.waitTy ty), (46, Use.ok .reg f.d), (40, Use.ok .src f.a), (34, Use.ok .src f.b), (30, chkWaitCond ty.code f), (12, f.order.toNat < 2), (9, f.policy == 0 || f.policy == 2), (5, f.la == 0)]
  | .prefetch sub f => [(52, chkLvlSub sub), (46, Use.ok .zero f.d), (40, Use.ok .src f.a), (34, Use.ok .src f.b), (12, f.order == 0), (11, !f.scope), (9, f.policy == 0), (5, f.la == 0)]
  | .cpy f => [(46, Use.ok .reg f.d), (40, Use.ok .src f.a), (34, Use.ok .src f.b), (14, f.off == 0), (12, f.order == 0), (11, !f.scope), (9, f.policy.toNat < 2)]
  | .lockWait f => [(46, Use.ok .zero f.d), (40, Use.ok .src f.a), (34, Use.ok .src f.b), (12, f.order == 0), (11, !f.scope), (9, f.policy == 0), (5, f.la == 0)]
  | .lockTest f => [(46, Use.ok .reg f.d), (40, Use.ok .src f.a), (34, Use.ok .src f.b), (12, f.order == 0), (11, !f.scope), (9, f.policy == 0), (5, f.la == 0)]
  | .stn f => [(46, Use.ok .zero f.d), (40, Use.ok .src f.a), (34, Use.ok .reg f.b), (12, f.order == 0 || f.order == 2)]
  | .ldn f => [(46, Use.ok .reg f.d), (40, Use.ok .src f.a), (34, Use.ok .src f.b), (12, f.order.toNat < 2)]
  | .fpgQuery f => [(46, Use.ok .reg f.d), (40, Use.ok .src f.a), (34, Use.ok .src f.b), (12, f.order == 0), (11, !f.scope), (9, f.policy == 0)]
  | .fpgPin f => [(46, Use.ok .reg f.d), (40, Use.ok .src f.a), (34, Use.ok .src f.b), (12, f.order == 0), (11, !f.scope), (9, f.policy == 0)]
  | .fpgUnpin f => [(46, Use.ok .reg f.d), (40, Use.ok .src f.a), (34, Use.ok .src f.b), (12, f.order == 0), (11, !f.scope), (9, f.policy == 0)]
  | .fpgForce f => [(46, Use.ok .reg f.d), (40, Use.ok .src f.a), (34, Use.ok .src f.b), (12, f.order == 0), (11, !f.scope), (9, f.policy == 0)]
  | .gscat sub f => [(52, chkGscatSub sub), (46, Use.ok .zero f.d), (40, Use.ok .src f.a), (34, Use.ok .src f.b), (12, f.order == 0), (11, !f.scope), (9, f.policy == 0)]
  | .qpush sub f => [(52, chkQpushSub sub), (46, Use.ok .zero f.d), (40, Use.ok .src f.a), (34, Use.ok .reg f.b), (14, f.off == 0), (12, f.order == 0), (11, !f.scope), (9, f.policy == 0)]
  | .put f => [(46, Use.ok .reg f.d), (40, Use.ok .reg f.a), (34, Use.ok .reg f.b)] ++ putFields f ++ [(12, f.order == 0 || f.order == 2), (11, f.scope), (9, f.policy.toNat < 2)]
  | .get f => [(46, Use.ok .reg f.d), (40, Use.ok .reg f.a), (34, Use.ok .reg f.b)] ++ getFields f ++ [(12, f.order == 0), (11, f.scope), (9, f.policy.toNat < 2)]
  | .trigPut f => [(46, Use.ok .reg f.d), (40, Use.ok .reg f.a), (34, Use.ok .reg f.b)] ++ putFields f ++ [(12, f.order == 0), (11, f.scope), (9, f.policy.toNat < 2), (5, f.la == 0)]
  | .trigGet f => [(46, Use.ok .reg f.d), (40, Use.ok .reg f.a), (34, Use.ok .reg f.b)] ++ getFields f ++ [(12, f.order == 0), (11, f.scope), (9, f.policy.toNat < 2), (5, f.la == 0)]
  | .collAllreduce f => [(46, Use.ok .reg f.d), (40, Use.ok .src f.a), (34, Use.ok .src f.b)] ++ collFields f ++ [(12, f.order == 0), (11, f.scope), (9, f.policy.toNat < 2)]
  | .collRscatter f => [(46, Use.ok .reg f.d), (40, Use.ok .src f.a), (34, Use.ok .src f.b)] ++ collFields f ++ [(12, f.order == 0), (11, f.scope), (9, f.policy.toNat < 2)]
  | .collBcast f => [(46, Use.ok .reg f.d), (40, Use.ok .src f.a), (34, Use.ok .src f.b)] ++ collFields f ++ [(12, f.order == 0), (11, f.scope), (9, f.policy.toNat < 2)]
  | .bra f => [(46, Use.ok .zero f.a)]
  | .brx f => [(46, Use.ok .reg f.a)]
  | .call f => [(46, Use.ok .reg f.a)]
  | .callX f => [(46, Use.ok .reg f.a)]
  | .ret f => [(46, Use.ok .reg f.a), (14, f.off == 0)]
  | .ldt sub f => [(52, chkRnd5 sub)] ++ xLdt sub f
  | .stt sub f => [(52, chkRnd6 sub)] ++ xStt sub f
  | .tdesc f => [] ++ xTdesc f
  | .tget f => [] ++ xTget f
  | .mma sub f => [(52, chkMmaSub sub)] ++ xMma sub f
  | .mdist f => [] ++ xMdist f
  | .gmma f => [] ++ xGmma f
  | .acqa f => [] ++ xAcqa f
  | .rela f => [] ++ xRela f
  | .mzero f => [] ++ xMzero f
  | .mld sub f => [(52, chkRnd5 sub)] ++ xMld f
  | .mst sub f => [(52, chkRnd6 sub)] ++ xMst sub f
  | .mcancel f => [] ++ xMcancel f
  | .mcancelTeam f => [] ++ xMcancel f
  | .exit f => [(46, Use.ok .zero f.d), (40, Use.ok .zero f.a), (20, f.imm == 0)]
  | .join f => [(46, Use.ok .zero f.d), (40, Use.ok .zero f.a), (20, f.imm == 0)]
  | .joinM f => [(46, Use.ok .zero f.d), (40, Use.ok .reg f.a), (20, f.imm == 0)]
  | .reform f => [(46, Use.ok .zero f.d), (40, Use.ok .zero f.a), (20, f.imm == 0)]
  | .reformX f => [(46, Use.ok .zero f.d), (40, Use.ok .reg f.a), (20, f.imm == 0)]
  | .yield f => [(46, Use.ok .zero f.d), (40, Use.ok .zero f.a), (20, f.imm == 0)]
  | .nop f => [(46, Use.ok .zero f.d), (40, Use.ok .zero f.a), (20, f.imm == 0)]
  | .fbarArrive f => [(46, Use.ok .zero f.d), (40, Use.ok .zero f.a), (20, decide (f.imm.toNat < 20))]
  | .fbarWait f => [(46, Use.ok .zero f.d), (40, Use.ok .zero f.a), (20, decide (f.imm.toNat < 4))]
  | .tbar f => [(46, Use.ok .zero f.d), (40, Use.ok .zero f.a), (20, decide (f.imm.toNat < 16))]
  | .tbarArrive f => [(46, Use.ok .zero f.d), (40, Use.ok .zero f.a), (20, decide (f.imm.toNat < 16))]
  | .fence f => [(46, Use.ok .zero f.d), (40, Use.ok .zero f.a), (20, f.imm == 0)]
  | .fenceDom f => [(46, Use.ok .zero f.d), (40, Use.ok .zero f.a), (20, f.imm == 0)]
  | .bmodeL1 f => [(46, Use.ok .zero f.d), (40, Use.ok .zero f.a), (20, decide (f.imm.toNat < 48))]
  | .bmodeScr f => [(46, Use.ok .zero f.d), (40, Use.ok .zero f.a), (20, decide (f.imm.toNat < 48))]
  | .bmodeFifo f => [(46, Use.ok .zero f.d), (40, Use.ok .zero f.a), (20, decide (f.imm.toNat < 48))]
  | .trec f => [(46, Use.ok .zero f.d), (40, Use.ok .reg f.a), (20, f.imm == 0)]
  | .tmarkRec f => [(46, Use.ok .zero f.d), (40, Use.ok .reg f.a)]
  | .tmarkRc f => [(46, Use.ok .zero f.d), (40, Use.ok .reg f.a)]
  | .tpop f => [(46, Use.ok (.lt 8) f.d), (40, Use.ok .zero f.a), (20, f.imm == 0)]
  | .tend f => [(46, Use.ok .zero f.d), (40, Use.ok .zero f.a), (20, f.imm == 0)]
  | .tqueryNext f => [(46, Use.ok .reg f.d), (40, Use.ok .zero f.a), (20, f.imm == 0)]
  | .tqueryUsed f => [(46, Use.ok .reg f.d), (40, Use.ok .zero f.a), (20, f.imm == 0)]
  | .tqueryQuota f => [(46, Use.ok .reg f.d), (40, Use.ok .zero f.a), (20, f.imm == 0)]
  | .gflush f => [(46, Use.ok .zero f.d), (40, Use.ok .reg f.a), (20, f.imm == 0)]
  | .gflushAll f => [(46, Use.ok .zero f.d), (40, Use.ok .zero f.a), (20, f.imm == 0)]
  | .qinfoRange f => [(46, Use.ok .reg f.d), (40, Use.ok .zero f.a), (20, f.imm == 0)]
  | .qinfoFill f => [(46, Use.ok .reg f.d), (40, Use.ok .reg f.a), (20, f.imm == 0)]
  | .qinfoSpace f => [(46, Use.ok .reg f.d), (40, Use.ok .reg f.a), (20, f.imm == 0)]
  | .cntrRead f => [(46, Use.ok .reg f.d), (40, Use.ok .zero f.a), (20, decide (f.imm.toNat < 768))]
  | .cntrAdd f => [(46, Use.ok .zero f.d), (40, Use.ok .reg f.a), (20, decide (f.imm.toNat < 768))]
  | .cntrSet f => [(46, Use.ok .zero f.d), (40, Use.ok .reg f.a), (20, decide (f.imm.toNat < 768))]
  | .sget f => [(46, Use.ok .reg f.d), (40, Use.ok .zero f.a), (20, decide (f.imm.toNat < 20))]
  | .sset f => [(46, Use.ok .zero f.d), (40, Use.ok .reg f.a), (20, decide (f.imm.toNat < 20))]
  | .trap f => [(46, Use.ok .zero f.d), (40, Use.ok .zero f.a)]
  | .tret f => [(46, Use.ok .zero f.d), (40, Use.ok .zero f.a), (20, f.imm == 0)]
  | .tinv f => [(46, Use.ok .reg f.d), (40, Use.ok .zero f.a), (20, decide (f.imm.toNat < 4))]
  | .copInv f => [(46, Use.ok .zero f.d), (40, Use.ok .reg f.a), (20, f.imm == 0)]
  | .copInvall f => [(46, Use.ok .zero f.d), (40, Use.ok .zero f.a), (20, f.imm == 0)]
  | .halt f => [(46, Use.ok .zero f.d), (40, Use.ok .reg f.a), (20, f.imm == 0)]
  | .brk f => [(46, Use.ok .zero f.d), (40, Use.ok .zero f.a)]
  | .galleryDraw _ _ => []
  | .binAgeLimit _ _ => []
  | .waitRetestWrite _ _ => []
  | .waitRetestTimer _ _ => []
  | .cpyComplete _ _ => []
  | .parkedAccessResume _ => []
  | .accumulatorGrant _ => []
  | .forwardArrayComplete _ => []
  | .gradientEngineStart _ => []
  | .gradientEngineComplete _ => []
  | .tapeSpill _ => []
  | .tapeRefill _ _ => []
  | .scatterAddition _ => []
  | .rasterBufferEntry _ => []
  | .rasteriseTriangle _ => []
  | .qpushUnpark _ => []
  | .qpushCommit _ => []
  | .msndUnpark _ => []
  | .mrcvUnpark _ => []
  | .putComplete _ _ => []
  | .getComplete _ _ => []
  | .triggerFire _ _ => []
  | .collComplete _ _ _ => []
  | .collTimeout _ _ _ => []
  | .clauseIssue _ => []
  | .pathAgeing _ => []
  | .clauseFetchFill _ => []
  | .lookaheadLanding _ _ => []
  | .scoreboardLanding _ _ => []
  | .storeAcknowledged _ _ => []
  | .loadReply _ _ => []
  | .tileTransferComplete _ _ => []
  | .launchRecordTake _ _ => []
  | .launchDependenceMet _ => []
  | .teamPlacement _ => []
  | .teamRetirement _ => []
  | .launchCompletion _ => []
  | .queueAgeLimit _ => []
  | .launchStop _ => []
  | .requantiserPick _ => []
  | .requantiserCommit _ => []
  | .drainDeadline _ => []
  | .saveDeadline _ => []
  | .parkSwap _ => []
  | .watchdogFire _ => []
  | .terminationComplete _ => []
  | .fabricRequestTimeout _ _ => []
  | .sramEccError _ => []
  | .uncorrectableStateError _ => []
  | .clusterEccError _ => []
  | .memoryEccError _ => []
  | .scatterUnitError _ _ => []
  | .patrolScrub _ => []
  | .hostSnoop _ _ => []
  | .hostMemAccess _ => []
  | .bridgeFlitFailure _ => []
  | .packageReset _ => []
  | .powerLoss => []
  | .powerArbiterPeriod _ _ _ => []
  | .thermalLimitChange _ => []
  | .thermalTrip => []
  | .registerContext _ => []
  | .registerLaunchQueue _ => []
  | .registerReclaimQueue _ => []
  | .requantiserThreshold _ => []
  | .invalidateTranslation _ => []
  | .pageReply _ => []
  | .preemptContext _ => []
  | .liftPreemption _ => []
  | .terminateContext _ => []
  | .registerWindowKey _ => []
  | .firmwareChunk _ => []
  | .setPowerLimit _ => []
  | .reservedCommand _ => []
  | .mailboxRegisterWrite _ _ => []
  | .getVersion _ => []
  | .getCapabilities _ => []
  | .negotiateAlgorithms _ => []
  | .getDigests _ => []
  | .getCertificate _ => []
  | .challenge _ => []
  | .getMeasurements _ => []
  | .keyExchange _ => []
  | .ideKm _ => []
  | .slotMarker _ _ => []
  | .calendarLoad _ _ => []
  | .bulkSend _ => []
  | .relayFlitArrival _ => []
  | .relayForward _ => []
  | .creditUpdateSend _ => []
  | .creditUpdateReceived _ _ => []
  | .creditIncrementFlit _ => []
  | .flitAck _ => []
  | .flitReplay _ => []
  | .remoteRequestArrival _ => []
  | .skipNoticeArrival _ _ => []
  | .fabricResponseArrival _ => []
  | .portFailure _ _ => []
  | .spareSwitchComplete _ => []
  | .tapeEntryInRing _ _ => []
  | .configurationRequest _ => []
  | .guardIntervalEnd => []
  | .blackoutNotice _ _ _ => []

/-- Bit position of the first offending field, from the most significant down (DETAIL of fault 0x01, R328). -/
def Instr.firstBad (i : Instr) : Option Nat := (i.checks.find? fun c => !c.2).map Prod.fst

/-- An instruction whose every field holds an allocated value. -/
def Instr.wf (i : Instr) : Bool := i.checks.all Prod.snd

/-- `fbar.arrive` writes n, 0 to 4, in imm20[4:2]; larger codes are refused (R140). -/
def fbarCount (imm : BitVec 20) : Nat := imm.toNat / 4

end Sys2Proof
end

