-- ==== Sys2Proof/Decode.lean ====
section
/-! DEFINITION. The decoder from words and bytes to instructions, total and refusing by name, and after it the encoder, both
written from the format tables (R76 to R84) and the entries' encodings. -/

namespace Sys2Proof

/-- Why a word is no instruction; each is illegal instruction, 0x01 (R75), but for a byte list that is too short. -/
inductive DecodeError where
  | truncated
  | reservedMajor
  | reservedSub
  | badField (bit : Nat)
deriving DecidableEq, Repr

/-- DETAIL of the illegal-instruction fault: the bit position of the first offending field (R328). -/
def DecodeError.bit : DecodeError → Nat
  | .truncated => 0
  | .reservedMajor => 56
  | .reservedSub => 52
  | .badField b => b

def fMajor (w : Word) : BitVec 8 := w.extractLsb' 56 8
def fSub (w : Word) : BitVec 4 := w.extractLsb' 52 4

/-- Bits [4:0] (R75). -/
def getGuard (w : Word) : Guard := ⟨w.getLsbD 4, w.getLsbD 3, w.extractLsb' 0 3⟩

def getV (w : Word) : VF :=
  ⟨w.extractLsb' 46 6, w.extractLsb' 40 6, w.extractLsb' 34 6, w.extractLsb' 28 6, w.extractLsb' 22 6, w.extractLsb' 19 3,
   w.extractLsb' 16 3, w.extractLsb' 10 6, w.extractLsb' 8 2, w.extractLsb' 5 3, getGuard w⟩
def getI (w : Word) : IF := ⟨w.extractLsb' 46 6, w.extractLsb' 40 6, w.extractLsb' 8 32, getGuard w⟩
def getM (w : Word) : MF :=
  ⟨w.extractLsb' 46 6, w.extractLsb' 40 6, w.extractLsb' 34 6, w.extractLsb' 14 20, w.extractLsb' 12 2, w.getLsbD 11,
   w.extractLsb' 9 2, w.extractLsb' 5 4, getGuard w⟩
def getB (w : Word) : BF := ⟨w.extractLsb' 46 6, w.extractLsb' 14 32, getGuard w⟩
def getX (w : Word) : XF :=
  ⟨w.extractLsb' 48 4, w.extractLsb' 44 4, w.extractLsb' 40 4, w.extractLsb' 34 6, w.getLsbD 33, w.getLsbD 32, w.getLsbD 31,
   w.getLsbD 30, w.extractLsb' 24 6, w.extractLsb' 9 15, w.extractLsb' 5 4, getGuard w⟩
def getS (w : Word) : SF := ⟨w.extractLsb' 46 6, w.extractLsb' 40 6, w.extractLsb' 20 20, getGuard w⟩

/-- The instruction that the fields of a word name, by the major opcode map (R90) and the entries' sub values. -/
def parse (w : Word) : Except DecodeError Instr :=
  match (fMajor w).toNat with
  | 0x01 => .ok (.iadd (ETy.ofCode (fSub w)) (getV w))
  | 0x02 => .ok (.isub (ETy.ofCode (fSub w)) (getV w))
  | 0x03 => .ok (.imul (ETy.ofCode (fSub w)) (getV w))
  | 0x04 => .ok (.imad (ETy.ofCode (fSub w)) (getV w))
  | 0x05 => .ok (.idiv (ETy.ofCode (fSub w)) (getV w))
  | 0x06 => .ok (.irem (ETy.ofCode (fSub w)) (getV w))
  | 0x07 => .ok (.imin (ETy.ofCode (fSub w)) (getV w))
  | 0x08 => .ok (.imax (ETy.ofCode (fSub w)) (getV w))
  | 0x09 => .ok (.iabsd (ETy.ofCode (fSub w)) (getV w))
  | 0x0A => .ok (.and (ETy.ofCode (fSub w)) (getV w))
  | 0x0B => .ok (.or (ETy.ofCode (fSub w)) (getV w))
  | 0x0C => .ok (.xor (ETy.ofCode (fSub w)) (getV w))
  | 0x0D => .ok (.shl (ETy.ofCode (fSub w)) (getV w))
  | 0x0E => .ok (.shr (ETy.ofCode (fSub w)) (getV w))
  | 0x0F => .ok (.sar (ETy.ofCode (fSub w)) (getV w))
  | 0x10 => .ok (.rot (ETy.ofCode (fSub w)) (getV w))
  | 0x11 => .ok (.bfx (ETy.ofCode (fSub w)) (getV w))
  | 0x12 => .ok (.bfi (ETy.ofCode (fSub w)) (getV w))
  | 0x13 => .ok (.popc (ETy.ofCode (fSub w)) (getV w))
  | 0x14 => .ok (.clz (ETy.ofCode (fSub w)) (getV w))
  | 0x15 => .ok (.brev (ETy.ofCode (fSub w)) (getV w))
  | 0x16 => match (fSub w).toNat with
    | 8 => .ok (.sel (getV w))
    | _ => .error .reservedSub
  | 0x17 => .ok (.icmp (ETy.ofCode (fSub w)) (getV w))
  | 0x18 => .ok (.lea (ETy.ofCode (fSub w)) (getV w))
  | 0x19 => match (fSub w).toNat with
    | 8 => .ok (.mov (getV w))
    | _ => .error .reservedSub
  | 0x1A => .ok (.subx (ETy.ofCode (fSub w)) (getV w))
  | 0x20 => match (fSub w).toNat with
    | 8 => .ok (.movi (getI w))
    | _ => .error .reservedSub
  | 0x21 => .ok (.iaddi (ETy.ofCode (fSub w)) (getI w))
  | 0x22 => match (fSub w).toNat with
    | 8 => .ok (.andi (getI w))
    | _ => .error .reservedSub
  | 0x23 => match (fSub w).toNat with
    | 8 => .ok (.ori (getI w))
    | _ => .error .reservedSub
  | 0x24 => match (fSub w).toNat with
    | 8 => .ok (.xori (getI w))
    | _ => .error .reservedSub
  | 0x25 => .ok (.icmpi (ETy.ofCode (fSub w)) (getI w))
  | 0x26 => match (fSub w).toNat with
    | 8 => .ok (.movhi (getI w))
    | _ => .error .reservedSub
  | 0x40 => .ok (.fadd (ETy.ofCode (fSub w)) (getV w))
  | 0x41 => .ok (.fmul (ETy.ofCode (fSub w)) (getV w))
  | 0x42 => .ok (.ffma (ETy.ofCode (fSub w)) (getV w))
  | 0x43 => .ok (.fmin (ETy.ofCode (fSub w)) (getV w))
  | 0x44 => .ok (.fmax (ETy.ofCode (fSub w)) (getV w))
  | 0x45 => .ok (.fcmp (ETy.ofCode (fSub w)) (getV w))
  | 0x46 => .ok (.fclass (ETy.ofCode (fSub w)) (getV w))
  | 0x47 => .ok (.fdot (ETy.ofCode (fSub w)) (getV w))
  | 0x48 => .ok (.frcp (ETy.ofCode (fSub w)) (getV w))
  | 0x49 => .ok (.frsq (ETy.ofCode (fSub w)) (getV w))
  | 0x4A => .ok (.fsqrt (ETy.ofCode (fSub w)) (getV w))
  | 0x4B => .ok (.fdiv (ETy.ofCode (fSub w)) (getV w))
  | 0x4C => .ok (.fexp2 (ETy.ofCode (fSub w)) (getV w))
  | 0x4D => .ok (.flog2 (ETy.ofCode (fSub w)) (getV w))
  | 0x4E => .ok (.fsin (ETy.ofCode (fSub w)) (getV w))
  | 0x4F => .ok (.fcos (ETy.ofCode (fSub w)) (getV w))
  | 0x50 => .ok (.fcvt (fSub w) (getV w))
  | 0x51 => .ok (.icvt (fSub w) (getV w))
  | 0x52 => .ok (.fcvti (fSub w) (getV w))
  | 0x53 => .ok (.fround (fSub w) (getV w))
  | 0x54 => .ok (.fscale (ETy.ofCode (fSub w)) (getV w))
  | 0x55 => match (w.extractLsb' 32 2).toNat with
    | 0 => .ok (.bcvtScale (fSub w) (getV w))
    | 1 => .ok (.bcvtEnc (fSub w) (getV w))
    | 2 => .ok (.bcvtDec (fSub w) (getV w))
    | _ => .error (.badField 28)
  | 0x60 => .ok (.shfl (fSub w) (getV w))
  | 0x61 => match (fSub w).toNat with
    | 0 => .ok (.voteAny (getV w))
    | 1 => .ok (.voteAll (getV w))
    | 2 => .ok (.voteBallot (getV w))
    | 3 => .ok (.voteCount (getV w))
    | _ => .error .reservedSub
  | 0x62 => match (fSub w).toNat with
    | 0 => .ok (.cdetMask (getV w))
    | 1 => .ok (.cdetFadd (getV w))
    | 2 => .ok (.cdetIadd (getV w))
    | _ => .error .reservedSub
  | 0x63 => .ok (.lred (fSub w) (getV w))
  | 0x64 => .ok (.lscan (fSub w) (getV w))
  | 0x65 => .ok (.wbind (fSub w) (getV w))
  | 0x66 => match (w.extractLsb' 28 6).toNat with
    | 0 => .ok (.wctlEnds (fSub w) (getV w))
    | 1 => .ok (.wctlVtype (fSub w) (getV w))
    | 2 => .ok (.wctlShift (fSub w) (getV w))
    | 3 => .ok (.wctlRew (fSub w) (getV w))
    | 4 => .ok (.wctlUnbind (fSub w) (getV w))
    | 5 => .ok (.wctlTell (fSub w) (getV w))
    | 6 => .ok (.wctlSkip (fSub w) (getV w))
    | _ => .error (.badField 28)
  | 0x67 => match (fSub w).toNat with
    | 0 => .ok (.shapeGet (getV w))
    | 1 => .ok (.shapeGen (getV w))
    | 2 => .ok (.shapeUni (getV w))
    | 3 => .ok (.shapeAff (getV w))
    | _ => .error .reservedSub
  | 0x68 => match (fSub w).toNat with
    | 0 => .ok (.ftagGet (getV w))
    | 1 => .ok (.ftagSet (getV w))
    | 2 => .ok (.ftagTget (getV w))
    | 3 => .ok (.ftagTset (getV w))
    | _ => .error .reservedSub
  | 0x70 => match (fSub w).toNat with
    | 0 => .ok (.bra (getB w))
    | _ => .error .reservedSub
  | 0x71 => match (fSub w).toNat with
    | 0 => .ok (.brx (getB w))
    | _ => .error .reservedSub
  | 0x72 => match (fSub w).toNat with
    | 0 => .ok (.call (getB w))
    | 1 => .ok (.callX (getB w))
    | _ => .error .reservedSub
  | 0x73 => match (fSub w).toNat with
    | 0 => .ok (.ret (getB w))
    | _ => .error .reservedSub
  | 0x74 => match (fSub w).toNat with
    | 0 => .ok (.exit (getS w))
    | _ => .error .reservedSub
  | 0x75 => match (fSub w).toNat with
    | 0 => .ok (.join (getS w))
    | 1 => .ok (.joinM (getS w))
    | _ => .error .reservedSub
  | 0x76 => match (fSub w).toNat with
    | 0 => .ok (.reform (getS w))
    | 1 => .ok (.reformX (getS w))
    | _ => .error .reservedSub
  | 0x77 => match (fSub w).toNat with
    | 0 => .ok (.yield (getS w))
    | _ => .error .reservedSub
  | 0x78 => match (fSub w).toNat with
    | 0 => .ok (.fbarArrive (getS w))
    | 1 => .ok (.fbarWait (getS w))
    | _ => .error .reservedSub
  | 0x79 => match (fSub w).toNat with
    | 0 => .ok (.tbar (getS w))
    | 1 => .ok (.tbarArrive (getS w))
    | _ => .error .reservedSub
  | 0x7A => match (fSub w).toNat with
    | 0 => .ok (.nop (getS w))
    | _ => .error .reservedSub
  | 0x80 => .ok (.ld (ETy.ofCode (fSub w)) (getM w))
  | 0x81 => .ok (.st (ETy.ofCode (fSub w)) (getM w))
  | 0x82 => .ok (.ld2 (ETy.ofCode (fSub w)) (getM w))
  | 0x83 => .ok (.st2 (ETy.ofCode (fSub w)) (getM w))
  | 0x84 => .ok (.atom (fSub w) (getM w))
  | 0x85 => .ok (.red (fSub w) (getM w))
  | 0x86 => match (fSub w).toNat with
    | 0 => .ok (.fence (getS w))
    | 1 => .ok (.fenceDom (getS w))
    | _ => .error .reservedSub
  | 0x87 => .ok (.wait (ETy.ofCode (fSub w)) (getM w))
  | 0x88 => .ok (.prefetch (fSub w) (getM w))
  | 0x89 => .ok (.ldt (fSub w) (getX w))
  | 0x8A => .ok (.stt (fSub w) (getX w))
  | 0x8B => match (fSub w).toNat with
    | 0 => .ok (.cpy (getM w))
    | _ => .error .reservedSub
  | 0x8C => match (fSub w).toNat with
    | 0 => .ok (.lockWait (getM w))
    | 1 => .ok (.lockTest (getM w))
    | _ => .error .reservedSub
  | 0x8D => match (fSub w).toNat with
    | 8 => .ok (.stn (getM w))
    | _ => .error .reservedSub
  | 0x8E => match (fSub w).toNat with
    | 8 => .ok (.ldn (getM w))
    | _ => .error .reservedSub
  | 0x8F => match (fSub w).toNat with
    | 0 => .ok (.bmodeL1 (getS w))
    | 1 => .ok (.bmodeScr (getS w))
    | 2 => .ok (.bmodeFifo (getS w))
    | _ => .error .reservedSub
  | 0x90 => match (fSub w).toNat with
    | 0 => .ok (.fpgQuery (getM w))
    | 1 => .ok (.fpgPin (getM w))
    | 2 => .ok (.fpgUnpin (getM w))
    | 3 => .ok (.fpgForce (getM w))
    | _ => .error .reservedSub
  | 0xA0 => match (fSub w).toNat with
    | 0 => .ok (.tdesc (getX w))
    | _ => .error .reservedSub
  | 0xA1 => match (fSub w).toNat with
    | 0 => .ok (.tget (getX w))
    | _ => .error .reservedSub
  | 0xA2 => .ok (.mma (fSub w) (getX w))
  | 0xA3 => match (fSub w).toNat with
    | 0 => .ok (.mdist (getX w))
    | _ => .error .reservedSub
  | 0xA4 => match (fSub w).toNat with
    | 0 => .ok (.gmma (getX w))
    | _ => .error .reservedSub
  | 0xA5 => match (fSub w).toNat with
    | 0 => .ok (.acqa (getX w))
    | _ => .error .reservedSub
  | 0xA6 => match (fSub w).toNat with
    | 0 => .ok (.rela (getX w))
    | _ => .error .reservedSub
  | 0xA7 => match (fSub w).toNat with
    | 0 => .ok (.mzero (getX w))
    | _ => .error .reservedSub
  | 0xA8 => .ok (.mld (fSub w) (getX w))
  | 0xA9 => .ok (.mst (fSub w) (getX w))
  | 0xAA => match (fSub w).toNat with
    | 0 => .ok (.mcancel (getX w))
    | 1 => .ok (.mcancelTeam (getX w))
    | _ => .error .reservedSub
  | 0xB0 => match (fSub w).toNat with
    | 0 => .ok (.trec (getS w))
    | _ => .error .reservedSub
  | 0xB1 => match (fSub w).toNat with
    | 0 => .ok (.tmarkRec (getS w))
    | 1 => .ok (.tmarkRc (getS w))
    | _ => .error .reservedSub
  | 0xB2 => match (fSub w).toNat with
    | 0 => .ok (.tpop (getS w))
    | _ => .error .reservedSub
  | 0xB3 => match (fSub w).toNat with
    | 0 => .ok (.tend (getS w))
    | _ => .error .reservedSub
  | 0xB4 => match (fSub w).toNat with
    | 0 => .ok (.tqueryNext (getS w))
    | 1 => .ok (.tqueryUsed (getS w))
    | 2 => .ok (.tqueryQuota (getS w))
    | _ => .error .reservedSub
  | 0xB5 => .ok (.gscat (fSub w) (getM w))
  | 0xB6 => match (fSub w).toNat with
    | 0 => .ok (.gflush (getS w))
    | 1 => .ok (.gflushAll (getS w))
    | _ => .error .reservedSub
  | 0xB7 => match (fSub w).toNat with
    | 10 => .ok (.triadj (getV w))
    | _ => .error .reservedSub
  | 0xB8 => match (fSub w).toNat with
    | 0 => .ok (.texadjLod (getV w))
    | 1 => .ok (.texadjGrad (getV w))
    | _ => .error .reservedSub
  | 0xB9 => match (fSub w).toNat with
    | 0 => .ok (.edgeq (getV w))
    | _ => .error .reservedSub
  | 0xC0 => match (fSub w).toNat with
    | 0 => .ok (.boxt (getV w))
    | _ => .error .reservedSub
  | 0xC1 => .ok (.trit (fSub w) (getV w))
  | 0xC2 => match (fSub w).toNat with
    | 0 => .ok (.spush (getV w))
    | _ => .error .reservedSub
  | 0xC3 => match (fSub w).toNat with
    | 0 => .ok (.spop (getV w))
    | 1 => .ok (.spopDepth (getV w))
    | 2 => .ok (.spopClear (getV w))
    | _ => .error .reservedSub
  | 0xC4 => match (fSub w).toNat with
    | 0 => .ok (.cull (getV w))
    | _ => .error .reservedSub
  | 0xC5 => match (fSub w).toNat with
    | 0 => .ok (.exptri (getV w))
    | _ => .error .reservedSub
  | 0xC6 => match (fSub w).toNat with
    | 0 => .ok (.texLod (getV w))
    | 1 => .ok (.texGrad (getV w))
    | _ => .error .reservedSub
  | 0xC7 => match (fSub w).toNat with
    | 0 => .ok (.texqSize (getV w))
    | 1 => .ok (.texqLod (getV w))
    | _ => .error .reservedSub
  | 0xC8 => .ok (.qpush (fSub w) (getM w))
  | 0xC9 => match (fSub w).toNat with
    | 0 => .ok (.qinfoRange (getS w))
    | 1 => .ok (.qinfoFill (getS w))
    | 2 => .ok (.qinfoSpace (getS w))
    | _ => .error .reservedSub
  | 0xD0 => .ok (.msnd (fSub w) (getV w))
  | 0xD1 => .ok (.mrcv (fSub w) (getV w))
  | 0xD2 => match (fSub w).toNat with
    | 0 => .ok (.put (getM w))
    | _ => .error .reservedSub
  | 0xD3 => match (fSub w).toNat with
    | 0 => .ok (.get (getM w))
    | _ => .error .reservedSub
  | 0xD4 => match (fSub w).toNat with
    | 0 => .ok (.cntrRead (getS w))
    | 1 => .ok (.cntrAdd (getS w))
    | 2 => .ok (.cntrSet (getS w))
    | _ => .error .reservedSub
  | 0xD5 => match (fSub w).toNat with
    | 0 => .ok (.trigPut (getM w))
    | 1 => .ok (.trigGet (getM w))
    | _ => .error .reservedSub
  | 0xD6 => match (fSub w).toNat with
    | 0 => .ok (.collAllreduce (getM w))
    | 1 => .ok (.collRscatter (getM w))
    | 2 => .ok (.collBcast (getM w))
    | _ => .error .reservedSub
  | 0xE0 => match (fSub w).toNat with
    | 0 => .ok (.sget (getS w))
    | _ => .error .reservedSub
  | 0xE1 => match (fSub w).toNat with
    | 0 => .ok (.sset (getS w))
    | _ => .error .reservedSub
  | 0xE2 => match (fSub w).toNat with
    | 0 => .ok (.trap (getS w))
    | _ => .error .reservedSub
  | 0xE3 => match (fSub w).toNat with
    | 0 => .ok (.tret (getS w))
    | _ => .error .reservedSub
  | 0xE4 => match (fSub w).toNat with
    | 0 => .ok (.tinv (getS w))
    | _ => .error .reservedSub
  | 0xE5 => match (fSub w).toNat with
    | 0 => .ok (.copInv (getS w))
    | 1 => .ok (.copInvall (getS w))
    | _ => .error .reservedSub
  | 0xE6 => match (fSub w).toNat with
    | 0 => .ok (.halt (getS w))
    | _ => .error .reservedSub
  | 0xE7 => match (fSub w).toNat with
    | 0 => .ok (.brk (getS w))
    | _ => .error .reservedSub
  | _ => .error .reservedMajor

/-- The reserved low bits of formats I, B and S, by major: [7:5], [13:5] and [19:5] (R80, R82, R84). -/
def lowReserved (m : Nat) : Nat :=
  if 0x20 ≤ m && m ≤ 0x26 then 3
  else if 0x70 ≤ m && m ≤ 0x73 then 9
  else if (0x74 ≤ m && m ≤ 0x7A) || m == 0x86 || m == 0x8F || (0xB0 ≤ m && m ≤ 0xB4) || m == 0xB6 || m == 0xC9 || m == 0xD4
      || (0xE0 ≤ m && m ≤ 0xE7) then 15
  else 0

/-- The decoder: the instruction of a word, or the reason that the word raises illegal instruction (R75, R90). -/
def decodeWord (w : Word) : Except DecodeError Instr :=
  match parse w with
  | .error e => .error e
  | .ok i =>
    match i.firstBad with
    | some b => .error (.badField b)
    | none => if w.field 5 (lowReserved (fMajor w).toNat) == 0 then .ok i else .error (.badField 5)

/-- Little-endian value of a list of bytes (R5). -/
def leNat : List Byte → Nat
  | [] => 0
  | b :: bs => b.toNat + 256 * leNat bs

/-- The low n bytes of a number, lowest first (R5). -/
def leBytes : Nat → Nat → List Byte
  | 0, _ => []
  | n + 1, x => BitVec.ofNat 8 x :: leBytes n (x / 256)

/-- An instruction read from the front of a byte list, and the rest of the list. -/
def decode (bs : List Byte) : Except DecodeError (Instr × List Byte) :=
  if bs.length < 8 then .error .truncated
  else match decodeWord (BitVec.ofNat 64 (leNat (bs.take 8))) with
    | .ok i => .ok (i, bs.drop 8)
    | .error e => .error e

/-- The host's question: the instruction whose bits, numbered from the least significant bit of the first word, are `w`. Every
instruction is one word of 64 bits; bits above nbits are zero. The word is laid out as memory holds it and decoded. -/
def decodeTableWord (nbits w : Nat) : Option Instr :=
  match decode (leBytes 8 (w % 2 ^ min nbits 64)) with
  | .ok (i, _) => some i
  | .error _ => none

/-! ## The encoder -/

/-- Bits [4:0]. -/
def putGuard (g : Guard) : BitVec 5 := BitVec.ofBool g.y ++ (BitVec.ofBool g.neg ++ g.pred)

def putV (m : BitVec 8) (s : BitVec 4) (f : VF) : Word :=
  m ++ (s ++ (f.d ++ (f.a ++ (f.b ++ (f.c ++ (f.mods ++ (f.permA ++ (f.permB ++ (f.p ++ (f.clamp ++ (f.scale ++ putGuard f.g)))))))))))
def putI (m : BitVec 8) (s : BitVec 4) (f : IF) : Word :=
  m ++ (s ++ (f.d ++ (f.a ++ (f.imm ++ ((0 : BitVec 3) ++ putGuard f.g)))))
def putM (m : BitVec 8) (s : BitVec 4) (f : MF) : Word :=
  m ++ (s ++ (f.d ++ (f.a ++ (f.b ++ (f.off ++ (f.order ++ (BitVec.ofBool f.scope ++ (f.policy ++ (f.la ++ putGuard f.g)))))))))
def putB (m : BitVec 8) (s : BitVec 4) (f : BF) : Word :=
  m ++ (s ++ (f.a ++ (f.off ++ ((0 : BitVec 9) ++ putGuard f.g))))
def putX (m : BitVec 8) (s : BitVec 4) (f : XF) : Word :=
  m ++ (s ++ (f.td ++ (f.ta ++ (f.tb ++ (f.v ++ (BitVec.ofBool f.tA ++ (BitVec.ofBool f.tB ++ (BitVec.ofBool f.ov ++
    (BitVec.ofBool f.pr ++ (f.k ++ (f.fields ++ (f.la ++ putGuard f.g))))))))))))
def putS (m : BitVec 8) (s : BitVec 4) (f : SF) : Word :=
  m ++ (s ++ (f.d ++ (f.a ++ (f.imm ++ ((0 : BitVec 15) ++ putGuard f.g)))))

/-- The word of an instruction, from the encoding tables of the entries; an event has no word. -/
def encode : Instr → Option Word
  | .iadd ty f => some (putV 0x01 ty.code f)
  | .isub ty f => some (putV 0x02 ty.code f)
  | .imul ty f => some (putV 0x03 ty.code f)
  | .imad ty f => some (putV 0x04 ty.code f)
  | .idiv ty f => some (putV 0x05 ty.code f)
  | .irem ty f => some (putV 0x06 ty.code f)
  | .imin ty f => some (putV 0x07 ty.code f)
  | .imax ty f => some (putV 0x08 ty.code f)
  | .iabsd ty f => some (putV 0x09 ty.code f)
  | .and ty f => some (putV 0x0A ty.code f)
  | .or ty f => some (putV 0x0B ty.code f)
  | .xor ty f => some (putV 0x0C ty.code f)
  | .shl ty f => some (putV 0x0D ty.code f)
  | .shr ty f => some (putV 0x0E ty.code f)
  | .sar ty f => some (putV 0x0F ty.code f)
  | .rot ty f => some (putV 0x10 ty.code f)
  | .bfx ty f => some (putV 0x11 ty.code f)
  | .bfi ty f => some (putV 0x12 ty.code f)
  | .popc ty f => some (putV 0x13 ty.code f)
  | .clz ty f => some (putV 0x14 ty.code f)
  | .brev ty f => some (putV 0x15 ty.code f)
  | .sel f => some (putV 0x16 8 f)
  | .icmp ty f => some (putV 0x17 ty.code f)
  | .lea ty f => some (putV 0x18 ty.code f)
  | .mov f => some (putV 0x19 8 f)
  | .subx ty f => some (putV 0x1A ty.code f)
  | .fadd ty f => some (putV 0x40 ty.code f)
  | .fmul ty f => some (putV 0x41 ty.code f)
  | .ffma ty f => some (putV 0x42 ty.code f)
  | .fmin ty f => some (putV 0x43 ty.code f)
  | .fmax ty f => some (putV 0x44 ty.code f)
  | .fcmp ty f => some (putV 0x45 ty.code f)
  | .fclass ty f => some (putV 0x46 ty.code f)
  | .fdot ty f => some (putV 0x47 ty.code f)
  | .frcp ty f => some (putV 0x48 ty.code f)
  | .frsq ty f => some (putV 0x49 ty.code f)
  | .fsqrt ty f => some (putV 0x4A ty.code f)
  | .fdiv ty f => some (putV 0x4B ty.code f)
  | .fexp2 ty f => some (putV 0x4C ty.code f)
  | .flog2 ty f => some (putV 0x4D ty.code f)
  | .fsin ty f => some (putV 0x4E ty.code f)
  | .fcos ty f => some (putV 0x4F ty.code f)
  | .fcvt sub f => some (putV 0x50 sub f)
  | .icvt sub f => some (putV 0x51 sub f)
  | .fcvti sub f => some (putV 0x52 sub f)
  | .fround sub f => some (putV 0x53 sub f)
  | .fscale ty f => some (putV 0x54 ty.code f)
  | .bcvtScale sub f => some (putV 0x55 sub f)
  | .bcvtEnc sub f => some (putV 0x55 sub f)
  | .bcvtDec sub f => some (putV 0x55 sub f)
  | .shfl sub f => some (putV 0x60 sub f)
  | .voteAny f => some (putV 0x61 0 f)
  | .voteAll f => some (putV 0x61 1 f)
  | .voteBallot f => some (putV 0x61 2 f)
  | .voteCount f => some (putV 0x61 3 f)
  | .cdetMask f => some (putV 0x62 0 f)
  | .cdetFadd f => some (putV 0x62 1 f)
  | .cdetIadd f => some (putV 0x62 2 f)
  | .lred sub f => some (putV 0x63 sub f)
  | .lscan sub f => some (putV 0x64 sub f)
  | .wbind sub f => some (putV 0x65 sub f)
  | .wctlEnds sub f => some (putV 0x66 sub f)
  | .wctlVtype sub f => some (putV 0x66 sub f)
  | .wctlShift sub f => some (putV 0x66 sub f)
  | .wctlRew sub f => some (putV 0x66 sub f)
  | .wctlUnbind sub f => some (putV 0x66 sub f)
  | .wctlTell sub f => some (putV 0x66 sub f)
  | .wctlSkip sub f => some (putV 0x66 sub f)
  | .shapeGet f => some (putV 0x67 0 f)
  | .shapeGen f => some (putV 0x67 1 f)
  | .shapeUni f => some (putV 0x67 2 f)
  | .shapeAff f => some (putV 0x67 3 f)
  | .ftagGet f => some (putV 0x68 0 f)
  | .ftagSet f => some (putV 0x68 1 f)
  | .ftagTget f => some (putV 0x68 2 f)
  | .ftagTset f => some (putV 0x68 3 f)
  | .triadj f => some (putV 0xB7 10 f)
  | .texadjLod f => some (putV 0xB8 0 f)
  | .texadjGrad f => some (putV 0xB8 1 f)
  | .edgeq f => some (putV 0xB9 0 f)
  | .boxt f => some (putV 0xC0 0 f)
  | .trit sub f => some (putV 0xC1 sub f)
  | .spush f => some (putV 0xC2 0 f)
  | .spop f => some (putV 0xC3 0 f)
  | .spopDepth f => some (putV 0xC3 1 f)
  | .spopClear f => some (putV 0xC3 2 f)
  | .cull f => some (putV 0xC4 0 f)
  | .exptri f => some (putV 0xC5 0 f)
  | .texLod f => some (putV 0xC6 0 f)
  | .texGrad f => some (putV 0xC6 1 f)
  | .texqSize f => some (putV 0xC7 0 f)
  | .texqLod f => some (putV 0xC7 1 f)
  | .msnd sub f => some (putV 0xD0 sub f)
  | .mrcv sub f => some (putV 0xD1 sub f)
  | .movi f => some (putI 0x20 8 f)
  | .iaddi ty f => some (putI 0x21 ty.code f)
  | .andi f => some (putI 0x22 8 f)
  | .ori f => some (putI 0x23 8 f)
  | .xori f => some (putI 0x24 8 f)
  | .icmpi ty f => some (putI 0x25 ty.code f)
  | .movhi f => some (putI 0x26 8 f)
  | .ld ty f => some (putM 0x80 ty.code f)
  | .st ty f => some (putM 0x81 ty.code f)
  | .ld2 ty f => some (putM 0x82 ty.code f)
  | .st2 ty f => some (putM 0x83 ty.code f)
  | .atom sub f => some (putM 0x84 sub f)
  | .red sub f => some (putM 0x85 sub f)
  | .wait ty f => some (putM 0x87 ty.code f)
  | .prefetch sub f => some (putM 0x88 sub f)
  | .cpy f => some (putM 0x8B 0 f)
  | .lockWait f => some (putM 0x8C 0 f)
  | .lockTest f => some (putM 0x8C 1 f)
  | .stn f => some (putM 0x8D 8 f)
  | .ldn f => some (putM 0x8E 8 f)
  | .fpgQuery f => some (putM 0x90 0 f)
  | .fpgPin f => some (putM 0x90 1 f)
  | .fpgUnpin f => some (putM 0x90 2 f)
  | .fpgForce f => some (putM 0x90 3 f)
  | .gscat sub f => some (putM 0xB5 sub f)
  | .qpush sub f => some (putM 0xC8 sub f)
  | .put f => some (putM 0xD2 0 f)
  | .get f => some (putM 0xD3 0 f)
  | .trigPut f => some (putM 0xD5 0 f)
  | .trigGet f => some (putM 0xD5 1 f)
  | .collAllreduce f => some (putM 0xD6 0 f)
  | .collRscatter f => some (putM 0xD6 1 f)
  | .collBcast f => some (putM 0xD6 2 f)
  | .bra f => some (putB 0x70 0 f)
  | .brx f => some (putB 0x71 0 f)
  | .call f => some (putB 0x72 0 f)
  | .callX f => some (putB 0x72 1 f)
  | .ret f => some (putB 0x73 0 f)
  | .ldt sub f => some (putX 0x89 sub f)
  | .stt sub f => some (putX 0x8A sub f)
  | .tdesc f => some (putX 0xA0 0 f)
  | .tget f => some (putX 0xA1 0 f)
  | .mma sub f => some (putX 0xA2 sub f)
  | .mdist f => some (putX 0xA3 0 f)
  | .gmma f => some (putX 0xA4 0 f)
  | .acqa f => some (putX 0xA5 0 f)
  | .rela f => some (putX 0xA6 0 f)
  | .mzero f => some (putX 0xA7 0 f)
  | .mld sub f => some (putX 0xA8 sub f)
  | .mst sub f => some (putX 0xA9 sub f)
  | .mcancel f => some (putX 0xAA 0 f)
  | .mcancelTeam f => some (putX 0xAA 1 f)
  | .exit f => some (putS 0x74 0 f)
  | .join f => some (putS 0x75 0 f)
  | .joinM f => some (putS 0x75 1 f)
  | .reform f => some (putS 0x76 0 f)
  | .reformX f => some (putS 0x76 1 f)
  | .yield f => some (putS 0x77 0 f)
  | .nop f => some (putS 0x7A 0 f)
  | .fbarArrive f => some (putS 0x78 0 f)
  | .fbarWait f => some (putS 0x78 1 f)
  | .tbar f => some (putS 0x79 0 f)
  | .tbarArrive f => some (putS 0x79 1 f)
  | .fence f => some (putS 0x86 0 f)
  | .fenceDom f => some (putS 0x86 1 f)
  | .bmodeL1 f => some (putS 0x8F 0 f)
  | .bmodeScr f => some (putS 0x8F 1 f)
  | .bmodeFifo f => some (putS 0x8F 2 f)
  | .trec f => some (putS 0xB0 0 f)
  | .tmarkRec f => some (putS 0xB1 0 f)
  | .tmarkRc f => some (putS 0xB1 1 f)
  | .tpop f => some (putS 0xB2 0 f)
  | .tend f => some (putS 0xB3 0 f)
  | .tqueryNext f => some (putS 0xB4 0 f)
  | .tqueryUsed f => some (putS 0xB4 1 f)
  | .tqueryQuota f => some (putS 0xB4 2 f)
  | .gflush f => some (putS 0xB6 0 f)
  | .gflushAll f => some (putS 0xB6 1 f)
  | .qinfoRange f => some (putS 0xC9 0 f)
  | .qinfoFill f => some (putS 0xC9 1 f)
  | .qinfoSpace f => some (putS 0xC9 2 f)
  | .cntrRead f => some (putS 0xD4 0 f)
  | .cntrAdd f => some (putS 0xD4 1 f)
  | .cntrSet f => some (putS 0xD4 2 f)
  | .sget f => some (putS 0xE0 0 f)
  | .sset f => some (putS 0xE1 0 f)
  | .trap f => some (putS 0xE2 0 f)
  | .tret f => some (putS 0xE3 0 f)
  | .tinv f => some (putS 0xE4 0 f)
  | .copInv f => some (putS 0xE5 0 f)
  | .copInvall f => some (putS 0xE5 1 f)
  | .halt f => some (putS 0xE6 0 f)
  | .brk f => some (putS 0xE7 0 f)
  | .galleryDraw _ _ => none
  | .binAgeLimit _ _ => none
  | .waitRetestWrite _ _ => none
  | .waitRetestTimer _ _ => none
  | .cpyComplete _ _ => none
  | .parkedAccessResume _ => none
  | .accumulatorGrant _ => none
  | .forwardArrayComplete _ => none
  | .gradientEngineStart _ => none
  | .gradientEngineComplete _ => none
  | .tapeSpill _ => none
  | .tapeRefill _ _ => none
  | .scatterAddition _ => none
  | .rasterBufferEntry _ => none
  | .rasteriseTriangle _ => none
  | .qpushUnpark _ => none
  | .qpushCommit _ => none
  | .msndUnpark _ => none
  | .mrcvUnpark _ => none
  | .putComplete _ _ => none
  | .getComplete _ _ => none
  | .triggerFire _ _ => none
  | .collComplete _ _ _ => none
  | .collTimeout _ _ _ => none
  | .clauseIssue _ => none
  | .pathAgeing _ => none
  | .clauseFetchFill _ => none
  | .lookaheadLanding _ _ => none
  | .scoreboardLanding _ _ => none
  | .storeAcknowledged _ _ => none
  | .loadReply _ _ => none
  | .tileTransferComplete _ _ => none
  | .launchRecordTake _ _ => none
  | .launchDependenceMet _ => none
  | .teamPlacement _ => none
  | .teamRetirement _ => none
  | .launchCompletion _ => none
  | .queueAgeLimit _ => none
  | .launchStop _ => none
  | .requantiserPick _ => none
  | .requantiserCommit _ => none
  | .drainDeadline _ => none
  | .saveDeadline _ => none
  | .parkSwap _ => none
  | .watchdogFire _ => none
  | .terminationComplete _ => none
  | .fabricRequestTimeout _ _ => none
  | .sramEccError _ => none
  | .uncorrectableStateError _ => none
  | .clusterEccError _ => none
  | .memoryEccError _ => none
  | .scatterUnitError _ _ => none
  | .patrolScrub _ => none
  | .hostSnoop _ _ => none
  | .hostMemAccess _ => none
  | .bridgeFlitFailure _ => none
  | .packageReset _ => none
  | .powerLoss => none
  | .powerArbiterPeriod _ _ _ => none
  | .thermalLimitChange _ => none
  | .thermalTrip => none
  | .registerContext _ => none
  | .registerLaunchQueue _ => none
  | .registerReclaimQueue _ => none
  | .requantiserThreshold _ => none
  | .invalidateTranslation _ => none
  | .pageReply _ => none
  | .preemptContext _ => none
  | .liftPreemption _ => none
  | .terminateContext _ => none
  | .registerWindowKey _ => none
  | .firmwareChunk _ => none
  | .setPowerLimit _ => none
  | .reservedCommand _ => none
  | .mailboxRegisterWrite _ _ => none
  | .getVersion _ => none
  | .getCapabilities _ => none
  | .negotiateAlgorithms _ => none
  | .getDigests _ => none
  | .getCertificate _ => none
  | .challenge _ => none
  | .getMeasurements _ => none
  | .keyExchange _ => none
  | .ideKm _ => none
  | .slotMarker _ _ => none
  | .calendarLoad _ _ => none
  | .bulkSend _ => none
  | .relayFlitArrival _ => none
  | .relayForward _ => none
  | .creditUpdateSend _ => none
  | .creditUpdateReceived _ _ => none
  | .creditIncrementFlit _ => none
  | .flitAck _ => none
  | .flitReplay _ => none
  | .remoteRequestArrival _ => none
  | .skipNoticeArrival _ _ => none
  | .fabricResponseArrival _ => none
  | .portFailure _ _ => none
  | .spareSwitchComplete _ => none
  | .tapeEntryInRing _ _ => none
  | .configurationRequest _ => none
  | .guardIntervalEnd => none
  | .blackoutNotice _ _ _ => none

end Sys2Proof
end

