-- ==== Sys2Proof/Machine/Num.lean ====
section
/-! DEFINITION. Number formats, exact values, rounding and the flags that rounding sets (R49 to R66), the block-scale formats,
conversions, and the special functions of R113 by fixed-point arithmetic of more bits than any rounding decision needs. -/

namespace Sys2Proof.Machine

/-! ## Elements of a register -/

/-- Sub-element q of size s bits (R22). -/
def elem (s q : Nat) (w : Word) : Nat := (w.toNat / 2 ^ (s * q)) % 2 ^ s

/-- A register from its elements of s bits, element 0 first. -/
def packNat (s : Nat) : List Nat → Nat
  | [] => 0
  | x :: xs => x % 2 ^ s + 2 ^ s * packNat s xs

def pack (s : Nat) (l : List Nat) : Word := BitVec.ofNat 64 (packNat s l)

/-- All elements of s bits, element 0 first. -/
def elems (s : Nat) (w : Word) : List Nat := (List.range (64 / s)).map fun q => elem s q w

/-- Two's-complement value of an n-bit pattern. -/
def sext (n x : Nat) : Int := if x % 2 ^ n < 2 ^ (n - 1) then (x % 2 ^ n : Nat) else ((x % 2 ^ n : Nat) : Int) - (2 ^ n : Nat)

/-- The low n bits of an integer. -/
def wrap (n : Nat) (x : Int) : Nat := (x % (2 ^ n : Nat)).toNat

/-- 2^n for an integer exponent that is never negative where it is used. -/
def pow2 (n : Int) : Nat := 2 ^ n.toNat

/-! ## Flags -/

/-- $flags bits [5:0] (R28). -/
abbrev Fl := BitVec 6

def flNX : Fl := 1
def flUF : Fl := 2
def flOF : Fl := 4
def flFZ : Fl := 8
def flNV : Fl := 16
def flDZ : Fl := 32

/-! ## Formats -/

/-- What the all-ones exponent of a format encodes (R49). -/
inductive Special where
  | ieee | e4m3 | none
deriving DecidableEq, Repr

/-- A floating-point format: mantissa width, exponent width, bias, special codes, canonical NaN (R49). -/
structure Fmt where
  man : Nat
  ex : Nat
  bias : Nat
  sp : Special
  nan : Nat
deriving DecidableEq, Repr

def fmtF32 : Fmt := ⟨23, 8, 127, .ieee, 0x7FC00000⟩
def fmtF16 : Fmt := ⟨10, 5, 15, .ieee, 0x7E00⟩
def fmtBf16 : Fmt := ⟨7, 8, 127, .ieee, 0x7FC0⟩
def fmtE4m3 : Fmt := ⟨3, 4, 7, .e4m3, 0x7F⟩
def fmtE5m2 : Fmt := ⟨2, 5, 15, .ieee, 0x7E⟩
/-- E2M1 has no NaN; a NaN that reaches it becomes +0 (R61). -/
def fmtE2m1 : Fmt := ⟨1, 2, 1, .none, 0⟩

/-- The format of a floating-point element type. -/
def fmtOf : ETy → Fmt
  | .f32 => fmtF32 | .f16 => fmtF16 | .bf16 => fmtBf16 | .e4m3 => fmtE4m3 | .e5m2 => fmtE5m2 | .e2m1 => fmtE2m1
  | _ => fmtF32

/-- The format tag of an element type: integer and bit types are raw (R35). -/
def tagOf : ETy → Tag
  | .f32 => .f32 | .f16 => .f16 | .bf16 => .bf16 | .e4m3 => .e4m3 | .e5m2 => .e5m2 | .e2m1 => .e2m1
  | _ => .raw

def Fmt.bits (f : Fmt) : Nat := 1 + f.ex + f.man
/-- Exponent of the smallest normal. -/
def Fmt.emin (f : Fmt) : Int := 1 - (f.bias : Int)
/-- Code of the largest finite value, sign clear. -/
def Fmt.maxCode (f : Fmt) : Nat :=
  match f.sp with
  | .ieee => (2 ^ f.ex - 1) * 2 ^ f.man - 1
  | .e4m3 => 2 ^ (f.ex + f.man) - 2
  | .none => 2 ^ (f.ex + f.man) - 1
def Fmt.infCode (f : Fmt) : Nat := (2 ^ f.ex - 1) * 2 ^ f.man
def Fmt.withSign (f : Fmt) (neg : Bool) (c : Nat) : Nat := if neg then c + 2 ^ (f.ex + f.man) else c

/-- An exact value, an infinity or NaN; `fin neg m e` is ±m × 2^e, and m = 0 is a signed zero. -/
inductive FV where
  | nan
  | inf (neg : Bool)
  | fin (neg : Bool) (m : Nat) (e : Int)
deriving DecidableEq, Repr

/-- The value of a code (R49). -/
def Fmt.value (f : Fmt) (c : Nat) : FV :=
  let m := c % 2 ^ f.man
  let e := c / 2 ^ f.man % 2 ^ f.ex
  let neg := c / 2 ^ (f.man + f.ex) % 2 == 1
  let fin : FV := if e == 0 then .fin neg m (f.emin - f.man) else .fin neg (2 ^ f.man + m) (f.emin - f.man + (e - 1))
  match f.sp with
  | .ieee => if e == 2 ^ f.ex - 1 then (if m == 0 then .inf neg else .nan) else fin
  | .e4m3 => if e == 15 && m == 7 then .nan else fin
  | .none => fin

/-- Bits of an element of a type as an exact value. -/
def valOf (t : ETy) (c : Nat) : FV := (fmtOf t).value c

def FV.isNan : FV → Bool | .nan => true | _ => false
def FV.isInf : FV → Bool | .inf _ => true | _ => false
def FV.isZero : FV → Bool | .fin _ m _ => m == 0 | _ => false
def FV.neg : FV → FV | .nan => .nan | .inf s => .inf (!s) | .fin s m e => .fin (!s) m e
def FV.sign : FV → Bool | .nan => false | .inf s => s | .fin s _ _ => s

/-! ## Rounding -/

/-- ⌊log2 (n / d)⌋ for nonzero n and d. -/
def log2Q (n d : Nat) : Int :=
  let k : Int := (n.log2 : Int) - d.log2
  if 0 ≤ k then (if d * pow2 k ≤ n then k else k - 1) else (if d ≤ n * pow2 (-k) then k else k - 1)

/-- Whether a magnitude between q and q + 1 quanta rounds away from zero: rem / den of a quantum lies above q (R56, R57). -/
def roundsUp (mode : Rnd) (neg : Bool) (dith q rem den : Nat) : Bool :=
  match mode with
  | .rne => den < 2 * rem || (2 * rem == den && q % 2 == 1)
  | .rtz => false
  | .rdn => neg && rem != 0
  | .rup => !neg && rem != 0
  | .rna => den ≤ 2 * rem
  | .sd => den * 32 ≤ rem * 32 + dith * den

/-- num/den × 2^ex in quanta of 2^qe, rounded: the count of quanta, and whether it is inexact. -/
def quanta (mode : Rnd) (neg : Bool) (dith : Nat) (num den : Nat) (ex qe : Int) : Nat × Bool :=
  let n := num * pow2 (ex - qe)
  let d := den * pow2 (qe - ex)
  let q := n / d
  let rem := n % d
  ((if roundsUp mode neg dith q rem d then q + 1 else q), rem != 0)

/-- A magnitude beyond every format's range is replaced by one that no rounding distinguishes from it. -/
def tame (num den : Nat) (ex : Int) : Nat × Nat × Int :=
  let l := log2Q num den + ex
  if 3000 < l then (1, 1, 3000) else if l < -3000 then (1, 1, -3000) else (num, den, ex)

/-- RoundTo of an exact magnitude num/den × 2^ex with sign (R10, R56 to R60): code and flags (R65). `sat` selects saturation. A nonzero
value that rounds to zero keeps its sign (DESIGN CHOICE, assumption 125). -/
def roundQ (f : Fmt) (mode : Rnd) (dith : Nat) (sat neg : Bool) (num0 den0 : Nat) (ex0 : Int) : Nat × Fl :=
  if num0 == 0 then (f.withSign neg 0, 0)
  else
    let (num, den, ex) := tame num0 den0 ex0
    let l := log2Q num den + ex
    let qe := (if l < f.emin then f.emin else l) - f.man
    let (q, nx) := quanta mode neg dith num den ex qe
    -- value q × 2^qe, with 2^man ≤ q ≤ 2^(man+1) for normals
    let code := if q < 2 ^ f.man then q else q + (qe - (f.emin - f.man)).toNat * 2 ^ f.man
    if f.maxCode < code then
      let r := match f.sp with
        | .none => f.maxCode
        | .e4m3 => if sat then f.maxCode else f.nan
        | .ieee => if sat then f.maxCode else f.infCode
      ((if f.sp == .e4m3 && !sat then r else f.withSign neg r), flOF ||| flNX)
    else
      let tiny := code != 0 && code < 2 ^ f.man && nx
      (f.withSign neg code, (if nx then flNX else 0) ||| (if tiny then flUF else 0))

/-- RoundTo of an exact value after multiplication by 2^scale, with the special values of R61 and R62. -/
def roundFV (f : Fmt) (mode : Rnd) (dith : Nat) (sat : Bool) (scale : Int) (x : FV) : Nat × Fl :=
  match x with
  | .nan => match f.sp with
    | .none => (0, flNV)
    | _ => (f.nan, 0)
  | .inf neg => match f.sp with
    | .ieee => (f.withSign neg f.infCode, 0)
    | .e4m3 => if sat then (f.withSign neg f.maxCode, flOF ||| flNX) else (f.nan, flNV)
    | .none => (f.withSign neg f.maxCode, flOF ||| flNX)
  | .fin neg m e => roundQ f mode dith sat neg m 1 (e + scale)

/-- RoundTo under RNE, flags dropped: matrix arrays and internal datapaths set none (R65). -/
def rne (f : Fmt) (sat : Bool) (x : FV) : Nat := (roundFV f .rne 0 sat 0 x).1

/-! ## Exact arithmetic -/

/-- Exact product and whether it is 0 × ∞ (R65). -/
def FV.mul (x y : FV) : FV × Bool :=
  match x, y with
  | .nan, _ => (.nan, false)
  | _, .nan => (.nan, false)
  | .inf s, .inf t => (.inf (s != t), false)
  | .inf s, .fin t m _ => if m == 0 then (.nan, true) else (.inf (s != t), false)
  | .fin s m _, .inf t => if m == 0 then (.nan, true) else (.inf (s != t), false)
  | .fin s m e, .fin t n k => (.fin (s != t) (m * n) (e + k), false)

/-- Smallest exponent among the nonzero finite terms. -/
def minExp (l : List FV) : Int :=
  l.foldl (fun a x => match x with | .fin _ m e => if m == 0 then a else if e < a then e else a | _ => a) 3000

def FV.units (x : FV) (e0 : Int) : Int :=
  match x with
  | .fin s m e => if m == 0 then 0 else if s then -((m * pow2 (e - e0) : Nat) : Int) else ((m * pow2 (e - e0) : Nat) : Int)
  | _ => 0

/-- Exact sum of a list of terms (R63, R65, R66): a NaN term makes it NaN, infinities of both signs make it NaN and are invalid;
a zero sum is −0 when every term is −0. -/
def sumFV (l : List FV) : FV × Bool :=
  let pos := l.any fun x => x == .inf false
  let ngt := l.any fun x => x == .inf true
  if pos && ngt then (.nan, true)
  else if l.any FV.isNan then (.nan, false)
  else if pos then (.inf false, false)
  else if ngt then (.inf true, false)
  else
    let e0 := minExp l
    let t := (l.map fun x => x.units e0).foldl (· + ·) 0
    if t == 0 then (.fin (!l.isEmpty && l.all FV.sign) 0 0, false) else (.fin (t < 0) t.natAbs e0, false)

/-- Exact order of two finite or infinite values; zeros are equal. -/
def FV.lt (x y : FV) : Bool :=
  match x, y with
  | .nan, _ => false
  | _, .nan => false
  | .inf s, .inf t => s && !t
  | .inf s, .fin _ _ _ => s
  | .fin _ _ _, .inf t => !t
  | .fin _ _ _, .fin _ _ _ => let e0 := minExp [x, y]; x.units e0 < y.units e0

def FV.eq (x y : FV) : Bool :=
  match x, y with
  | .nan, _ => false
  | _, .nan => false
  | _, _ => !x.lt y && !y.lt x

/-- minimumNumber and maximumNumber (R63): −0 orders below +0. -/
def FV.minNum (x y : FV) : FV :=
  match x, y with
  | .nan, y => y
  | x, .nan => x
  | x, y => if x.lt y then x else if y.lt x then y else if x.sign then x else y

def FV.maxNum (x y : FV) : FV :=
  match x, y with
  | .nan, y => y
  | x, .nan => x
  | x, y => if x.lt y then y else if y.lt x then x else if x.sign then y else x

/-- a × b + c as an exact value (R109, R113), invalid by R65. -/
def fmaExact (a b c : FV) : FV × Bool :=
  let (p, i) := a.mul b
  let (s, j) := sumFV [p, c]
  (s, i || j)

/-! ## Special functions (R113)

A result that is not a dyadic rational is given as (2n + 1) × 2^(e − 1), where n × 2^e is its truncation to many more bits than a
format holds: no rounding boundary lies between the two, so it rounds as the exact value does. -/

/-- Integer square root, bit by bit from bit k down. -/
def isqrtAux (n : Nat) : Nat → Nat → Nat
  | 0, r => r
  | k + 1, r => let t := r + 2 ^ k; isqrtAux n k (if t * t ≤ n then t else r)

def isqrt (n : Nat) : Nat := isqrtAux n (n.log2 / 2 + 1) 0

/-- An inexact truncation made odd one place further down. -/
def sticky (neg exact : Bool) (n : Nat) (e : Int) : FV := if exact then .fin neg n e else .fin neg (2 * n + 1) (e - 1)

/-- Fraction bits of the fixed-point series. -/
def fxP : Nat := 320

/-- Quotient of the exact values m × 2^e and n × 2^k, truncated with a sticky bit. -/
def divFin (neg : Bool) (m : Nat) (e : Int) (n : Nat) (k : Int) : FV :=
  let x := m * 2 ^ 128
  sticky neg (x % n == 0) (x / n) (e - k - 128)

/-- Square root of m × 2^e. -/
def sqrtFin (m : Nat) (e : Int) : FV :=
  let (m, e) := if e % 2 == 0 then (m, e) else (2 * m, e - 1)
  let x := m * 2 ^ 128
  let r := isqrt x
  sticky false (r * r == x) r (e / 2 - 64)

/-- 1 / √(m × 2^e). -/
def rsqrtFin (m : Nat) (e : Int) : FV :=
  let (m, e) := if e % 2 == 0 then (m, e) else (2 * m, e - 1)
  let x := 2 ^ 256 / m
  let r := isqrt x
  sticky false (r * r * m == 2 ^ 256) r (-(e / 2) - 128)

/-- Sum of the alternating or plain series term_k = term_(k-1) × num / den, over fuel terms; see the uses. -/
def expSeries (x : Nat) : Nat → Nat → Nat → Nat → Nat
  | 0, _, _, acc => acc
  | fuel + 1, k, term, acc =>
    let t := term * x / 2 ^ fxP / k
    expSeries x fuel (k + 1) t (acc + t)

/-- z + z³/3 + z⁵/5 + ..., z in fixed point. -/
def atanhSeries (z2 : Nat) : Nat → Nat → Nat → Nat → Nat
  | 0, _, _, acc => acc
  | fuel + 1, k, p, acc => atanhSeries z2 fuel (k + 2) (p * z2 / 2 ^ fxP) (acc + p / k)

/-- ln of the ratio (1 + z) / (1 − z) with z = n / d, in fixed point. -/
def lnRatio (n d : Nat) : Nat :=
  let z := n * 2 ^ fxP / d
  2 * atanhSeries (z * z / 2 ^ fxP) 120 1 z 0

def fxLn2 : Nat := lnRatio 1 3

/-- arctan(1/n) in fixed point, by its alternating series. -/
def atanInv (n : Nat) : Nat → Nat → Nat → Int → Int
  | 0, _, _, acc => acc
  | fuel + 1, k, p, acc => atanInv n fuel (k + 2) (p / (n * n)) (if k % 4 == 1 then acc + ((p / k : Nat) : Int) else acc - ((p / k : Nat) : Int))

/-- π in fixed point: 16 arctan(1/5) − 4 arctan(1/239). -/
def fxPi : Nat :=
  (16 * atanInv 5 90 1 (2 ^ fxP / 5) 0 - 4 * atanInv 239 40 1 (2 ^ fxP / 239) 0).toNat

/-- 2^x for a finite x ≠ 0: exact for integers. -/
def exp2Fin (neg : Bool) (m : Nat) (e : Int) : FV :=
  if m == 0 then .fin false 1 0
  else if 12 < (m.log2 : Int) + e then .fin false 1 (if neg then -3000 else 3000)
  else
    let n := m * pow2 e               -- |x| in units of 2^min(e,0)
    let d := pow2 (-e)
    let i : Int := if neg then -(((n + d - 1) / d : Nat) : Int) else (n / d : Nat)
    let fr := if neg then (d - n % d) % d else n % d
    if fr == 0 then .fin false 1 i
    else
      let x := (fr * 2 ^ fxP / d) * fxLn2 / 2 ^ fxP
      .fin false (2 * expSeries x 80 1 (2 ^ fxP) (2 ^ fxP) + 1) (i - fxP - 1)

/-- log2 of m × 2^e, m nonzero: exact for powers of two. -/
def log2Fin (m : Nat) (e : Int) : FV :=
  let l := m.log2
  let k : Int := e + l
  if m == 2 ^ l then .fin (k < 0) k.natAbs 0
  else
    let fr := lnRatio (m - 2 ^ l) (m + 2 ^ l) * 2 ^ fxP / fxLn2
    let t : Int := k * (2 ^ fxP : Nat) + fr
    .fin (t < 0) (2 * t.natAbs + 1) (-(fxP : Int) - 1)

/-- Sine series x − x³/3! + ..., x in fixed point. -/
def sinSeries (x2 : Nat) : Nat → Nat → Int → Int → Int
  | 0, _, _, acc => acc
  | fuel + 1, k, term, acc =>
    let t : Int := -(term * x2 / ((2 ^ fxP * ((k + 1) * (k + 2)) : Nat) : Int))
    sinSeries x2 fuel (k + 2) t (acc + t)

/-- sin(π n/d) for 0 < n/d ≤ 1/2; exactly 1 at one half. -/
def sinPiQ (neg : Bool) (n d : Nat) : FV :=
  if 2 * n == d then .fin neg 1 0
  else
    let x := n * fxPi / d
    let s := sinSeries (x * x / 2 ^ fxP) 60 1 (x : Int) (x : Int)
    .fin neg (2 * s.toNat + 1) (-(fxP : Int) - 1)

/-- sin(π x) of a finite x: an integer gives zero with the sign of x. -/
def sinFin (neg : Bool) (m : Nat) (e : Int) : FV :=
  if m == 0 || 0 ≤ e then .fin neg 0 0
  else
    let d := pow2 (-e)
    let r := m % (2 * d)
    let neg' := if d ≤ r then !neg else neg
    let r1 := r % d
    if r1 == 0 then .fin neg 0 0
    else sinPiQ neg' (if d < 2 * r1 then d - r1 else r1) d

/-- cos(π x) of a finite x: an integer plus one half gives +0. -/
def cosFin (m : Nat) (e : Int) : FV :=
  if m == 0 || 0 < e then .fin false 1 0
  else
    let d := pow2 (-e)
    let r0 := m % (2 * d)
    let r := if d < r0 then 2 * d - r0 else r0
    if 2 * r == d then .fin false 0 0
    else if d < 2 * r then sinPiQ true (2 * r - d) (2 * d)
    else sinPiQ false (d - 2 * r) (2 * d)

/-- The special functions: value and flags on special operands (R113). -/
def frcpV : FV → FV × Fl
  | .nan => (.nan, 0)
  | .inf s => (.fin s 0 0, 0)
  | .fin s m e => if m == 0 then (.inf s, flFZ) else (divFin s 1 0 m e, 0)

def frsqV : FV → FV × Fl
  | .nan => (.nan, 0)
  | .inf s => if s then (.nan, flNV) else (.fin false 0 0, 0)
  | .fin s m e => if m == 0 then (.inf s, 0) else if s then (.nan, flNV) else (rsqrtFin m e, 0)

def fsqrtV : FV → FV × Fl
  | .nan => (.nan, 0)
  | .inf s => if s then (.nan, flNV) else (.inf false, 0)
  | .fin s m e => if m == 0 then (.fin s 0 0, 0) else if s then (.nan, flNV) else (sqrtFin m e, 0)

def fexp2V : FV → FV × Fl
  | .nan => (.nan, 0)
  | .inf s => if s then (.fin false 0 0, 0) else (.inf false, 0)
  | .fin s m e => (exp2Fin s m e, 0)

def flog2V : FV → FV × Fl
  | .nan => (.nan, 0)
  | .inf s => if s then (.nan, flNV) else (.inf false, 0)
  | .fin s m e => if m == 0 then (.inf true, 0) else if s then (.nan, flNV) else (log2Fin m e, 0)

def fsinV : FV → FV × Fl
  | .nan => (.nan, 0)
  | .inf _ => (.nan, flNV)
  | .fin s m e => (sinFin s m e, 0)

def fcosV : FV → FV × Fl
  | .nan => (.nan, 0)
  | .inf _ => (.nan, flNV)
  | .fin _ m e => (cosFin m e, 0)

/-- a / b (R65, R109). -/
def fdivV (a b : FV) : FV × Fl :=
  match a, b with
  | .nan, _ => (.nan, 0)
  | _, .nan => (.nan, 0)
  | .inf _, .inf _ => (.nan, flNV)
  | .inf s, .fin t _ _ => (.inf (s != t), 0)
  | .fin s _ _, .inf t => (.fin (s != t) 0 0, 0)
  | .fin s m e, .fin t n k =>
    if n == 0 then (if m == 0 then (.nan, flNV) else (.inf (s != t), flFZ))
    else if m == 0 then (.fin (s != t) 0 0, 0)
    else (divFin (s != t) m e n k, 0)

/-! ## Integers and conversions -/

/-- Largest and smallest value of an integer type. -/
def intMax (t : ETy) : Int := if t.isI then (2 ^ (t.bits - 1) : Nat) - 1 else (2 ^ t.bits : Nat) - 1
def intMin (t : ETy) : Int := if t.isI then -((2 ^ (t.bits - 1) : Nat) : Int) else 0

/-- The value of an integer element. -/
def intOf (t : ETy) (c : Nat) : Int := if t.isI then sext t.bits c else (c % 2 ^ t.bits : Nat)

def clampInt (lo hi x : Int) : Int := if x < lo then lo else if hi < x then hi else x

/-- Conversion to an integer type (R57, R61, R65): bits and flags. -/
def toIntFV (t : ETy) (mode : Rnd) (dith : Nat) (x : FV) : Nat × Fl :=
  match x with
  | .nan => (0, flNV)
  | .inf s => (wrap t.bits (if s then intMin t else intMax t), flNV)
  | .fin s m e =>
    if m == 0 then (0, 0)
    else
      let (n, d, k) := tame m 1 e
      let (q, nx) := quanta mode s dith n d k 0
      let v : Int := if s then -(q : Int) else q
      if v < intMin t || intMax t < v then (wrap t.bits (if s then intMin t else intMax t), flNV)
      else (wrap t.bits v, if nx then flNX else 0)

/-- An integer as an exact value (R115). -/
def ofInt (v : Int) : FV := .fin (v < 0) v.natAbs 0

/-- Rounding to an integral value, zero keeping the sign (R114): the value and whether it differs. -/
def roundIntegral (mode : Rnd) (x : FV) : FV × Bool :=
  match x with
  | .fin s m e =>
    if m == 0 || 0 ≤ e then (x, false)
    else
      let (q, nx) := quanta mode s 0 m 1 e 0
      (.fin s q 0, nx)
  | _ => (x, false)

/-- bitreverse5 (R58). -/
def rev5 (k : Nat) : Nat := (k % 2) * 16 + (k / 2 % 2) * 8 + (k / 4 % 2) * 4 + (k / 8 % 2) * 2 + k / 16 % 2

/-- Dither offset in 32nds of a quantum (R58). -/
def dither (i phase : Nat) : Nat := rev5 ((i + phase) % 32)

/-- The value of an E8M0 scale code; 0xFF is NaN (R51). -/
def e8m0Value (c : Nat) : FV := if c % 256 == 255 then .nan else .fin false 1 (c % 256 - 127)
/-- The value of an E3M5 scale code (R51). -/
def e3m5Value (c : Nat) : FV := .fin false (32 + c % 32) ((c / 32 % 8 : Nat) - 8)

/-- Block scale of an MX block from the largest magnitude (R117). -/
def mxScale (special : Bool) (m : Nat) (e : Int) (big : Nat) : Nat :=
  if special then 255 else if m == 0 then 0
  else (clampInt 0 254 (127 + ((m.log2 : Int) + e) - big)).toNat

/-- RoundTo(e3m5, M / 6, RUP), clamped to 0x00 to 0xFF (R117), for a nonzero M = m × 2^e. E3M5 has no subnormals: below 0.125 the
smallest code results. -/
def fb4Scale (m : Nat) (e : Int) : Nat :=
  let l := log2Q m 6 + e
  if l < -3 then 0
  else
    let (q, _) := quanta .rup false 0 m 6 e (l - 5)
    min 255 ((l + 3).toNat * 32 + (q - 32))

/-- Classes of R112. -/
def fclassOf (f : Fmt) (x : FV) : Nat :=
  match x with
  | .nan => 8
  | .inf s => if s then 0 else 7
  | .fin s m e =>
    if m == 0 then (if s then 3 else 4)
    else
      let sub := (m.log2 : Int) + e < f.emin
      if s then (if sub then 2 else 1) else (if sub then 5 else 6)

/-! ## Clamp and scale -/

/-- Destination scale exponent (R79). -/
def scaleExp (c : BitVec 3) : Int :=
  match c.toNat with
  | 0 => 0 | 1 => 1 | 2 => 2 | 3 => 3 | 7 => -1 | 6 => -2 | 5 => -3 | _ => 0

/-- Destination clamps 0b01 and 0b10 on a rounded code; NaN gives +0, and a value inside is unchanged (R64, R79). -/
def clampCode (f : Fmt) (clamp : BitVec 2) (c : Nat) : Nat :=
  let one := f.bias * 2 ^ f.man
  let v := f.value c
  match clamp.toNat with
  | 1 => match v with
    | .nan => 0
    | _ => if v.lt (.fin false 0 0) then 0 else if (FV.fin false 1 0).lt v then one else c
  | 2 => match v with
    | .nan => 0
    | _ => if v.lt (.fin true 1 0) then f.withSign true one else if (FV.fin false 1 0).lt v then one else c
  | _ => c

/-- Steps 3 to 5 of R64: scale, one rounding by RNE, clamp. -/
def finish (f : Fmt) (clamp : BitVec 2) (scale : BitVec 3) (x : FV) (fl : Fl) : Nat × Fl :=
  let (c, g) := roundFV f .rne 0 (clamp == 3) (scaleExp scale) x
  (clampCode f clamp c, fl ||| g)

/-- −0 under a clamp to [0, 1] stays −0: it is not below 0. An exact sum as a finished element. -/
def finishSum (f : Fmt) (clamp : BitVec 2) (scale : BitVec 3) (x : FV × Bool) : Nat × Fl :=
  finish f clamp scale x.1 (if x.2 then flNV else 0)

/-- One rounded addition (R66, R123, R124). -/
def addRne (f : Fmt) (sat : Bool) (a b : Nat) : Nat × Fl :=
  let (s, inv) := sumFV [f.value a, f.value b]
  let (c, g) := roundFV f .rne 0 sat 0 s
  (c, g ||| (if inv then flNV else 0))

end Sys2Proof.Machine
end

