-- ==== Sys2Proof/Config.lean ====
section
/-! DEFINITION. What an implementation of the HT-7100 fixes, and the free values: constants without a body, of which no proof
can know a value. Each free value is applied to a plain counter that the machine advances. -/

namespace Sys2Proof.Config

/-- Steps within which every ready fibre of a resident team issues; the manual promises a bound and gives no number (R41; assumption 1). -/
opaque issueBound : Nat

/-- Which of several enabled steps comes next where the manual gives no order (R41, R288, R291; assumption 1). -/
opaque choice : Nat → Nat

/-- Nanoseconds of device time that pass at one step; the manual fixes no instruction times that a program may rely on
(R2, R370; assumption 2). -/
opaque elapsedNs : Nat → Nat

/-- Core clocks that pass at one step (R175, R178; assumption 2). -/
opaque elapsedClocks : Nat → Nat

/-- Whether an access between the change of a valid table entry and its invalidation uses the cached translation (R346;
assumption 3). -/
opaque staleTranslation : Nat → Bool

/-- A 64-bit value that the manual does not define (R8; assumption 4). -/
opaque freeWord : Nat → Word

/-- Which frame an entry of a 64 KiB page uses when its 16 entries differ (R344; assumption 5): an index below 16. -/
opaque splitEntry : Nat → Nat

/-- Whether a sector has been written back with the contents that it holds (R281, R312; assumption 6): eviction is internal. -/
opaque wroteBack : Nat → Bool

/-- What the boot ROM finds in a new image: its version, its security version, and whether each signature verifies (R373; assumption 9). -/
opaque flashVersion : List (Word × List Byte) → BitVec 32
opaque flashSvn : List (Word × List Byte) → BitVec 16
opaque flashRsa : List (Word × List Byte) → Bool
opaque flashSlh : List (Word × List Byte) → Bool

/-- Whether the bring-up after a package reset has come to its end (R372; assumption 2). -/
opaque broughtUp : Nat → Bool

/-- The two signatures over a measurement transcript (R372; assumption 7): RSA-3072 PSS over SHA-384, and
SLH-DSA-SHA2-256s. -/
opaque rsaSignature : List Byte → List Byte
opaque slhSignature : List Byte → List Byte

/-- The body of an SPDM or IDE_KM answer over DOE (R363, R372; assumption 7): the manual names the requests and gives no
message contents. -/
opaque doeAnswer : Nat → List Byte → List Byte

end Sys2Proof.Config
end

