-- ==== Sys2Proof/Machine/State.lean ====
section
/-! DEFINITION. The state of one HT-7100 package as plain data: threads, fibres, slots, teams, cores, clusters, dies, contexts,
launches, memory, the mailbox and the fabric ports, and the state after package reset. -/

namespace Sys2Proof.Machine

/-! ## Why a step can stop -/

/-- Stops of the model. No instruction of the manual stops the machine; an architectural fault is a next state (R332). -/
inductive Fault where
  /-- Raised by an instruction's meaning when `State.cur` names no fibre with an issuing bundle: the step function runs an
  instruction only for an issuing bundle, so no run reaches it. Safe. -/
  | noBundle
  /-- Raised by a machine event that is not due: it names a unit, fibre or entry that does not exist, or whose condition does
  not hold. The step function offers only events that are due. Safe. -/
  | notDue
deriving DecidableEq, Repr

/-- Instructions without a meaning. -/
inductive Refusal where
  /-- Raised by exec for an instruction that has no meaning yet. Safe. -/
  | notModelled (mnemonic : String)
deriving DecidableEq, Repr

/-! ## Registers, threads, fibres -/

/-- One row of a vector register: its 64 bits (R22), format tag (R34) and poison mark (R48). -/
structure Row where
  val : Word
  tag : Tag
  poison : Bool
deriving DecidableEq, Repr

/-- Shape tags (R31); affine carries its base and stride. -/
inductive Shape where
  | uniform
  | affine (base stride : Word)
  | general
deriving DecidableEq, Repr

/-- A vector register of a fibre, or of a slot's shared window: one row per lane and a shape tag. -/
structure VReg where
  rows : List Row
  shape : Shape
deriving DecidableEq, Repr

/-- A walker binding (R23, R125 to R127); the four dimensions stand in order. -/
structure Walker where
  base : Word
  extents : List Nat
  strides : List (BitVec 16)
  shifts : List Nat
  idx : List Nat
  valMode : Bool
  vtype : ETy
  ends : List (Option (BitVec 3))
deriving DecidableEq, Repr

/-- Why a thread is Parked: for `wait` the values it captured and the time of its next test, otherwise the granules it waits for
(R16, R153, R161, R169). The threads of one parked `qpush`, `msnd` or `mrcv` share a group number; `qpush` has captured its descriptor
address. -/
inductive ParkKind where
  | wait (addr : Word) (operand : Word) (nextTest : Word)
  | granule (gs : List Nat)
  | lockWait (g : Nat)
  | acqa
  | queue (desc : Word) (grp : Nat)
  | message (grp : Nat)
deriving DecidableEq, Repr

/-- Where a thread is Blocked (R16). -/
inductive BlockKind where
  | rendezvous (mask : Word)
  | fbar (id : Nat) (phase : Nat)
  | tbar (id : Nat) (again wait : Bool)
deriving DecidableEq, Repr

/-- Thread states of R16. Frozen is a state of the whole fibre (R47) and is derived; an empty lane holds no thread (R136). -/
inductive TState where
  | issuing
  | waiting
  | parked (k : ParkKind) (i : Instr) (since : Word)
  | blocked (k : BlockKind) (i : Instr) (since : Word)
  | exited
  | absent
deriving DecidableEq, Repr

/-- A thread (R13). `pc` is the header at which it continues, or, when `clause` is set, an instruction of the clause whose
header `clause` names (R336). `prevY` is the Y bit of the last instruction of its previous clause (R176), `served` the clause
count of its latest service (R37), `filed` tells that it once came from the gallery (R33). `nxt` and `nxtIn` are where a
parked or blocked thread goes on: an address, and whether it lies in the same clause. -/
structure Thread where
  st : TState
  pc : Word
  clause : Option Word
  preds : BitVec 8
  tid : BitVec 32
  flags : BitVec 64
  rcpc : Word
  walkers : List (Option Walker)
  depth : Nat
  arrived : BitVec 16
  served : Nat
  filed : Bool
  prevY : Bool
  nxt : Word
  nxtIn : Bool
deriving DecidableEq, Repr

/-- The fault record (R330, R331). -/
structure FaultRec where
  w0 : Word
  w1 : Word
  w2 : Word
  w3 : Word
deriving DecidableEq, Repr

/-- Completion classes of the wait mask, in bit order from bit 48 (R72). -/
inductive WClass where
  | ld | st | fwd | grad | trav | tape | fab | msg
deriving DecidableEq, Repr

/-- A register write that an operation holds until it lands (R86): the rows it writes, by lane, and the shape. -/
structure HeldWrite where
  reg : Nat
  rows : List (Nat × Row)
  shape : Shape
deriving DecidableEq, Repr

/-- A predicate write that an operation holds. -/
structure HeldPred where
  lane : Nat
  pred : BitVec 3
  val : Bool
deriving DecidableEq, Repr

/-- Lookahead of an outstanding operation (R86, R87): a window of the clause at `hdr`, whose wait point lies before instruction number
`upto` of that clause or, where the clause is shorter, at its end; or none, L = 15. -/
inductive Ahead where
  | window (hdr : Word) (upto : Nat)
  | async
deriving DecidableEq, Repr

/-- One lane of an access whose data are still elsewhere: its address, and the register values that its result needs. -/
structure LaneAcc where
  lane : Nat
  pa : Nat
  args : List Word
deriving DecidableEq, Repr

/-- A store that is still to be performed: its lane, physical address, the format page that holds it, and its bytes. -/
structure StoreItem where
  lane : Nat
  pa : Nat
  page : Option Nat
  bytes : List Byte
deriving DecidableEq, Repr

/-- What remains to be done of an outstanding operation. An access waits for bytes from other packages: the lanes that lack them and
the bytes at hand, by physical address; without lanes it is the walker reads of an instruction that has not issued. The lanes of a
`read` have been read, and may be read anew before the reply (R151, R288). A `held` access waits for granules of another core to return
(R291): it performs then, with the stores it has still to make. -/
inductive OpKind where
  | load                                                     -- values read; the reply is due (R152)
  | read (i : Instr) (lanes : List LaneAcc)
  | held (i : Instr) (lanes : List LaneAcc) (items : List StoreItem)
  | alu                                                      -- a long-latency result (R87, R99)
  | store                                                    -- performed; the acknowledgement is due
  | access (i : Instr) (lanes : List LaneAcc) (bytes : List (Nat × Byte × Bool))
  | remoteStore
  | tileRemote (desc : List Word)                            -- an stt with remote parts, and its tile (R164)
  | tile (old : List (Nat × Byte × Bool))                    -- ldt and stt (R164), with the bytes that an ldt replaced (R165)
  | copy (die id : Nat)                                      -- cpy (R167)
  | array (id : Nat)                                         -- forward array (R196)
  | gradient (id : Nat)                                      -- gmma (R200)
  | raster                                                   -- exptri (R250)
  | queue (grp : Nat)                                        -- qpush (R262)
  | message (grp : Nat)                                      -- a parked msnd or mrcv (R272)
  | tapeEntry (entry : Nat)                                  -- trec, tmark (R219)
  | tapeRefill (entry : Nat)                                 -- tpop of a spilled entry (R213)
  | scatter                                                  -- gscat, texadj (R230)
  | flush
  | transfer (die id : Nat)                                  -- put, get, coll (R397, R401)
deriving DecidableEq, Repr

/-- An outstanding operation of a fibre (R72, R86). `lanes` is the bundle that issued it, less the threads that have passed its wait
point; it is empty where there is none. -/
structure Op where
  id : Nat
  classes : List WClass
  kind : OpKind
  ahead : Ahead
  lanes : Word
  writes : List HeldWrite
  preds : List HeldPred
  granules : List Nat
  issued : Word
  done : Bool
deriving DecidableEq, Repr

/-- The clause that a fibre is issuing (R67): header address, class, constant, words, next instruction and bundle. -/
structure Issue where
  hdr : Word
  kc : BitVec 32
  words : List Word
  idx : Nat
  mask : Word
  ended : Bool
deriving DecidableEq, Repr

/-- The handler state of a fibre (R333): the clause of the stop and the lanes of the handler path. -/
structure Handler where
  clause : Word
  lanes : Word
deriving DecidableEq, Repr

/-- A fault: code, SRC, DETAIL, INFO, the address and the failing lanes. -/
structure Flt where
  code : Nat
  src : Nat
  detail : Nat
  info : Nat
  addr : Word
  lanes : Word
deriving DecidableEq, Repr

/-- A fibre frozen at host-serviced page requests (R347): the addresses that failed, the lanes that stopped, and the fault of a reply
"fail". -/
structure PageWait where
  vas : List Word
  lanes : Word
  flt : Flt
deriving DecidableEq, Repr

/-- Where a pending fault is taken (R173, R161, R403): at the next instruction or header, at the next clause boundary, at a clause
whose wait mask names a class, at the wait point of an operation, or, for a failed read of `wait`, at that instruction as soon as the
fibre is outside its handler. -/
inductive PendAt where
  | any
  | clause
  | mask (bit : Nat)
  | op (id : Nat)
  | wait (pc hdr : Word)
deriving DecidableEq, Repr

/-- A fault that waits (R173, R351): code, DETAIL, INFO and lanes. -/
structure Pending where
  code : Nat
  detail : Nat
  info : Nat
  lanes : Word
  due : PendAt
deriving DecidableEq, Repr

/-- A fibre (R13, R26, R27, R330). `slot` is the position of its slot in its team; `arriveStall` is the barrier at which it stalls in
`fbar.arrive`, and since when (R141, R355). `stopY` is the Y bit of the instruction that last parked or blocked threads (R41). -/
structure Fibre where
  fid : Nat
  slot : Nat
  priv : List VReg
  threads : List Thread
  tiles : List (List Word)
  dphase : BitVec 5
  tvec : Word
  tpc : Word
  tmask : Word
  frec : FaultRec
  handler : Option Handler
  pageWait : Option PageWait
  pending : List Pending
  issue : Option Issue
  fetched : Bool
  issues : Nat
  ops : List Op
  drawn : Bool
  arriveStall : Option (Nat × Word)
  stopY : Bool
deriving DecidableEq, Repr

/-- One fibre barrier of a slot (R139 to R141): completed phases, target of the latest arrival, and per fibre position the
arrival and wait counts. -/
structure FBar where
  phases : Nat
  target : Nat
  arrivals : List Nat
  waits : List Nat
deriving DecidableEq, Repr

/-- A slot (R13): its core, number, the fibre positions it holds, shared window, barriers, who issues (R40), and the tick after its last
issue, 0 before the first (R41 item 2). -/
structure Slot where
  core : Nat
  num : Nat
  first : Nat
  count : Nat
  shared : List VReg
  bars : List FBar
  holder : Nat
  last : Nat
deriving DecidableEq, Repr

/-- An entry in the tape ring of a team (R213): entry number and bytes. -/
structure RingItem where
  entry : Nat
  bytes : Nat
deriving DecidableEq, Repr

/-- A placed team (R13, R182, R266). `accs` lists its physical accumulator banks in logical order, `accs2` those of the follower
core of a pair (R187); the flag tells a dynamic grant. -/
structure Team where
  uid : Nat
  launch : Nat
  ctx : Nat
  index : BitVec 32
  die : Nat
  core : Nat
  fibres : List Fibre
  slots : List Slot
  accs : List Nat
  accs2 : List Nat
  accDyn : Bool
  qrange : Nat × Nat
  ring : List RingItem
deriving DecidableEq, Repr

/-! ## Cores and clusters -/

/-- Roles of a pool bank (R179). A scratchpad bank has its index j among the team's banks and the bytes of it that are aliased
(R182, R186). A FIFO bank keeps the index that it had as a scratchpad bank, if any: accesses that name it fail (R153, R184). -/
inductive Role where
  | regShare (launch : Nat)
  | l1
  | scratch (team : Nat) (j : Nat) (len : Nat)
  | free
  | fifo (team : Nat) (ring : Bool) (was : Option Nat)
deriving DecidableEq, Repr

/-- A pool bank of 32 KiB: its role, contents by byte offset, and poisoned 8-byte words (R189). -/
structure Bank where
  role : Role
  data : List Host.Cell
  poison : List Nat
deriving DecidableEq, Repr

/-- An accumulator bank of 64 KiB (R187): holder, contents by byte offset, and poisoned 4-byte elements. -/
structure AccBank where
  owner : Option Nat
  data : List Host.Cell
  poison : List Nat
deriving DecidableEq, Repr

/-- A waiting `acqa` (R187): team, banks wanted and the requesting fibre. -/
structure AccReq where
  team : Nat
  n : Nat
  fibre : FibreRef
deriving DecidableEq, Repr

/-- An operation in a forward array's queue (R196): its instruction, tiles as captured at acceptance, vector operand, and phase
of a dithered store. -/
structure ArrayOp where
  id : Nat
  owner : FibreRef
  i : Instr
  td : List Word
  ta : List Word
  tb : List Word
  x : Word
  phase : BitVec 5
deriving DecidableEq, Repr

/-- A thread in a gallery bin: its state, its carried register rows (R44, R134), and the lane it left, as long as that fibre
stands (R133). -/
structure FiledThread where
  thread : Thread
  regs : List (Nat × Row)
  fid : Option Nat
  lane : Nat
deriving DecidableEq, Repr

/-- A gallery bin (R135); `aged` tells that it stays eligible for a draw (R136). -/
structure Bin where
  team : Nat
  pc : Word
  opened : Nat
  aged : Bool
  threads : List FiledThread
deriving DecidableEq, Repr

/-- A triangle on its way through the rasteriser (R250): launch, context, the twelve vertex words' pairs, payload and the raster
state block. -/
structure Tri where
  launch : Nat
  ctx : Nat
  verts : List Word
  payload : Word
  pixq : Word
  edgeq : Word
  vpw : Nat
  vph : Nat
deriving DecidableEq, Repr

/-- An `exptri` whose triangles wait for buffer entries (R276). -/
structure TriBatch where
  owner : FibreRef
  op : Nat
  tris : List Tri
deriving DecidableEq, Repr

/-- A core (R13, R174, R179, R187): `slots` names the launch to which each slot belongs, `corrected` counts the errors corrected in
its arrays (R189). The gallery's free bins are `none`; `reform` is the clock of the latest filing and its fibre position (R135). -/
structure Core where
  slots : List (Option Nat)
  corrected : Nat
  banks : List Bank
  acc : List AccBank
  accWait : List AccReq
  array : List ArrayOp
  gallery : List (Option Bin)
  reform : Option (Nat × Nat)
  rasterIn : List Tri
  rasterWait : List TriBatch
  gens : List (Nat × BitVec 4)
deriving DecidableEq, Repr

/-- State of an entry of the reservation table (R201). -/
inductive GState where
  | queued | started
deriving DecidableEq, Repr

/-- A gradient-engine request (R200); `result` holds the elements of the result, row by row, once it has read its operands and another
one has started (R201). -/
structure GReq where
  id : Nat
  owner : FibreRef
  core : Nat
  posted : Nat
  prio : Nat
  state : GState
  f : XF
  td : List Word
  ta : List Word
  tb : List Word
  scat : Option (Word × Word)
  orphan : Bool
  poison : Bool
  result : Option (List (List (Nat × Bool)))
deriving DecidableEq, Repr

/-- A message (R269). -/
structure Msg where
  core : Nat
  fid : Nat
  tag : BitVec 32
  count : Nat
  width : Nat
  rows : List (Option Row)
  poison : Bool
deriving DecidableEq, Repr

/-- A message queue: the context that holds it and its messages, oldest first (R269). -/
structure MsgQ where
  owner : Option Nat
  msgs : List Msg
deriving DecidableEq, Repr

/-- Items of a triangle that the rasteriser has still to write to a queue as one reservation (R254): the launch, its context, the
descriptor's address, the item size in bytes, and the items. -/
structure RasterChunk where
  launch : Nat
  ctx : Nat
  desc : Word
  size : Nat
  items : List (List Byte)
deriving DecidableEq, Repr

/-- A cluster (R265). `rasterNext` is the core after the one that the rasteriser served last, `sendNext` the core after the one whose
message the port appended last (R274); `raster` holds the rest of the triangle that the rasteriser works on. -/
structure Cluster where
  table : List GReq
  queues : List MsgQ
  rasterNext : Nat
  raster : List RasterChunk
  sendNext : Nat
deriving DecidableEq, Repr

/-! ## Dies, contexts, launches -/

/-- A window key entry (R389). -/
structure WKey where
  exp : Bool
  index : Nat
  peer : Nat
  a : Bool
  w : Bool
  rd : Bool
  base : Nat
  size : Nat
  key : BitVec 32
  sources : Word
deriving DecidableEq, Repr

/-- An operation of a collective engine or copy engine that works through the fabric (R167, R397, R401): a put, a get, a copy with
remote parts, or a collective with its operation and descriptor. -/
inductive XferKind where
  | put | get | copy
  | coll (op : Nat) (desc : List Word)
deriving DecidableEq, Repr

/-- A transaction that the engine has still to send: source and destination address, bytes, the number reserved for it (R397), and
the data of a copy's write; a put reads its data when it sends. -/
structure Send where
  kind : ReqKind
  src : Nat
  dst : Nat
  len : Nat
  num : Option (BitVec 32)
  key : WKey
  data : Option (List Byte)
deriving DecidableEq, Repr

/-- A part of a transfer: source and destination physical address, and bytes. -/
structure XPart where
  src : Nat
  dst : Nat
  len : Nat
deriving DecidableEq, Repr

/-- An engine operation. `unit` holds its tags. `todo` lists what is still to send, `near` the parts with both sides in this package,
`out` the parts of a copy whose source is local and whose destination is not; `got` keeps what a copy has read (part, bytes, poison),
and `wrote` tells that its writes have begun. `keys` are the keys of a copy's remote destinations, by address, as they stood at issue
(R390). `srcs` and `dsts` are the pages of a collective's ranges (address, bytes), `pages` the format pages among the destination.
`waitsFor` are the fibre's earlier accesses that a copy, or a put with release order, follows, `tag` the engine's tag that a collective
holds, `wdog` its time limit in ns (R402). -/
structure Xfer where
  id : Nat
  ctx : Nat
  unit : Nat
  core : Nat
  owner : Option (FibreRef × Nat)
  kind : XferKind
  dst : Nat
  count : Nat
  lctr : Nat
  lce : Bool
  rctr : Nat
  rce : Bool
  rly : Bool
  todo : List Send
  near : List XPart
  out : List XPart
  got : List (XPart × List Byte × Bool)
  wrote : Bool
  keys : List (Nat × WKey)
  srcs : List (Nat × Nat)
  dsts : List (Nat × Nat)
  pages : List Nat
  waitsFor : List Nat
  tag : Option Nat
  wdog : Nat
  issued : Word
  failed : Bool
deriving DecidableEq, Repr

/-- An armed entry of a trigger table (R398): the fields of its instruction, the captured operands, and the tick at which its counter
reached the threshold. -/
structure Trig where
  ctx : Nat
  core : Nat
  ctr : Nat
  thr : Nat
  isPut : Bool
  f : MF
  dst : Word
  src : Word
  count : Nat
  due : Option Nat
deriving DecidableEq, Repr

/-- A launch queue registration (R302). -/
structure QueueReg where
  ctx : Nat
  desc : Word
  enabled : Bool
deriving DecidableEq, Repr

/-- A die: launch queues, requantiser threshold in ms (R322), trigger table, engine operations and tag generations. -/
structure Die where
  queues : List (Option QueueReg)
  threshold : Nat
  trigs : List Trig
  xfers : List Xfer
  gens : List (Nat × BitVec 4)
deriving DecidableEq, Repr

/-- A completion counter (R393). -/
structure Counter where
  value : BitVec 48
  err : Bool
deriving DecidableEq, Repr

/-- A context descriptor (R342), its window keys, its nonzero counters by (die, number), the time of its pre-emption request and that
at which its teams stopped for saving (R349), its termination with word 1 of the record that its completion writes (R358, R359), the bytes its save blocks take (R352), and message queues moved
to its save area by cluster and number (R269). -/
structure Context where
  valid : Bool
  sys : Bool
  root : Nat
  saveBase : Nat
  saveSize : Nat
  wdog : Nat
  drain : Nat
  saveDl : Nat
  keys : List WKey
  counters : List ((Nat × Nat) × Counter)
  preempt : Option Word
  saving : Option Word
  dying : Bool
  termRec : Word
  saveUsed : Nat
  stash : List (Nat × Nat × List Msg)
deriving DecidableEq, Repr

/-- A launch record (R304), field by field. -/
structure LaunchRec where
  nteam : Nat
  ctx : Nat
  prio : Nat
  coop : Bool
  pair : Bool
  qbound : Bool
  both : Bool
  width : Nat
  fps : Nat
  smax : Nat
  fibres : Nat
  code : Word
  codeSz : Nat
  entry : Nat
  tvec : Word
  shared : Nat
  priv : Nat
  rage : Nat
  carryP : BitVec 7
  carryV : BitVec 56
  carryU : BitVec 56
  scr : Nat
  stkOff : Nat
  sb : Word
  ss : Nat
  qmask : BitVec 16
  accDyn : Bool
  accN : Nat
  tbase : Word
  tquota : Nat
  tmode : Nat
  tpolFault : Bool
  ringB : Nat
  ovfBase : Word
  ovfN : Nat
  ranges : List (Word × Nat)
  qdesc : Word
  deps : List (Nat × Nat)
  cen : Bool
  cctr : Nat
  cinc : Nat
  npf : Nat
  pfList : Word
  ndisc : Nat
  dList : Word
deriving DecidableEq, Repr

/-- Stage of an admitted launch (R306 to R312). -/
inductive Stage where
  | waiting       -- dependences not yet met
  | ready         -- teams may be placed
  | stopped       -- queue-bound, STOP observed (R316)
  | complete
deriving DecidableEq, Repr

/-- An admitted launch (R303); `stat` is the address of its status entry. `disp` is the queue manager's count
of dispatched items (R313), `spills` the spill records in use, by target word and number (R227). -/
structure Launch where
  id : Nat
  die : Nat
  queue : Nat
  index : Nat
  recAddr : Word
  stat : Word
  lrec : LaunchRec
  stage : Stage
  placed : Nat
  retired : Nat
  pskip : Bool
  dskip : Bool
  disp : Nat
  aged : Bool
  consumed : List (Nat × Nat)
  spills : List (Nat × Nat)
deriving DecidableEq, Repr

/-- A team saved mid-team (R350 to R353): its image, its scratchpad banks (0 for the leader's or 1 for the follower's core, j, aliased
bytes), the contents of its accumulator banks on both cores, its gallery bins (core, with the age for `opened`), its removed requests,
the size of its block, the times of its stop and save, and the cluster it left. -/
structure SavedTeam where
  team : Team
  banks : List (Nat × Nat × Nat)
  accs : List AccBank
  accs2 : List AccBank
  bins : List (Nat × Bin)
  reqs : List GReq
  bytes : Nat
  stoppedAt : Word
  savedAt : Word
  cluster : Nat
deriving DecidableEq, Repr

/-! ## Tapes and scatter -/

/-- One thread's part of a tape entry (R216): registers with row, whether its shape was uniform, and predicates. -/
structure TapeRec where
  entry : Nat
  mask : Word
  regs : List (Nat × Row × Bool)
  preds : List (Nat × Bool)
deriving DecidableEq, Repr

/-- A span of a tape (R211); `recs` stand newest first. -/
structure Span where
  rc : Bool
  pc : Word
  time : Word
  ckpt : Option TapeRec
  hdrEntry : Option Nat
  isOpen : Bool
  recs : List TapeRec
deriving DecidableEq, Repr

/-- A thread's tape (R211), spans newest first; `replay` holds the local tape while it is open, newest first (R222). -/
structure Tape where
  team : BitVec 32
  tid : BitVec 32
  spans : List Span
  replay : Bool
  localRecs : List TapeRec
  conv : Bool
deriving DecidableEq, Repr

/-- Bytes charged for an entry and the members that have not yet freed it (R214). -/
structure Charge where
  entry : Nat
  bytes : Nat
  members : Nat
deriving DecidableEq, Repr

/-- A tape area (R212), with the dimensions of the launch that recorded it last: none when `nteam` is 0. -/
structure TapeArea where
  ctx : Nat
  base : Word
  quota : Nat
  exhausted : Bool
  nteam : Nat
  perTeam : Nat
  charges : List Charge
  tapes : List Tape
deriving DecidableEq, Repr

/-- A gradient scatter accumulator (R225). -/
structure ScatAcc where
  launch : Nat
  target : Nat
  sum : BitVec 320
  nan : Bool
  pinf : Bool
  ninf : Bool
  negz : Bool
  pois : Bool
  count : Word
deriving DecidableEq, Repr

/-- An addition on its way to its unit (R230). -/
structure Addition where
  launch : Nat
  ctx : Nat
  target : Nat
  value : BitVec 32
  pois : Bool
  owner : Option (FibreRef × Nat)
deriving DecidableEq, Repr

/-- A queue reservation whose COMMIT is due (R262): the descriptor's physical address, the item range and the owner. -/
structure Reservation where
  id : Nat
  desc : Nat
  first : Nat
  count : Nat
  owner : Option (FibreRef × Nat)
deriving DecidableEq, Repr

/-! ## Translation, format pages, mailbox, fabric -/

/-- A cached translation (R346): context, 4 KiB virtual page and the leaf's result. -/
structure TlbEntry where
  ctx : Nat
  vpage : Nat
  frame : Nat
  size : Nat
  w : Bool
  x : Bool
  fmtp : Bool
deriving DecidableEq, Repr

/-- A page request sent to the driver (R347, R348). -/
structure PageReq where
  ctx : Nat
  vpage : Nat
  die : Nat
deriving DecidableEq, Repr

/-- The reclaim queue (R326). -/
structure Reclaim where
  base : Nat
  cap : Nat
  headAddr : Nat
  tail : Nat
deriving DecidableEq, Repr

/-- The mailbox registers of R364 that hold state, the sequence number (R368), the events that wait for ring space, and the page request
records that wait to be held (R369). -/
structure Mailbox where
  cmdBase : Word
  cmdSize : Word
  cmdTail : Word
  cmdHead : Word
  evBase : Word
  evSize : Word
  evHead : Word
  evTail : Word
  evLost : Word
  evSeq : Word
  held : List (List Word)
  waiting : List (List Word)
deriving DecidableEq, Repr

/-- Power and thermal state (R371, R374, R375). -/
structure Power where
  draw : BitVec 16
  limit : BitVec 16
  setLimit : BitVec 16
  gcap : BitVec 4
  fcap : BitVec 4
  tjmax : BitVec 8
  therm : Bool
deriving DecidableEq, Repr

/-- Firmware state (R373): the running image, the fused minimum, the signature checks, recovery, the chunks written to
flash since the last boot, by offset, and the image that the last boot found there. -/
structure Firmware where
  version : BitVec 32
  svn : BitVec 16
  rsaOk : Bool
  slhOk : Bool
  recovery : Bool
  chunks : List (Word × List Byte)
  image : FirmwareImage
deriving DecidableEq, Repr

/-- Host attach (R363, R372): whether the bring-up after a package reset still goes on, what the host has configured, DOE answers given,
and the IDE key messages taken. -/
structure Attach where
  retry : Bool
  cacheOn : Bool
  memOn : Bool
  hdmBase : Nat
  doe : List (Nat × List Byte)
  ideKeys : List (List Byte)
  reads : List (List Byte)
  snooped : List Nat
deriving DecidableEq, Repr

/-- What an engine's request is for: the die of the engine, its operation, and where the bytes read go. -/
structure XferRef where
  die : Nat
  id : Nat
  dst : Nat
deriving DecidableEq, Repr

/-- A request of this package that awaits its answer (R391); `lanes` are the lanes it serves. -/
structure OutReq where
  unit : Nat
  tag : Nat
  gen : BitVec 4
  dst : Nat
  kind : ReqKind
  addr : Nat
  len : Nat
  data : List Byte
  key : BitVec 32
  keyIndex : Nat
  num : Option (BitVec 32)
  issued : Word
  fibre : Option (FibreRef × Nat)
  lanes : Word
  xfer : Option XferRef
deriving DecidableEq, Repr

/-- The sequence from one source package (R387): the next number to perform, requests held, numbers skipped ahead, and the
atomics answered in the last 400 µs (R386) with time, bytes and poison. -/
structure InSeq where
  src : BitVec 6
  next : BitVec 32
  held : List RemoteReq
  skips : List (BitVec 32)
  answered : List (BitVec 32 × Word × List Byte × Bool)
deriving DecidableEq, Repr

/-- An answer of this package to another (R294, R390). -/
structure Reply where
  dst : BitVec 6
  tag : Nat
  gen : BitVec 4
  refused : Bool
  poison : Bool
  data : List Byte
deriving DecidableEq, Repr

/-- Flow control with one peer, by channel of R383: flits sent to it, flits it has freed, flits of it freed here, slots freed on the
two channels with increments that it has not been told, and the time of the last update sent (R384, R385). -/
structure Credit where
  peer : Nat
  sent : List (BitVec 32)
  freedByPeer : List (BitVec 32)
  freedHere : List (BitVec 32)
  owed : List Nat
  updated : Word
deriving DecidableEq, Repr

/-- A port against failures (R388): live, in blackout while a spare is switched in, live again from its next circuit, or without a
spare. -/
inductive Dark where
  | live | switching | switched | dead
deriving DecidableEq, Repr

/-- A fabric port (R376, R384, R386, R388): spare wavelengths and lasers left, the flits sent that are not acknowledged, and the time of
the last update of totals on it. -/
structure Port where
  dark : Dark
  waves : Nat
  lasers : Nat
  replay : List Flit
  updated : Word
deriving DecidableEq, Repr

/-- A transaction in the port controller (R380): its destination, channel and flits, its time of issue, and whether it may go by an
intermediate. -/
structure Outgoing where
  dst : Nat
  chan : Nat
  flits : Nat
  time : Word
  relay : Bool
deriving DecidableEq, Repr

/-- Fabric state of the package (R376 to R391). The calendar lists its nonzero entries as (index, byte), index
(slot × 32 + port) × 64 + package; the next one has the time of the cycle at whose start it takes effect. `refused` lists requests that
were refused while others of the same instruction still await their answers. `skew` are the ticks by which device time has still to
be corrected, and `age` those since the last correction, counted to 100 (R370). `sendQ` are the transactions that no port has begun,
`turn` the port after the one assigned last (R380), and `acks` the link acknowledgements sent, by package and flits (R386). `answers`, `skipsSent` and
`out` list what the package has sent: answers, skip notices, and flits of its link steps. -/
structure Fabric where
  cal : List (Nat × Byte)
  nextCal : Option (Word × List (Nat × Byte))
  calRejects : Nat
  slot : BitVec 3
  slotTime : Word
  guard : Bool
  ports : List Port
  peerDark : List (Nat × Nat)
  seqOut : List (Nat × BitVec 32)
  seqIn : List InSeq
  credits : List Credit
  landing : List Flit
  reqs : List OutReq
  refused : List OutReq
  answers : List Reply
  skipsSent : List (Nat × BitVec 32)
  out : List Flit
  stale : Nat
  errors : Nat
  skew : Int
  age : Nat
  sendQ : List Outgoing
  turn : Nat
  acks : List (Nat × Nat)
deriving DecidableEq, Repr

/-- The state of a package. Memory is the local physical address space of R279, by local address, and `home` what has last been written
back of it (R281, R312). `down` tells that a failed bridge has made a package reset necessary (R361). `commits` holds, per queue
descriptor, the ends of committed item ranges and their times, oldest first (R261, R313); `corrected` counts the errors corrected in L2
and HBM (R285). -/
structure State where
  time : Word
  clock : Nat
  tick : Nat
  fresh : Nat
  on : Bool
  down : Bool
  pkg : BitVec 6
  mem : List Host.Cell
  home : List Host.Cell
  poison : List Nat
  corrected : Nat
  cores : List Core
  clusters : List Cluster
  dies : List Die
  ctxs : List Context
  launches : List Launch
  teams : List Team
  saved : List SavedTeam
  areas : List TapeArea
  accs : List ScatAcc
  adds : List Addition
  reservs : List Reservation
  commits : List (Nat × Nat × Word)
  tlb : List TlbEntry
  pageReqs : List PageReq
  convs : List (Nat × Word)
  skipped : List (Nat × Word)
  reclaim : Option Reclaim
  mbox : Mailbox
  power : Power
  fw : Firmware
  attach : Attach
  fab : Fabric
  cur : Option FibreRef
  inbox : List Instr
  uid : Nat
deriving DecidableEq, Repr

/-! ## Reset -/

def Bank.reset (k : Nat) : Bank := ⟨if k < 8 then .l1 else .free, [], []⟩
def AccBank.reset : AccBank := ⟨none, [], []⟩

/-- Pool roles at package reset: banks 0 to 7 are L1 ways, 8 to 47 free scratchpad; afterwards only `bmode` makes L1 ways, and the command
processor none (R179; DEDUCED, assumption 131). -/
def Core.reset : Core :=
  ⟨List.replicate 16 none, 0, (List.range 48).map Bank.reset, List.replicate 8 AccBank.reset, [], [], List.replicate 64 none, none, [], [], []⟩

def Cluster.reset : Cluster := ⟨[], List.replicate 16 ⟨none, []⟩, 0, [], 0⟩

/-- The requantiser threshold is 100 ms at reset (R322). -/
def Die.reset : Die := ⟨List.replicate 16 none, 100, [], [], []⟩

def Context.reset : Context := ⟨false, false, 0, 0, 0, 0, 0, 0, [], [], none, none, false, 0, 0, []⟩

def Mailbox.reset : Mailbox := ⟨0, 0, 0, 0, 0, 0, 0, 0, 0, 0, [], []⟩

/-- PWRSTAT at reset: LIMIT 2,400, both caps 8, the rest 0 (R371). -/
def Power.reset : Power := ⟨0, 2400, 2400, 8, 8, 0, false⟩

/-- A verified boot (R373). VERSION and SVN have no reset value; both read 0 (DESIGN CHOICE, assumption 9). -/
def Firmware.reset : Firmware := ⟨0, 0, true, true, false, [], ⟨0, 0, true, true⟩⟩

def Attach.reset : Attach := ⟨false, false, false, 0, [], [], [], []⟩

def Port.reset : Port := ⟨.live, 1, 1, [], 0⟩

def Fabric.reset : Fabric :=
  ⟨[], none, 0, 0, 0, false, List.replicate 32 Port.reset, [], [], [], [], [], [], [], [], [], [], 0, 0, 0, 100, [], 0, []⟩

/-- The package right after reset (R8, R362, R370, R372): memory zero, device time 0, no context, no launch. -/
def State.reset : State where
  time := 0
  clock := 0
  tick := 0
  fresh := 0
  on := true
  down := false
  pkg := 0
  mem := []
  home := []
  poison := []
  corrected := 0
  cores := List.replicate 128 Core.reset
  clusters := List.replicate 32 Cluster.reset
  dies := List.replicate 2 Die.reset
  ctxs := List.replicate 64 Context.reset
  launches := []
  teams := []
  saved := []
  areas := []
  accs := []
  adds := []
  reservs := []
  commits := []
  tlb := []
  pageReqs := []
  convs := []
  skipped := []
  reclaim := none
  mbox := Mailbox.reset
  power := Power.reset
  fw := Firmware.reset
  attach := Attach.reset
  fab := Fabric.reset
  cur := none
  inbox := []
  uid := 0

end Sys2Proof.Machine
end

