-- ==== Sys2Proof/Machine/Mem.lean ====
section
/-! DEFINITION. Memory: cells in canonical form, poison, the local address map, page walks and cached translations, the access
checks of R149, window keys, scratchpad aliases, format pages, and loads and stores at physical addresses. -/

namespace Sys2Proof.Machine

/-! ## Cells -/

/-- The byte at an address; an unlisted address reads zero (R362). -/
def cellGet : List Host.Cell → Nat → Byte
  | [], _ => 0
  | (k, v) :: m, a => if a < k then 0 else if a == k then v else cellGet m a

/-- Writing a byte, keeping addresses rising and listing no zero byte. -/
def cellSet : List Host.Cell → Nat → Byte → List Host.Cell
  | [], a, b => if b == 0 then [] else [(a, b)]
  | (k, v) :: m, a, b =>
    if a < k then (if b == 0 then (k, v) :: m else (a, b) :: (k, v) :: m)
    else if a == k then (if b == 0 then m else (k, b) :: m)
    else (k, v) :: cellSet m a b

/-- The canonical form: addresses above a bound and strictly rising, and no zero byte. -/
def cellsFrom : Nat → List Host.Cell → Bool
  | _, [] => true
  | lo, (k, v) :: m => lo ≤ k && v != 0 && cellsFrom (k + 1) m

/-- Memory.wf: the canonical form holds. -/
def Memory.wf (m : List Host.Cell) : Bool := cellsFrom 0 m

def cellsGet (m : List Host.Cell) (a : Nat) : Nat → List Byte
  | 0 => []
  | n + 1 => cellGet m a :: cellsGet m (a + 1) n

def cellsSet (m : List Host.Cell) (a : Nat) : List Byte → List Host.Cell
  | [] => m
  | b :: bs => cellsSet (cellSet m a b) (a + 1) bs

/-- The cells of [lo, lo + n) replaced by the cells of another store at [from, from + n). -/
def cellsSplice (m : List Host.Cell) (lo n : Nat) (src : List Host.Cell) (start : Nat) : List Host.Cell :=
  m.filter (fun c => c.1 < lo) ++
    ((src.filter fun c => start ≤ c.1 && c.1 < start + n).map fun c => (c.1 - start + lo, c.2)) ++
    m.filter (fun c => lo + n ≤ c.1)

/-- Sorted lists without repeats: poison marks. -/
def markSet : List Nat → Nat → List Nat
  | [], a => [a]
  | x :: xs, a => if a < x then a :: x :: xs else if a == x then x :: xs else x :: markSet xs a

def markClear (l : List Nat) (a : Nat) : List Nat := l.filter (· != a)
def marks (l : List Nat) (as : List Nat) : List Nat := as.foldl markSet l

/-- Bytes per register of an access type (R154). -/
def accBytes (t : ETy) : Nat := if t.isFloat then 8 else t.bits / 8

/-! ## Parts of the state -/

def State.team? (s : State) (uid : Nat) : Option Team := s.teams.find? (·.uid == uid)
def State.modTeam (s : State) (uid : Nat) (f : Team → Team) : State :=
  { s with teams := s.teams.map fun t => if t.uid == uid then f t else t }
def State.core (s : State) (c : Nat) : Core := s.cores.getD c Core.reset
def State.modCore (s : State) (c : Nat) (f : Core → Core) : State := { s with cores := s.cores.modify c f }
def State.cluster (s : State) (c : Nat) : Cluster := s.clusters.getD c Cluster.reset
def State.modCluster (s : State) (c : Nat) (f : Cluster → Cluster) : State := { s with clusters := s.clusters.modify c f }
def State.die (s : State) (d : Nat) : Die := s.dies.getD d Die.reset
def State.modDie (s : State) (d : Nat) (f : Die → Die) : State := { s with dies := s.dies.modify d f }
def State.ctx (s : State) (c : Nat) : Context := s.ctxs.getD c Context.reset
def State.modCtx (s : State) (c : Nat) (f : Context → Context) : State := { s with ctxs := s.ctxs.modify c f }
def State.launch? (s : State) (id : Nat) : Option Launch := s.launches.find? (·.id == id)
def State.modLaunch (s : State) (id : Nat) (f : Launch → Launch) : State :=
  { s with launches := s.launches.map fun l => if l.id == id then f l else l }
def Team.fibre? (t : Team) (fid : Nat) : Option Fibre := t.fibres.find? (·.fid == fid)
def Team.modFibre (t : Team) (fid : Nat) (f : Fibre → Fibre) : Team :=
  { t with fibres := t.fibres.map fun x => if x.fid == fid then f x else x }
def State.fibre? (s : State) (r : FibreRef) : Option Fibre := (s.team? r.team).bind fun t => t.fibre? r.fid
def State.modFibre (s : State) (r : FibreRef) (f : Fibre → Fibre) : State := s.modTeam r.team fun t => t.modFibre r.fid f
/-- A number that the model has not given before. -/
def State.newId (s : State) : Nat × State := (s.fresh, { s with fresh := s.fresh + 1 })

/-- The record of a launch that is not admitted (never met on a placed team). -/
def noRec : LaunchRec :=
  ⟨0, 0, 0, false, false, false, false, 16, 1, 1, 1, 0, 0, 0, 0, 0, 0, 0, 0, 0, 0, 0, 0, 0, 0, 0, false, 0, 0, 0, 0, false, 0, 0, 0,
   [], 0, [], false, 0, 0, 0, 0, 0, 0⟩

def State.recOf (s : State) (t : Team) : LaunchRec := ((s.launch? t.launch).map (·.lrec)).getD noRec

/-- The core on which a fibre position of a team stands (R15, R266). -/
def Team.coreOf (t : Team) (fid : Nat) : Nat := if fid < 64 then t.core else t.core + 1

/-! ## Address map -/

def KiB32 : Nat := 32768

/-- HBM of either die (R279). -/
def isHbm (la : Nat) : Bool := la < 0x3000000000 || (0x4000000000 ≤ la && la < 0x7000000000)
/-- Host memory through CXL.cache (R279). -/
def isHost (la : Nat) : Bool := 0x200000000000 ≤ la && la < 0x400000000000
def hostBase : Nat := 0x200000000000

/-- The home slice of a local address on its die: the XOR of six 6-bit fields (R280). Homes decide timing only. -/
def homeSlice (la : Nat) : Nat :=
  [8, 14, 20, 26, 32, 38].foldl (fun a k => Nat.xor a (la / 2 ^ k % 64)) 0

def pkgOf (pa : Nat) : Nat := pa / 2 ^ 46
def localOf (pa : Nat) : Nat := pa % 2 ^ 46

/-- A package is present when the current calendar names it as PEER (R278). -/
def State.present (s : State) (p : Nat) : Bool :=
  s.fab.cal.any fun (i, b) => i % 64 == s.pkg.toNat && 128 ≤ b.toNat && b.toNat / 64 % 2 == 0 && b.toNat % 64 == p

/-! ## Plain memory with poison per 64-byte sector (R285) -/

/-- A doubleword of local memory, as table walks read it (R343). -/
def State.ramWord (s : State) (la : Nat) : Nat := leNat (cellsGet s.mem la 8)

/-- Sectors wholly inside a range. -/
def wholeSectors (la n : Nat) : List Nat :=
  let lo := (la + 63) / 64
  let hi := (la + n) / 64
  (List.range (hi - lo)).map (lo + ·)

def touchedSectors (la n : Nat) : List Nat :=
  if n == 0 then [] else (List.range ((la + n - 1) / 64 - la / 64 + 1)).map (la / 64 + ·)

/-- The 64 bytes of a sector taken from another store. -/
def copySector (m src : List Host.Cell) (sector : Nat) : List Host.Cell := cellsSplice m (64 * sector) 64 src (64 * sector)

/-- Sectors that are about to change: each may have been written back before with the contents that it has (R281, R312; assumption 6). -/
def State.homeBefore (s : State) (sectors : List Nat) : List Host.Cell :=
  sectors.foldl (fun h k => if Config.wroteBack (s.tick * 2 ^ 64 + k) then copySector h s.mem k else h) s.home

/-- A store to memory: bytes, and poison marks. A clean store of a whole sector clears its poison; a poisoned store marks it. -/
def State.ramWrite (s : State) (la : Nat) (bs : List Byte) (pois : Bool) : State :=
  let p := if s.poison.isEmpty && !pois then [] else
    if pois then marks s.poison (touchedSectors la bs.length)
    else s.poison.filter fun x => !(wholeSectors la bs.length).contains x
  { s with mem := cellsSet s.mem la bs, home := s.homeBefore (touchedSectors la bs.length), poison := p }

/-- A sector is dropped without write-back (R312): it keeps its contents when they have been written back, and else has again what was
written back last, or its initial contents. -/
def State.dropSector (s : State) (k : Nat) : State :=
  if Config.wroteBack (s.tick * 2 ^ 64 + k) then s else { s with mem := copySector s.mem s.home k }

/-! ## Alias addresses (R186, R267) -/

/-- The bytes of alias space of one core's banks of a team. -/
def aliasStart (r : LaunchRec) (t : Team) (core j : Nat) : Nat :=
  (r.sb.toNat + t.index.toNat * r.ss + (if core == t.core then 0 else r.ss / 2) + j * KiB32) % 2 ^ 56

/-- The cores of a team. -/
def Team.cores (t : Team) (r : LaunchRec) : List Nat := if r.pair then [t.core, t.core + 1] else [t.core]

/-- The scratchpad banks of a team on a core: bank number, j and aliased bytes. -/
def State.scratchBanks (s : State) (uid core : Nat) : List (Nat × Nat × Nat) :=
  ((s.core core).banks.zipIdx).filterMap fun (b, k) => match b.role with
    | .scratch u j len => if u == uid then some (k, j, len) else none
    | _ => none

/-- An alias address of a scratchpad bank that a team of the context owns (R186). -/
def State.isAlias (s : State) (ctx va : Nat) : Bool :=
  s.teams.any fun t => t.ctx == ctx && (t.cores (s.recOf t)).any fun c =>
    (s.scratchBanks t.uid c).any fun (_, j, len) => (va + 2 ^ 56 - aliasStart (s.recOf t) t c j) % 2 ^ 56 < len

/-! ## Page walks -/

/-- A leaf of the tables (R343, R344). -/
structure Leaf where
  frame : Nat
  size : Nat
  w : Bool
  x : Bool
  fmtp : Bool
deriving DecidableEq, Repr

/-- The outcome of a walk: an entry with V = 0 at a level, a malformed entry, or a leaf (R345). -/
inductive Walk where
  | absent (level : Nat) (host : Bool)
  | bad
  | leaf (l : Leaf)
deriving DecidableEq, Repr

def bit (e k : Nat) : Bool := e / 2 ^ k % 2 == 1

/-- Bits of a table entry that must be zero (R344). -/
def entryReserved (e : Nat) : Bool := e / 2 ^ 52 != 0 || e / 256 % 16 != 0 || bit e 1

def entryFrame (e : Nat) : Nat := e % 2 ^ 52 / 4096 * 4096

/-- Tables lie in local HBM or host memory (R343); a table elsewhere is malformed (assumption 10). -/
def State.tableOk (s : State) (pa : Nat) : Bool := pkgOf pa == s.pkg.toNat && (isHbm (localOf pa) || isHost (localOf pa))

/-- An entry from which a 64 KiB translation can take its fields. -/
def entryP64 (e : Nat) : Bool := bit e 0 && bit e 5 && !entryReserved e && entryFrame e % 65536 == 0

/-- The entry whose fields a 64 KiB translation uses: any of the 16 that can give them, when they differ (R344; assumption 5). -/
def State.p64Entry (s : State) (table idx e : Nat) : Nat :=
  let es := ((List.range 16).map fun k => s.ramWord (localOf (table + 8 * (idx / 16 * 16 + k)))).filter entryP64
  if es.all (· == e) then e else es.getD (Config.splitEntry s.tick % es.length) e

def State.walkAux (s : State) (va : Nat) : List Nat → Nat → Walk
  | [], _ => .bad
  | lvl :: rest, table =>
    let idx := va / 2 ^ (12 + 9 * lvl) % (if lvl == 4 then 256 else 512)
    if !s.tableOk (table + 8 * idx) then .bad
    else
      let e := s.ramWord (localOf (table + 8 * idx))
      if !bit e 0 then .absent lvl (bit e 6)
      else if entryReserved e || (3 ≤ lvl && bit e 4) || (bit e 5 && lvl != 0) || (bit e 7 && !bit e 5) then .bad
      else if lvl == 0 then
        if bit e 5 then
          let g := s.p64Entry table idx e
          if entryFrame e % 65536 != 0 then .bad else .leaf ⟨entryFrame g, 65536, bit g 2, bit g 3, bit g 7⟩
        else .leaf ⟨entryFrame e, 4096, bit e 2, bit e 3, false⟩
      else if bit e 4 then
        let size := 2 ^ (12 + 9 * lvl)
        if entryFrame e % size != 0 then .bad else .leaf ⟨entryFrame e, size, bit e 2, bit e 3, false⟩
      else s.walkAux va rest (entryFrame e)

/-- A walk of a context's tables as they stand (R343). -/
def State.walk (s : State) (ctx va : Nat) : Walk := s.walkAux va [4, 3, 2, 1, 0] (s.ctx ctx).root

/-- The translation an access uses: the tables as they stand, or, until an invalidation completes, a cached translation that
differs from them (R346). An alias address names its bank by the tables as they stand (R186, R292; assumption 3). -/
def State.translate (s : State) (ctx va : Nat) : Walk :=
  match s.tlb.find? fun e => e.ctx == ctx && e.vpage == va / 4096 with
  | none => s.walk ctx va
  | some e =>
    let old : Walk := .leaf ⟨e.frame, e.size, e.w, e.x, e.fmtp⟩
    let new := s.walk ctx va
    if new == old || s.isAlias ctx va then new
    else if Config.staleTranslation (s.tick * 2 ^ 44 + va / 4096) then old else new

/-- Caching the translation of an address that an access used (R346). -/
def State.cache (s : State) (ctx va : Nat) : State :=
  match s.translate ctx va with
  | .leaf l =>
    let e : TlbEntry := ⟨ctx, va / 4096, l.frame, l.size, l.w, l.x, l.fmtp⟩
    if s.tlb.contains e then s
    else { s with tlb := e :: s.tlb.filter fun x => !(x.ctx == ctx && x.vpage == va / 4096) }
  | _ => s

/-- Invalidation of the translations of a context that cover an address, a large page being invalidated whole, or of all of them
(R340, R346, R367). -/
def State.invalidate (s : State) (ctx : Nat) (va : Option Nat) : State :=
  { s with tlb := s.tlb.filter fun e =>
      !(e.ctx == ctx && (match va with | none => true | some a => e.vpage * 4096 / e.size == a / e.size)) }

/-! ## Scratchpad banks behind their aliases (R186, R292) -/

/-- Where an access is performed. -/
inductive Place where
  | ram (la : Nat)
  | bank (core bank off : Nat)
  | far (pa : Nat)
deriving DecidableEq, Repr

/-- The bank registered for a local address, with the team that owns it. -/
def State.bankOf (s : State) (la : Nat) : Option (Nat × Nat × Nat × Nat) :=
  s.teams.findSome? fun t =>
    let r := s.recOf t
    (t.cores r).findSome? fun c =>
      (s.scratchBanks t.uid c).findSome? fun (k, j, len) =>
        (List.range (len / 4096)).findSome? fun p =>
          match s.walk t.ctx (aliasStart r t c j + p * 4096) with
          | .leaf l =>
            let pa := l.frame + (aliasStart r t c j + p * 4096) % l.size
            if pkgOf pa == s.pkg.toNat && localOf pa / 4096 == la / 4096 then some (t.uid, c, k, p * 4096 + la % 4096) else none
          | _ => none

/-- A place some bytes further on. -/
def Place.add (p : Place) (k : Nat) : Place :=
  match p with
  | .ram la => .ram (la + k)
  | .bank c b off => .bank c b (off + k)
  | .far pa => .far (pa + k)

/-- A FIFO bank of a core that an address names: its former alias (R153, R184), while no scratchpad bank stands there. -/
def State.namesFifo (s : State) (core la : Nat) : Bool :=
  (s.core core).banks.any fun b => match b.role with
    | .fifo u _ (some j) => (match s.team? u with
      | none => false
      | some t => (List.range 8).any fun p =>
        match s.walk t.ctx (aliasStart (s.recOf t) t core j + p * 4096) with
        | .leaf l =>
          let pa := l.frame + (aliasStart (s.recOf t) t core j + p * 4096) % l.size
          pkgOf pa == s.pkg.toNat && localOf pa / 4096 == la / 4096
        | _ => false)
    | _ => false

/-- The place of a physical address: a registered bank takes the accesses to its backing (R292). -/
def State.place (s : State) (pa : Nat) : Place :=
  if pkgOf pa != s.pkg.toNat then .far pa
  else match s.bankOf (localOf pa) with
    | some (_, c, k, off) => .bank c k off
    | none => .ram (localOf pa)

/-- The bytes and poison of a range that lies in one place. A remote range is read by the fabric, never here. -/
def State.readPlace (s : State) (p : Place) (n : Nat) : List Byte × Bool :=
  match p with
  | .ram la => (cellsGet s.mem la n, (touchedSectors la n).any s.poison.contains)
  | .bank c k off =>
    let b := (s.core c).banks.getD k ⟨.free, [], []⟩
    (cellsGet b.data off n, (List.range n).any fun i => b.poison.contains ((off + i) / 8))
  | .far _ => (List.replicate n 0, false)

/-- A store to a bank: a clean store of a whole 8-byte word clears its poison. -/
def bankWrite (b : Bank) (off : Nat) (bs : List Byte) (pois : Bool) : Bank :=
  let n := bs.length
  let touched := if n == 0 then [] else (List.range ((off + n - 1) / 8 - off / 8 + 1)).map (off / 8 + ·)
  let whole := (List.range ((off + n) / 8 - (off + 7) / 8)).map ((off + 7) / 8 + ·)
  { b with
    data := cellsSet b.data off bs
    poison := if pois then marks b.poison touched else b.poison.filter fun x => !whole.contains x }

def State.writePlace (s : State) (p : Place) (bs : List Byte) (pois : Bool) : State :=
  match p with
  | .ram la => s.ramWrite la bs pois
  | .bank c k off => s.modCore c fun co => { co with banks := co.banks.modify k fun b => bankWrite b off bs pois }
  | .far _ => s

/-! ## Format pages (R317 to R321) -/

/-- CRC-32C, reflected polynomial 0x82F63B78, one bit. -/
def crcBit (c : Nat) : Nat := if c % 2 == 1 then Nat.xor (c / 2) 0x82F63B78 else c / 2
def crcByte (c : Nat) (b : Byte) : Nat :=
  let x := Nat.xor c b.toNat
  crcBit (crcBit (crcBit (crcBit (crcBit (crcBit (crcBit (crcBit x)))))))
/-- CRC-32C of a byte list (R318). -/
def crc32c (bs : List Byte) : Nat := Nat.xor (bs.foldl crcByte 0xFFFFFFFF) 0xFFFFFFFF

/-- FMT of the header of the format page at a local address (R318). -/
def State.pageFmt (s : State) (base : Nat) : Nat := s.ramWord (base + 16) / 16 % 16
def State.pagePin (s : State) (base : Nat) : Bool := bit (s.ramWord (base + 16)) 2

/-- Header doublewords with the check recomputed. -/
def State.setHeader (s : State) (base gen lastwr dw2 : Nat) : State :=
  let h := leBytes 8 gen ++ leBytes 8 lastwr ++ leBytes 8 dw2
  s.ramWrite base (h ++ leBytes 8 (crc32c h)) false

/-- CHECK holds and FMT is allocated (R318, R327). -/
def State.headerOk (s : State) (base : Nat) : Bool :=
  let fmt := s.pageFmt base
  crc32c (cellsGet s.mem base 24) == s.ramWord (base + 24) % 2 ^ 32 && (fmt == 4 || fmt == 5 || fmt == 10)

/-- A store performed on an FP8 format page: LASTWR, CHECK, and the end of a conversion (R321, R324). -/
def State.pageStored (s : State) (base : Nat) : State :=
  let s := s.setHeader base (s.ramWord base) s.time.toNat (s.ramWord (base + 16))
  { s with convs := s.convs.filter (·.1 != base) }

/-- Valid table entries of a kind in local memory, with their addresses: those whose low byte has the bits of a mask. -/
def State.entries (s : State) (mask : Nat) : List (Nat × Nat) :=
  s.mem.filterMap fun (a, b) => if a % 8 == 0 && Nat.land b.toNat mask == mask then some (a, s.ramWord a) else none

/-- A table, by local address, serves level 4 − n of a valid context (R343). -/
def State.tableServes (s : State) (es : List (Nat × Nat)) : Nat → Nat → Bool
  | 0, t => s.ctxs.any fun (c : Context) => c.valid && pkgOf c.root == s.pkg.toNat && localOf c.root == t
  | n + 1, t => es.any fun (a, e) =>
    !entryReserved e && !bit e 4 && !bit e 5 && !bit e 7 && pkgOf (entryFrame e) == s.pkg.toNat && localOf (entryFrame e) == t &&
      (n != 0 || a % 4096 < 2048) && s.tableServes es n (a / 4096 * 4096)

/-- Format pages that the tables of a context name (R317): a valid level-0 entry with P64 and FMTP whose frame lies in local HBM. -/
def State.mappedPages (s : State) : List Nat :=
  match (s.entries 0xA1).filter fun (_, e) => !entryReserved e && entryFrame e % 65536 == 0 && pkgOf (entryFrame e) == s.pkg.toNat &&
      isHbm (localOf (entryFrame e)) with
  | [] => []
  | leaves =>
    let es := s.entries 1
    (leaves.filter fun (a, _) => s.tableServes es 4 (a / 4096 * 4096)).map fun (_, e) => localOf (entryFrame e)

/-- The format pages of the package: those of cached translations, and those that tables name. -/
def State.namedPages (s : State) : List Nat :=
  ((s.tlb.filterMap fun (e : TlbEntry) =>
    if e.fmtp && pkgOf e.frame == s.pkg.toNat && isHbm (localOf e.frame) then some (localOf e.frame) else none) ++ s.mappedPages).eraseDups

/-- A store by another package or by the host, which name no mapping of this package: it is performed on the FP8 format page whose frame
it reaches (R321; assumption 100). -/
def State.storeAt (s : State) (p : Place) (bs : List Byte) (pois : Bool) : State :=
  let s' := s.writePlace p bs pois
  match p with
  | .ram la => (match s.namedPages.find? fun b => b / 65536 == la / 65536 && (s.pageFmt b == 4 || s.pageFmt b == 5) with
    | some b => s'.pageStored b
    | none => s')
  | _ => s'

/-! ## Access checks -/

/-- What an access does, for the checks of R149 to R320; `ring` writes items to a queue. -/
inductive Acc where
  | read | write | ring | atomic | exec | tileRead | lockQuery | fpgQuery | fpgWrite
deriving DecidableEq, Repr

/-- Who accesses: context, core (0 to 127) and team. -/
structure Who where
  ctx : Nat
  core : Nat
  team : Nat
deriving DecidableEq, Repr

/-- A failed check of one lane: code and DETAIL, and the level of a host-serviced page. -/
structure LaneErr where
  code : Nat
  detail : Nat
  host : Option Nat
deriving DecidableEq, Repr

def lerr (code detail : Nat) : LaneErr := ⟨code, detail, none⟩

/-- The import entry that decides a byte of a remote access, and the key it carries (R390). -/
def State.importKey (s : State) (ctx pa : Nat) : Option WKey :=
  (List.range 256).findSome? fun i =>
    (s.ctx ctx).keys.find? fun k => !k.exp && k.index == i && k.base ≤ pa && pa < k.base + k.size

def WKey.grants (k : WKey) (a : Acc) : Bool :=
  match a with
  | .read | .tileRead => k.rd
  | .write | .ring => k.w
  | .atomic => k.a
  | _ => true

/-- Step 7 of R149. -/
def State.keyCheck (s : State) (ctx : Nat) (a : Acc) (pa : Nat) : Except LaneErr Unit :=
  match s.importKey ctx pa with
  | none => .error (lerr 0x0F 0xFFFF)
  | some k => if k.grants a then .ok () else .error (lerr 0x0F k.index)

def Acc.writes : Acc → Bool | .write | .ring | .atomic | .fpgWrite => true | _ => false

/-- The code regions of the context's admitted launches are read-only (R177). -/
def State.inCode (s : State) (ctx va : Nat) : Bool :=
  s.launches.any fun l => l.lrec.ctx == ctx && l.stage != .complete && l.lrec.code.toNat ≤ va && va < l.lrec.code.toNat + l.lrec.codeSz

/-- The checks of an access to a format page at offset off of the page at base (R317, R320). -/
def State.fmtCheck (s : State) (a : Acc) (pa base off : Nat) : Option LaneErr :=
  if pkgOf pa != s.pkg.toNat || !isHbm (localOf pa) || (s.bankOf (localOf pa)).isSome then some (lerr 7 5)
  else
    let mx := s.pageFmt (localOf base) == 10
    match a with
    | .read | .lockQuery => if mx then some (lerr 7 5) else none
    | .write => if mx || off < 256 then some (lerr 7 5) else none
    | .atomic | .ring => some (lerr 7 5)
    | .tileRead => if off < 256 then some (lerr 7 5) else none
    | _ => none

/-- Steps 4 (address width) to 7 of R149 for one access that stays in one 4 KiB page: its physical address. -/
def State.check (s : State) (w : Who) (a : Acc) (va : Nat) : Except LaneErr Nat :=
  if 2 ^ 56 ≤ va then .error (lerr 7 11)
  else match s.translate w.ctx va with
    | .absent lvl host => .error ⟨6, lvl, if host then some lvl else none⟩
    | .bad => .error (lerr 7 7)
    | .leaf l =>
      let off := va % l.size
      let pa := l.frame + off
      if a.writes && !l.w then .error (lerr 7 1)
      else if a == .exec && !l.x then .error (lerr 7 2)
      else if a == .exec && pkgOf pa != s.pkg.toNat then .error (lerr 7 9)   -- assumption 11
      else if pkgOf pa != s.pkg.toNat && !s.present (pkgOf pa) then .error (lerr 7 10)
      else if pkgOf pa == s.pkg.toNat && !isHbm (localOf pa) && !isHost (localOf pa) then .error (lerr 7 9)
      else if (a == .fpgQuery || a == .fpgWrite) && pkgOf pa != s.pkg.toNat then .error (lerr 7 9)
      else
        match (if l.fmtp then s.fmtCheck a pa l.frame off else none) with
        | some e => .error e
        | none =>
          match (if pkgOf pa == s.pkg.toNat then s.bankOf (localOf pa) else none) with
          | some (uid, c, _, _) =>
            if c == w.core && uid != w.team then .error (lerr 7 4)
            else if a.writes && s.inCode w.ctx va then .error (lerr 7 6) else .ok pa
          | none =>
            if pkgOf pa == s.pkg.toNat && s.namesFifo w.core (localOf pa) then .error (lerr 7 3)
            else if a.writes && s.inCode w.ctx va then .error (lerr 7 6)
            else if pkgOf pa != s.pkg.toNat && a != .lockQuery then
              match s.keyCheck w.ctx a pa with
              | .ok _ => .ok pa
              | .error e => .error e
            else .ok pa

/-- Alignment, then `check` (R149 steps 4 to 7). -/
def State.checkAligned (s : State) (w : Who) (a : Acc) (va align : Nat) : Except LaneErr Nat :=
  if va % align != 0 then .error (lerr 5 align) else s.check w a va

/-- The pages of a range, by the first byte of the range in each. -/
def pagesOf (va n : Nat) : List Nat :=
  if n == 0 then [] else (List.range ((va + n - 1) / 4096 - va / 4096 + 1)).map fun k => if k == 0 then va else (va / 4096 + k) * 4096

/-- Every page of a range passes the checks. -/
def State.checkRange (s : State) (w : Who) (a : Acc) (va n : Nat) : Except LaneErr Unit :=
  (pagesOf va n).foldl (fun r p => match r with
    | .error e => .error e
    | .ok _ => match s.check w a p with
      | .ok _ => .ok ()
      | .error e => .error e) (.ok ())

/-! ## Loads and stores by virtual address, after the checks -/

/-- The physical address of a checked virtual address. -/
def State.pa (s : State) (ctx va : Nat) : Nat :=
  match s.translate ctx va with
  | .leaf l => l.frame + va % l.size
  | _ => 0

/-- Bytes of a range inside one page. -/
def State.load (s : State) (ctx va n : Nat) : List Byte × Bool := s.readPlace (s.place (s.pa ctx va)) n

/-- The base of the format page that holds a virtual address. -/
def State.fmtBase (s : State) (ctx va : Nat) : Option Nat :=
  match s.translate ctx va with
  | .leaf l => if l.fmtp then some (localOf l.frame) else none
  | _ => none

/-- A store inside one page, with the bookkeeping of a format page (R321). -/
def State.store (s : State) (ctx va : Nat) (bs : List Byte) (pois : Bool) : State :=
  let s' := s.writePlace (s.place (s.pa ctx va)) bs pois
  match s.fmtBase ctx va with
  | some b => s'.pageStored b
  | none => s'

/-- A range that may cross pages, page by page. -/
def State.loadRange (s : State) (ctx va n : Nat) : List Byte × Bool :=
  (pagesOf va n).foldl (fun (acc : List Byte × Bool) p =>
    let hi := min (va + n) ((p / 4096 + 1) * 4096)
    let (b, q) := s.load ctx p (hi - p)
    (acc.1 ++ b, acc.2 || q)) ([], false)

def State.storeRange (s : State) (ctx va : Nat) (bs : List Byte) (pois : Bool) : State :=
  (pagesOf va bs.length).foldl (fun s p =>
    let hi := min (va + bs.length) ((p / 4096 + 1) * 4096)
    s.store ctx p ((bs.drop (p - va)).take (hi - p)) pois) s

def State.loadWord (s : State) (ctx va : Nat) : Nat := leNat (s.load ctx va 8).1

/-! ## Lock granules of 4 KiB (R153, R169, R196) -/

/-- A granule of a core's scratchpad: core, bank and 4 KiB unit, as one number. -/
def granuleId (core bank off : Nat) : Nat := (core * 48 + bank) * 8 + off / 4096

/-- A granule is engine-owned while an incomplete operation names it. -/
def State.engineOwned (s : State) (g : Nat) : Bool :=
  s.teams.any fun t => t.fibres.any fun f => f.ops.any fun o => !o.done && o.granules.contains g

/-- The granule that an access touches, if its place is a bank. -/
def placeGranule : Place → Option Nat
  | .bank c k off => some (granuleId c k off)
  | _ => none

end Sys2Proof.Machine
end

