-- ==== Sys2Proof/Machine/Perform.lean ====
section
/-! DEFINITION. Stores and atomics as they are performed at their place, and the accesses of a fibre that an engine-owned granule of
another core holds (R151, R158, R291). -/

namespace Sys2Proof.Machine

/-! ## Stores -/

def State.storeItem (s : State) (x : StoreItem) : State :=
  let s := s.writePlace (s.place x.pa) x.bytes false
  match x.page with
  | some b => s.pageStored b
  | none => s

/-! ## Atomics (R157, R158) -/

/-- The code in [33:30]. -/
def fieldTy (f : MF) : BitVec 4 := f.off.extractLsb' 16 4

/-- One step of an atomic on an element: old m, data y, comparand c. -/
def atomStep (op : Nat) (t : ETy) (m y c : Nat) : Nat :=
  match op with
  | 0 => (m + y) % 2 ^ t.bits
  | 1 => (addRne fmtF32 false m y).1
  | 2 => if intOf t m ≤ intOf t y then m else y
  | 3 => if intOf t m ≤ intOf t y then y else m
  | 4 => Nat.land m y
  | 5 => Nat.lor m y
  | 6 => Nat.xor m y
  | 7 => y
  | 8 => if m == c then y else m
  | 9 => (roundFV fmtF32 .rne 0 false 0 ((valOf .f32 m).minNum (valOf .f32 y))).1
  | 10 => (roundFV fmtF32 .rne 0 false 0 ((valOf .f32 m).maxNum (valOf .f32 y))).1
  | _ => if y ≤ m then 0 else m + 1

/-- The steps of several lanes in order, given as data and comparand in turn. -/
def atomFold (op : Nat) (t : ETy) (m : Nat) : List Word → Nat
  | y :: c :: rest => atomFold op t (atomStep op t m y.toNat c.toNat) rest
  | _ => m

/-- The lanes of one address, in ascending order. -/
structure AtomGroup where
  pa : Nat
  place : Place
  lanes : List Nat

def atomGroups (s : State) (lanes : List (Nat × Nat)) : List AtomGroup :=
  (lanes.map (·.2)).eraseDups.map fun pa => ⟨pa, s.place pa, (lanes.filter (·.2 == pa)).map (·.1)⟩

def argsOf (ls : List Nat) (y c : Nat → Word) : List Word := ls.flatMap fun l => [y l, c l]

/-- One atomic event at a local address. -/
def State.atomHere (s : State) (op : Nat) (t : ETy) (g : AtomGroup) (y c : Nat → Word) : State :=
  let n := t.bits / 8
  let (bs, p) := s.readPlace g.place n
  s.writePlace g.place (leBytes n (atomFold op t (leNat bs) (argsOf g.lanes y c))) p

/-! ## Accesses that wait for a granule of another core (R291) -/

/-- The granules that bytes of a place lie in. -/
def Place.granules (p : Place) (n : Nat) : List Nat :=
  match p with
  | .bank c k off => (List.range ((off % 4096 + n + 4095) / 4096)).map fun i => granuleId c k off + i
  | _ => []

/-- Bytes that one lane of a held read or atomic names. -/
def heldSpan (i : Instr) : Nat :=
  match i with
  | .ld t _ => accBytes t
  | .ld2 t _ => 2 * accBytes t
  | .ldn _ => 128
  | .atom _ f | .red _ f => (ETy.ofCode (fieldTy f)).bits / 8
  | _ => 0

/-- An engine owns a granule that the held access names. -/
def State.stillHeld (s : State) (i : Instr) (lanes : List LaneAcc) (items : List StoreItem) : Bool :=
  (lanes.any fun x => ((s.place x.pa).granules (heldSpan i)).any s.engineOwned) ||
    items.any fun x => ((s.place x.pa).granules x.bytes.length).any s.engineOwned

/-- Operation, type, data and comparand of a held atomic. -/
def heldAtom (i : Instr) (lanes : List LaneAcc) : Option (Nat × ETy × (Nat → Word) × (Nat → Word)) :=
  let arg (k l : Nat) : Word := ((lanes.find? fun x => x.lane == l).map fun x => x.args.getD k 0).getD 0
  match i with
  | .atom sub f | .red sub f => some (sub.toNat, ETy.ofCode (fieldTy f), arg 0, arg 1)
  | _ => none

/-- The writes of a held access are performed: its stores in lane order, or its atomics. -/
def State.performHeld (s : State) (i : Instr) (lanes : List LaneAcc) (items : List StoreItem) : State :=
  match heldAtom i lanes with
  | some (op, t, y, c) =>
    (atomGroups s (lanes.map fun x => (x.lane, x.pa))).foldl (fun (s : State) g => s.atomHere op t g y c) s
  | none => items.foldl (fun (s : State) x => s.storeItem x) s

/-- Held accesses of a fibre, in program order. -/
def State.performAllHeld (s : State) (f : Fibre) : State :=
  f.ops.foldl (fun (s : State) o => match o.kind with | .held i lanes items => s.performHeld i lanes items | _ => s) s

end Sys2Proof.Machine
end

