-- ==== Sys2Proof/Machine/Fibre.lean ====
section
/-! DEFINITION. A fibre's lanes, registers and outstanding operations: the landing of held writes at wait points and without them (R17,
R18, R20, R86 to R88). -/

namespace Sys2Proof.Machine

/-! ## Lanes and threads -/

def Row.zero : Row := ⟨0, .raw, false⟩
def VReg.zero (w : Nat) : VReg := ⟨List.replicate w Row.zero, .uniform⟩

def Thread.live (t : Thread) : Bool := t.st != .exited && t.st != .absent

/-- Lanes whose thread has a property, in ascending order. -/
def Fibre.lanesWhere (f : Fibre) (p : Thread → Bool) : List Nat :=
  f.threads.zipIdx.filterMap fun (t, i) => if p t then some i else none

def Fibre.live (f : Fibre) : List Nat := f.lanesWhere Thread.live
/-- The threads of the issuing bundle (R16, R37). -/
def Fibre.bundle (f : Fibre) : List Nat := f.lanesWhere fun t => t.st == .issuing
def Fibre.width (f : Fibre) : Nat := f.threads.length

def maskNat (l : List Nat) : Nat := l.foldl (fun a i => Nat.lor a (2 ^ i)) 0
def maskOf (l : List Nat) : Word := BitVec.ofNat 64 (maskNat l)
def lanesOf (m : Word) (w : Nat) : List Nat := (List.range w).filter fun i => m.getLsbD i

/-- The thread of no lane: never live. -/
def noThread : Thread := ⟨.absent, 0, none, 0, 0, 0, 0, [], 0, 0, 0, false, false, 0, false⟩

def Fibre.thread (f : Fibre) (lane : Nat) : Thread := f.threads.getD lane noThread
def Fibre.modThread (f : Fibre) (lane : Nat) (g : Thread → Thread) : Fibre := { f with threads := f.threads.modify lane g }
def Fibre.modThreads (f : Fibre) (lanes : List Nat) (g : Thread → Thread) : Fibre :=
  { f with threads := f.threads.zipIdx.map fun (t, i) => if lanes.contains i then g t else t }

/-- p7 reads 1 (R25). -/
def Thread.pred (t : Thread) (p : BitVec 3) : Bool := p == 7 || t.preds.getLsbD p.toNat
/-- A write to p7 is ignored (R25). -/
def Thread.setPred (t : Thread) (p : BitVec 3) (v : Bool) : Thread :=
  if p == 7 then t
  else { t with preds := if v then t.preds ||| (1#8 <<< p.toNat) else t.preds &&& ~~~(1#8 <<< p.toNat) }

/-! ## Registers -/

def noSlot : Slot := ⟨0, 0, 0, 0, [], [], 0, 0⟩
def Team.slotOf (t : Team) (f : Fibre) : Slot := t.slots.getD f.slot noSlot

/-- Registers in the window of a fibre (R17). -/
def Team.nregs (t : Team) (f : Fibre) : Nat := (t.slotOf f).shared.length + f.priv.length

/-- A register of the window: shared rows first (R17, R18). -/
def Team.reg (t : Team) (f : Fibre) (n : Nat) : VReg :=
  let sh := (t.slotOf f).shared
  if n < sh.length then sh.getD n (.zero f.width) else f.priv.getD (n - sh.length) (.zero f.width)

def VReg.row (v : VReg) (lane : Nat) : Row := v.rows.getD lane .zero

/-- One lane's row replaced; lanes that the list does not reach hold zero rows. -/
def setLane : List Row → Nat → Row → List Row
  | [], 0, x => [x]
  | [], i + 1, x => Row.zero :: setLane [] i x
  | _ :: ys, 0, x => x :: ys
  | y :: ys, i + 1, x => y :: setLane ys i x

/-- Rows replaced by lane, and the shape tag. -/
def VReg.put (v : VReg) (rows : List (Nat × Row)) (sh : Shape) : VReg :=
  ⟨rows.foldl (fun l x => setLane l x.1 x.2) v.rows, sh⟩

/-- The one write to a vector register of a fibre: its own copy, or the slot's row (R18). -/
def Team.putReg (t : Team) (fid n : Nat) (rows : List (Nat × Row)) (sh : Shape) : Team :=
  match t.fibre? fid with
  | none => t
  | some f =>
    let k := (t.slotOf f).shared.length
    if n < k then { t with slots := t.slots.modify f.slot fun sl => { sl with shared := sl.shared.modify n fun v => v.put rows sh } }
    else t.modFibre fid fun f => { f with priv := f.priv.modify (n - k) fun v => v.put rows sh }

def State.putReg (s : State) (r : FibreRef) (n : Nat) (rows : List (Nat × Row)) (sh : Shape) : State :=
  s.modTeam r.team fun t => t.putReg r.fid n rows sh

def State.modThreads (s : State) (r : FibreRef) (lanes : List Nat) (g : Thread → Thread) : State :=
  s.modFibre r fun f => f.modThreads lanes g

def State.setPreds (s : State) (r : FibreRef) (p : BitVec 3) (vals : List (Nat × Bool)) : State :=
  s.modFibre r fun f => vals.foldl (fun f (i, v) => f.modThread i fun t => t.setPred p v) f

/-- Flags are ORed into $flags of each named lane (R65). -/
def State.orFlags (s : State) (r : FibreRef) (fl : List (Nat × Fl)) : State :=
  s.modFibre r fun f => fl.foldl (fun f (i, v) => f.modThread i fun t => { t with flags := t.flags ||| v.setWidth 64 }) f

/-! ## Outstanding operations (R86, R87) -/

/-- Held writes of lanes that have exited are discarded (R86). -/
def HeldWrite.liveOnly (f : Fibre) (h : HeldWrite) : HeldWrite :=
  { h with rows := h.rows.filter fun (i, _) => (f.thread i).live }

/-- Where a live thread stands: its clause and the number of its next instruction, or none outside a clause. -/
def Fibre.standing (f : Fibre) (l : Nat) : Option (Word × Nat) :=
  match (f.thread l).st, f.issue with
  | .issuing, some i => some (i.hdr, i.idx)
  | _, _ => (f.thread l).clause.map fun h => (h, ((f.thread l).pc - h).toNat / 8 - 1)

def Op.isWindow (o : Op) : Bool := match o.ahead with | .window _ _ => true | .async => false

/-- A thread that stands at p has reached the wait point (R86). -/
def Op.reached (o : Op) (p : Option (Word × Nat)) : Bool :=
  match o.ahead, p with
  | .async, _ => false
  | .window _ _, none => true
  | .window h n, some (k, i) => k != h || n ≤ i

/-- The threads that stand at the wait point of an operation. -/
def Fibre.waiters (f : Fibre) (o : Op) : List Nat :=
  if o.isWindow then (lanesOf o.lanes f.width).filter fun l => (f.thread l).live && o.reached (f.standing l) else []

/-- One of these threads stands at a wait point. -/
def Fibre.atWait (f : Fibre) (lanes : List Nat) : Bool := f.ops.any fun o => (f.waiters o).any lanes.contains

/-- Whether the values that an operation holds are known. -/
def Op.known (o : Op) : Bool :=
  o.done || match o.kind with | .access _ _ _ => false | .held _ _ _ => false | .tapeRefill _ => false | _ => true

/-- A complete operation leaves the fibre; one that goes on holds nothing and has no wait point. -/
def settleOp (o : Op) (ops : List Op) : List Op :=
  if o.done then ops.filter fun (x : Op) => x.id != o.id
  else ops.map fun (x : Op) => if x.id == o.id then { x with ahead := .async, lanes := 0, writes := [], preds := [] } else x

/-- What an operation holds when some of its threads have passed its wait point; the rest of a write has no shape of its own. -/
def Op.without (lanes : List Nat) (o : Op) : Op :=
  { o with
    lanes := o.lanes &&& ~~~maskOf lanes
    writes := o.writes.map fun h => { h with rows := h.rows.filter (fun x => !lanes.contains x.1), shape := .general }
    preds := o.preds.filter fun p => !lanes.contains p.lane }

/-- The rows and predicates that land over those an older window holds: its own have landed before them (R87; assumption 111). -/
def Op.overtaken (o x : Op) : Op :=
  if o.isWindow || !x.isWindow then x
  else { x with
    writes := x.writes.map fun h => { h with rows := h.rows.filter fun y => !(o.writes.any fun k => k.reg == h.reg && k.rows.any (·.1 == y.1)) }
    preds := x.preds.filter fun y => !(o.preds.any fun k => k.pred == y.pred && k.lane == y.lane) }

def overtake (o : Op) : List Op → List Op
  | [] => []
  | x :: xs => if x.id == o.id then x :: xs else o.overtaken x :: overtake o xs

/-- Threads left to reach the wait point of an operation after these. -/
def Op.rest (o : Op) (lanes : List Nat) : Word := o.lanes &&& ~~~maskOf lanes

def settleOps (last : Bool) (lanes : List Nat) (o : Op) (ops : List Op) : List Op :=
  if last then settleOp o (overtake o ops)
  else ops.map fun (x : Op) => if x.id == o.id then x.without lanes else x

/-- The writes that an operation holds for some threads land; when no thread is left before its wait point, it leaves the fibre if it is
complete (R86, R87). -/
def State.land (s : State) (r : FibreRef) (o : Op) (lanes : List Nat) : State :=
  match s.fibre? r with
  | none => s
  | some f =>
    let last := o.rest lanes == 0
    let s := (o.writes.map (HeldWrite.liveOnly f)).foldl (fun (s : State) h =>
      let rows := h.rows.filter fun x => lanes.contains x.1
      if rows.isEmpty then s else s.putReg r h.reg rows (if last then h.shape else .general)) s
    let s := o.preds.foldl (fun (s : State) p =>
      if lanes.contains p.lane && (f.thread p.lane).live then s.setPreds r p.pred [(p.lane, p.val)] else s) s
    s.modFibre r fun f => { f with ops := settleOps last lanes o f.ops }

/-- A complete operation lands whole. -/
def State.landAll (s : State) (r : FibreRef) (o : Op) : State := s.land r o (List.range 64)

/-- Every window of the fibre ends here: held writes land, and operations that go on are scoreboarded (R88). A read whose values are
known is complete. -/
def State.landWindows (s : State) (r : FibreRef) : State :=
  match s.fibre? r with
  | none => s
  | some f => (f.ops.filter Op.isWindow).foldl (fun (s : State) o =>
      s.landAll r (match o.kind with | .load => { o with done := true } | .read _ _ => { o with done := true } | _ => o)) s

/-- An instruction that waits for the windows of its bundle is a wait point of each (assumption 112). -/
def Op.closeAt (lanes : Word) (idx : Nat) (o : Op) : Op :=
  match o.ahead with
  | .window h n => if o.lanes &&& lanes == 0 then o else { o with ahead := .window h (min n idx) }
  | .async => o

/-- Held writes to the rows of lanes that exit are discarded (R86); a window without threads has no wait point. -/
def Op.strip (lanes : List Nat) (o : Op) : Op :=
  let x := { o with
    lanes := o.lanes &&& ~~~maskOf lanes
    writes := o.writes.map fun (h : HeldWrite) => { h with rows := h.rows.filter fun x => !lanes.contains x.1 }
    preds := o.preds.filter fun (p : HeldPred) => !lanes.contains p.lane }
  if x.isWindow && x.lanes == 0 then { x with ahead := .async, writes := [], preds := [] } else x

/-- Operations after an exit: a complete one that holds nothing leaves the fibre. -/
def Fibre.stripOps (lanes : List Nat) (f : Fibre) : Fibre :=
  { f with ops := (f.ops.map (Op.strip lanes)).filter fun (o : Op) => !(o.done && !o.isWindow && o.writes.isEmpty && o.preds.isEmpty) }

def Fibre.heldRegs (f : Fibre) : List Nat := (f.ops.filter fun o => !o.isWindow).flatMap fun o => o.writes.map (·.reg)

/-- Another fibre of the slot has a held write to one of these shared registers (R20). -/
def Team.sharedHeld (t : Team) (f : Fibre) (regs : List Nat) : Bool :=
  let k := (t.slotOf f).shared.length
  regs.any fun n => n < k && t.fibres.any fun g => g.fid != f.fid && g.slot == f.slot && g.ops.any fun o => o.writes.any (·.reg == n)

/-- The window of a new operation: its wait point, with lookahead code L, 15 for none, and the threads that wait at it (R86, R87). -/
def Fibre.window (f : Fibre) (la : Nat) : Ahead × Word :=
  match f.issue with
  | some i => if la == 15 then (.async, 0) else (.window i.hdr (i.idx + 1 + la), maskOf f.bundle)
  | none => (.async, 0)

/-- A long-latency result, whose value is known at issue. -/
def OpKind.isAlu (k : OpKind) : Bool := match k with | .alu => true | _ => false

/-- A new operation of a fibre (R72, R86). -/
def State.addOp (s : State) (r : FibreRef) (classes : List WClass) (kind : OpKind) (la : Nat) (writes : List HeldWrite)
    (preds : List HeldPred) (granules : List Nat) : Nat × State :=
  let (id, s) := s.newId
  (id, s.modFibre r fun f => { f with ops := f.ops ++
    [⟨id, classes, kind, (f.window la).1, (f.window la).2, writes, preds, granules, s.time, kind.isAlu⟩] })

end Sys2Proof.Machine
end

