-- ==== Sys2Proof/Machine/Term.lean ====
section
/-! DEFINITION. What ends work: mailbox events (R368, R369), launch status (R305), the write-back of scratchpad banks (R183,
R186), and the termination of a context (R358, R359). -/

namespace Sys2Proof.Machine

/-! ## Mailbox events -/

/-- Room in the event ring, in 16-byte units (R364). -/
def Mailbox.room (m : Mailbox) : Nat := m.evSize.toNat - (m.evTail.toNat - m.evHead.toNat)

/-- Words from a list of numbers, each taken modulo 2^64. -/
def words (l : List Nat) : List Word := l.map (BitVec.ofNat 64 ·)

def wordBytes (l : List Word) : List Byte := l.flatMap fun w => leBytes 8 w.toNat

/-- Units of an entry written to the ring, wrapping at its end. -/
def State.ringWrite (s : State) : Nat → List Word → State
  | pos, a :: b :: rest =>
    let la := hostBase + (s.mbox.evBase.toNat + pos % s.mbox.evSize.toNat * 16) % 2 ^ 45
    State.ringWrite (s.writePlace (.ram la) (wordBytes [a, b]) false) (pos + 1) rest
  | _, _ => s

/-- Held entries move to the ring, in host memory, while they fit (R369) and the host has enabled CXL.cache (R364, R372). -/
def State.flushEvents (s : State) : Nat → State
  | 0 => s
  | n + 1 => match s.mbox.held with
    | [] => s
    | e :: rest =>
      if s.attach.cacheOn && e.length / 2 ≤ s.mbox.room then
        let s1 := s.ringWrite s.mbox.evTail.toNat e
        State.flushEvents { s1 with mbox := { s1.mbox with
          evTail := s1.mbox.evTail + BitVec.ofNat 64 (e.length / 2), held := rest } } n
      else s

/-- Whether the record of an event that may not be dropped can be held (R369). -/
def State.canPost (s : State) : Bool := s.mbox.held.length < 1024

/-- EVENT_WRITE (R368, R369): the entry goes to the ring, is held while the ring is full, or, for a corrected-error record beyond
1,024 held entries, is dropped and counted. DW1 counts the events generated, this one among them: the first carries 1 (DEDUCED). -/
def State.event (s : State) (kind : Nat) (corrected : Bool) (record : List Word) : State :=
  let seq := s.mbox.evSeq + 1
  let len := (record.length + 2 + 1) / 2
  let rec2 := if record.length % 2 == 0 then record else record ++ [0]
  let entry := BitVec.ofNat 64 (kind * 2 ^ 56 + len * 2 ^ 40) :: seq :: rec2
  let s := { s with mbox := { s.mbox with evSeq := seq } }
  if corrected && 1024 ≤ s.mbox.held.length then { s with mbox := { s.mbox with evLost := s.mbox.evLost + 1 } }
  else
    let s := { s with mbox := { s.mbox with held := s.mbox.held ++ [entry] } }
    s.flushEvents (s.mbox.held.length)

/-- Records of page requests that wait are held, oldest first, when there is room (R369). -/
def State.postWaiting (s : State) : Nat → State
  | 0 => s
  | n + 1 => match s.mbox.waiting with
    | [] => s
    | x :: rest =>
      if s.canPost then State.postWaiting ({ s with mbox := { s.mbox with waiting := rest } }.event 4 false x) n else s

/-- The record of a page request: it waits while it cannot be held (R348, R369). -/
def State.pageEvent (s : State) (record : List Word) : State :=
  if s.canPost && s.mbox.waiting.isEmpty then s.event 4 false record
  else { s with mbox := { s.mbox with waiting := s.mbox.waiting ++ [record] } }

/-- The ring has room again: held entries move to it, and records that waited are held. -/
def State.drainEvents (s : State) : State := (s.flushEvents s.mbox.held.length).postWaiting s.mbox.waiting.length

/-- A core error record (R190). -/
def coreRecord (time : Word) (ctx bank word syn array kind : Nat) : List Word :=
  [time, BitVec.ofNat 64 (ctx * 2 ^ 51 + bank * 2 ^ 45 + word * 2 ^ 32 + syn * 2 ^ 24 + array * 2 ^ 20 + kind * 2 ^ 16)]

/-- A memory error record (R368). -/
def memRecord (time : Word) (kind unit addr : Nat) : List Word :=
  [time, BitVec.ofNat 64 (kind * 2 ^ 60 + unit * 2 ^ 56 + addr % 2 ^ 52)]

/-! ## Launch status -/

/-- Status entry, DW0: STOP is kept as software wrote it (R305). -/
def State.statusWord (s : State) (l : Launch) (code : Nat) : Word :=
  let stop := s.loadWord l.lrec.ctx l.stat.toNat / 2 ^ 63
  BitVec.ofNat 64 (stop * 2 ^ 63 + (if l.dskip then 2 ^ 41 else 0) + (if l.pskip then 2 ^ 40 else 0) + code * 2 ^ 32 + min l.retired (2 ^ 32 - 1))

/-- A write of the command processor to a status entry; it is dropped when it fails translation or protection (R305). -/
def State.statusStore (s : State) (l : Launch) (ws : List Word) : State :=
  match s.check ⟨l.lrec.ctx, 999, 0⟩ .write l.stat.toNat with
  | .error _ => s
  | .ok _ => s.store l.lrec.ctx l.stat.toNat (wordBytes ws) false

/-- A change of STATUS, with its time. -/
def State.writeStatus (s : State) (l : Launch) (code : Nat) : State := s.statusStore l [s.statusWord l code, s.time]

/-- TEAMS and the flags of an admitted launch. -/
def State.updateStatus (s : State) (l : Launch) : State := s.statusStore l [s.statusWord l 1]

/-! ## Scratchpad banks -/

/-- A bank's alias pages written back to their backing; a page that does not translate with write permission is lost (R183,
R186). -/
def State.writeBackBank (s : State) (t : Team) (core bank j len : Nat) : State :=
  (List.range (len / 4096)).foldl (fun s p =>
    let va := aliasStart (s.recOf t) t core j + p * 4096
    match s.translate t.ctx va with
    | .leaf l =>
      let pa := l.frame + va % l.size
      let la := localOf pa
      if l.w && pkgOf pa == s.pkg.toNat && (isHbm la || isHost la) then
        let b := (s.core core).banks.getD bank ⟨.free, [], []⟩
        let bad := (b.poison.filter fun x => p * 512 ≤ x && x < (p + 1) * 512).map fun x => (la + (x - p * 512) * 8) / 64
        { s with
          mem := cellsSplice s.mem la 4096 b.data (p * 4096)
          home := s.homeBefore ((List.range 64).map (la / 64 + ·))
          poison := marks (s.poison.filter fun x => !(la / 64 ≤ x && x < la / 64 + 64)) bad }
      else s
    | _ => s) s

def State.setRole (s : State) (core bank : Nat) (r : Role) : State :=
  s.modCore core fun c => { c with banks := c.banks.modify bank fun _ => ⟨r, [], []⟩ }

/-- Every scratchpad bank of a team is written back and becomes free; its FIFO banks are emptied (R183). -/
def State.releaseBanks (s : State) (t : Team) : State :=
  (t.cores (s.recOf t)).foldl (fun s c =>
    let s := (s.scratchBanks t.uid c).foldl (fun s (k, j, len) => (s.writeBackBank t c k j len).setRole c k .free) s
    s.modCore c fun co => { co with banks := co.banks.map fun b => match b.role with
      | .fifo u _ _ => if u == t.uid then ⟨.free, [], []⟩ else b
      | _ => b }) s

/-- The accumulator banks of a team become free (R187). -/
def State.releaseAccs (s : State) (t : Team) : State :=
  (t.cores (s.recOf t)).foldl (fun s c => s.modCore c fun co =>
    { co with acc := co.acc.map fun b => if b.owner == some t.uid then AccBank.reset else b }) s

/-- Teams of the launch are still to be saved. -/
def State.savingLaunch (s : State) (launch : Nat) : Bool :=
  s.teams.any fun (t : Team) => t.launch == launch && (s.ctx t.ctx).saving.isSome

/-- Slots and register shares on cores that hold no team of the launch are released, once no save of the launch is in progress (R180). -/
def State.releaseShares (s : State) (launch : Nat) : State :=
  if s.savingLaunch launch then s
  else { s with cores := s.cores.zipIdx.map fun (c, n) =>
      if s.teams.any fun t => t.launch == launch && (t.core == n || ((s.recOf t).pair && t.core + 1 == n)) then c
      else { c with
        slots := c.slots.map fun x => if x == some launch then none else x
        banks := c.banks.map fun b => if b.role == .regShare launch then Bank.mk .free [] [] else b } }

/-- The fabric tag of a core or engine advances its generation (R391). -/
def genOf (gens : List (Nat × BitVec 4)) (tag : Nat) : BitVec 4 := ((gens.find? (·.1 == tag)).map (·.2)).getD 0
def genBump (gens : List (Nat × BitVec 4)) (tag : Nat) : List (Nat × BitVec 4) :=
  (tag, genOf gens tag + 1) :: gens.filter (·.1 != tag)

/-! ## Termination (R358) -/

/-- The termination record, word 1 (R359). -/
def termWord (ctx cause code detail : Nat) : Word :=
  BitVec.ofNat 64 (ctx % 64 * 2 ^ 58 + cause * 2 ^ 48 + code * 2 ^ 40 + detail % 2 ^ 32)

/-- A part of a transfer inside the package, with its poison: memory keeps poison by sector, a bank by word. Reads see the state given
first. -/
def State.movePart (s0 s : State) (p : XPart) : State :=
  let a := s0.place p.src
  let b := s0.place p.dst
  let u := match b with | .bank _ _ _ => 8 | _ => 64
  (List.range (p.len / u)).foldl (fun (s : State) k =>
    let (bs, q) := s0.readPlace (a.add (u * k)) u
    s.writePlace (b.add (u * k)) bs q) s

/-- A physical address lies in the 64 KiB frame at b. -/
def State.inFrame (s : State) (pa b : Nat) : Bool := match s.place pa with | .ram la => la / 65536 == b / 65536 | _ => false

/-- The format pages of a transfer that its writes to some addresses touch (R321). -/
def State.pagesStored (s : State) (x : Xfer) (dsts : List Nat) : State :=
  (x.pages.filter fun b => dsts.any fun a => s.inFrame a b).foldl (fun (s : State) b => s.pageStored b) s

/-- The local parts of a transfer are performed: every source byte is read before any destination byte is written (R167). -/
def State.moveNear (s : State) (x : Xfer) : State :=
  (x.near.foldl (fun (t : State) p => s.movePart t p) s).pagesStored x (x.near.map (·.dst))

/-- Local transfers that a context has issued are performed (R358 step 3); every other local access is performed at its issue. -/
def State.finishXfers (s : State) (ctx : Nat) : State :=
  let xs := s.dies.flatMap fun (d : Die) => d.xfers.filter fun (x : Xfer) => x.ctx == ctx
  let s1 := xs.foldl (fun (s : State) x => s.moveNear x) s
  { s1 with dies := s1.dies.map fun (d : Die) => { d with
      xfers := d.xfers.map fun (x : Xfer) => if x.ctx == ctx then { x with near := [] } else x } }

def stopThread (t : Thread) : Thread := if t.st == .absent then t else { t with st := .exited }

def stopFibre (f : Fibre) : Fibre :=
  { f with issue := none, ops := [], handler := none, pageWait := none, pending := [], threads := f.threads.map stopThread }

def Team.stop (t : Team) : Team := { t with fibres := t.fibres.map stopFibre, ring := [] }

/-- Queued requests of the teams are removed, started ones complete without results; the context's message queues are freed. -/
def Cluster.endContext (c : Cluster) (ctx : Nat) (uids : List Nat) : Cluster :=
  { c with
    table := (c.table.filter fun (g : GReq) => !(uids.contains g.owner.team && g.state == .queued)).map fun (g : GReq) =>
      if uids.contains g.owner.team then { g with orphan := true } else g
    queues := c.queues.map fun (q : MsgQ) => if q.owner == some ctx then ⟨none, []⟩ else q
    raster := c.raster.filter fun (x : RasterChunk) => x.ctx != ctx }

def Core.endContext (c : Core) (ctx : Nat) (uids : List Nat) : Core :=
  { c with
    gallery := c.gallery.map fun (b : Option Bin) => b.filter fun x => !uids.contains x.team
    accWait := c.accWait.filter fun (a : AccReq) => !uids.contains a.team
    rasterIn := c.rasterIn.filter fun (t : Tri) => t.ctx != ctx
    rasterWait := c.rasterWait.filter fun (b : TriBatch) => !uids.contains b.owner.team }

def Die.endContext (d : Die) (ctx : Nat) : Die :=
  { d with
    queues := d.queues.map fun (q : Option QueueReg) => q.map fun x => if x.ctx == ctx then { x with enabled := false } else x
    trigs := d.trigs.filter fun (t : Trig) => t.ctx != ctx
    xfers := d.xfers.map fun (x : Xfer) => if x.ctx == ctx then { x with owner := none, failed := true } else x }

def OutReq.dropOwner (uids : List Nat) (q : OutReq) : OutReq :=
  match q.fibre with
  | some (f, _) => if uids.contains f.team then { q with fibre := none } else q
  | none => q

/-- Held writes of the fibres of a context land before it stops (R88), and accesses that granules of other cores hold are performed
(R358 step 3). -/
def State.landContext (s : State) (ctx : Nat) : State :=
  s.teams.foldl (fun (s : State) t => if t.ctx != ctx then s
    else t.fibres.foldl (fun (s : State) f => (s.landWindows ⟨t.uid, f.fid⟩).performAllHeld f) s) s

/-- Steps 1, 2, 4 and 7 of R358 on every unit that holds work of the context. -/
def State.endContext (s : State) (ctx : Nat) (uids lids : List Nat) : State :=
  { s with
    teams := s.teams.map fun (t : Team) => if t.ctx == ctx then t.stop else t
    clusters := s.clusters.map fun (c : Cluster) => c.endContext ctx uids
    cores := s.cores.map fun (c : Core) => c.endContext ctx uids
    dies := s.dies.map fun (d : Die) => d.endContext ctx
    saved := s.saved.filter fun (x : SavedTeam) => x.team.ctx != ctx
    accs := s.accs.filter fun (a : ScatAcc) => !lids.contains a.launch
    adds := s.adds.filter fun (a : Addition) => !lids.contains a.launch
    pageReqs := s.pageReqs.filter fun (q : PageReq) => q.ctx != ctx
    fab := { s.fab with
      reqs := s.fab.reqs.map (OutReq.dropOwner uids)
      refused := s.fab.refused.filter fun q => (q.dropOwner uids).fibre.isSome } }

/-- A context is terminated (R358): its fibres stop, with the writes of windows landed (R88) and all others discarded, queued requests are
removed and started ones left to finish without results, scatter state is discarded, banks are written back and released, its
launches end with STATUS 0x20, its launch queues are disabled, message queues and saved teams are freed. The completion of the
termination frees what started engines still hold and writes the record of R359 (R434). -/
def State.terminate (s : State) (ctx cause code detail : Nat) : State :=
  if (s.ctx ctx).dying then s
  else
    let mine := s.teams.filter fun (t : Team) => t.ctx == ctx
    let lids := (s.launches.filter fun (l : Launch) => l.lrec.ctx == ctx).map (·.id)
    let s1 := (s.landContext ctx).finishXfers ctx
    let s2 := s1.endContext ctx (mine.map (·.uid)) lids
    let s3 := mine.foldl (fun (s : State) t => s.releaseBanks t) s2
    let s4 := (s3.launches.filter fun (l : Launch) => l.lrec.ctx == ctx && l.stage != .complete).foldl
      (fun (s : State) l => s.writeStatus l 0x20) s3
    let s5 := { s4 with launches := s4.launches.map fun (l : Launch) => if l.lrec.ctx == ctx then { l with stage := .complete } else l }
    s5.modCtx ctx fun c =>
      { c with dying := true, termRec := termWord ctx cause code detail, preempt := none, saving := none, saveUsed := 0, stash := [] }

end Sys2Proof.Machine
end

