-- ==== Sys2Proof/Machine/Request.lean ====
section
/-! DEFINITION. Requests to other packages as the source issues them: tags and generations (R391), numbers (R387), the split at
256-byte lines (R392), and the key each transaction carries (R390). -/

namespace Sys2Proof.Machine

/-- Generations of the tags of a unit: a core 0 to 127, or 128 + die for a collective engine (R391). -/
def State.gens (s : State) (unit : Nat) : List (Nat × BitVec 4) :=
  if unit < 128 then (s.core unit).gens else (s.die (unit - 128)).gens

/-- The tag is freed with a new generation (R391). -/
def State.bumpGen (s : State) (unit tag : Nat) : State :=
  if unit < 128 then s.modCore unit fun c => { c with gens := genBump c.gens tag }
  else s.modDie (unit - 128) fun d => { d with gens := genBump d.gens tag }

/-- The lowest free tag of 1,024; a collective holds its engine's tag without a request (R391, R402). -/
def State.freeTag (s : State) (unit : Nat) : Option Nat :=
  (List.range 1024).find? fun t => !(s.fab.reqs.any fun q => q.unit == unit && q.tag == t) &&
    !(s.dies.any fun d => d.xfers.any fun x => x.unit == unit && x.tag == some t)

def numbered : ReqKind → Bool
  | .read => false
  | _ => true

/-- A report on the control channel to the fabric manager, which no package number names: a code, and the port concerned (assumption
117). -/
def State.report (s : State) (code port : Nat) : State :=
  { s with fab := { s.fab with
    out := s.fab.out ++ [⟨s.pkg.toNat, 64, 64, 4, s.time, 0, false, true, 0, 0, [BitVec.ofNat 8 code, BitVec.ofNat 8 port]⟩] } }

/-- Flits of a transaction with a payload: a header, and 64 bytes of data each (R378). -/
def flitsOf (payload : Nat) : Nat := 1 + (payload + 63) / 64

/-- A transaction is handed to the port controller (R380). -/
def State.handOver (s : State) (x : Outgoing) : State := { s with fab := { s.fab with sendQ := s.fab.sendQ ++ [x] } }

def State.nextNum (s : State) (dst : Nat) : BitVec 32 := ((s.fab.seqOut.find? (·.1 == dst)).map (·.2)).getD 0

/-- Numbers of the sequence to a package are given out (R387, R397). -/
def State.takeNums (s : State) (dst n : Nat) : State :=
  { s with fab := { s.fab with seqOut := (dst, s.nextNum dst + BitVec.ofNat 32 n) :: s.fab.seqOut.filter (·.1 != dst) } }

/-- A destination takes at most 1,024 numbered transactions that are not yet acknowledged (R387). -/
def State.numRoom (s : State) (dst : Nat) : Bool := (s.fab.reqs.filter fun q => q.dst == dst && q.num.isSome).length < 1024

/-- Who waits for an answer: a fibre's operation and lanes, or an engine's operation. -/
structure Waiter where
  fibre : Option (FibreRef × Nat)
  lanes : Word
  xfer : Option XferRef
deriving DecidableEq, Repr

/-- The transactions of a waiter may relay: those of the latency class, and bulk ones with RLY (R380). -/
def State.mayRelay (s : State) (w : Waiter) : Bool :=
  match w.xfer with
  | none => true
  | some r => (s.die r.die).xfers.all fun (x : Xfer) => x.id != r.id || x.count < 4096 || x.rly

/-- One transaction with a number reserved before, or none (R391): it takes a tag; none when no tag is free, or when too many numbered
ones are outstanding. -/
def State.requestAs (s : State) (unit : Nat) (kind : ReqKind) (addr len : Nat) (data : List Byte) (key : WKey) (w : Waiter)
    (num : Option (BitVec 32)) : Option State :=
  match s.freeTag unit with
  | none => none
  | some tag =>
    if num.isSome && !s.numRoom (pkgOf addr) then none
    else
      let q : OutReq := ⟨unit, tag, genOf (s.gens unit) tag, pkgOf addr, kind, addr, len, data, key.key, key.index, num, s.time,
        w.fibre, w.lanes, w.xfer⟩
      some ({ s with fab := { s.fab with reqs := s.fab.reqs ++ [q] } }.handOver ⟨pkgOf addr, 0, flitsOf data.length, s.time, s.mayRelay w⟩)

/-- One transaction, with the next number unless it reads. -/
def State.request (s : State) (unit : Nat) (kind : ReqKind) (addr len : Nat) (data : List Byte) (key : WKey) (w : Waiter) : Option State :=
  if numbered kind then (s.takeNums (pkgOf addr) 1).requestAs unit kind addr len data key w (some (s.nextNum (pkgOf addr)))
  else s.requestAs unit kind addr len data key w none

/-- A range split at aligned 256-byte lines (R392). -/
def splitLines (addr len : Nat) : List (Nat × Nat) :=
  if len == 0 then [] else (List.range ((addr + len - 1) / 256 - addr / 256 + 1)).map fun k =>
    let lo := if k == 0 then addr else (addr / 256 + k) * 256
    (lo, min (addr + len) ((addr / 256 + k + 1) * 256) - lo)

/-- The largest naturally aligned power of two of at least 4 bytes at an address. -/
def naturalBlock (a n : Nat) : Nat := ([256, 128, 64, 32, 16, 8].find? fun p => a % p == 0 && p ≤ n).getD 4

/-- A range from a multiple of 4 in naturally aligned blocks. -/
def naturalCut : Nat → Nat → Nat → List (Nat × Nat)
  | 0, _, _ => []
  | k + 1, a, n => if n == 0 then [] else (a, naturalBlock a n) :: naturalCut k (a + naturalBlock a n) (n - naturalBlock a n)

/-- A read carries 4 to 256 bytes, naturally aligned (R392): a range inside a line is widened to whole 4-byte words and cut
(assumption 116). -/
def readCuts (addr len : Nat) : List (Nat × Nat) :=
  if len == 0 then [] else naturalCut 64 (addr / 4 * 4) ((addr + len + 3) / 4 * 4 - addr / 4 * 4)

/-- No key: used where the source check has already failed. -/
def noKey : WKey := ⟨false, 0, 0, false, false, false, 0, 0, 0, 0⟩

/-- Reads of remote ranges for an operation of a fibre; ranges named twice are read once (R151). `by` gives lanes with the address
whose failure they report. -/
def State.readRemoteBy (s : State) (ctx unit : Nat) (r : FibreRef) (op : Nat) (ranges : List (Nat × Nat)) (by_ : List (Nat × Nat)) :
    Option State :=
  ((ranges.eraseDups.flatMap fun (a, n) => splitLines a n).flatMap fun (a, n) => readCuts a n).eraseDups.foldl
    (fun (so : Option State) (a, n) => so.bind fun s =>
      let lanes := by_.foldl (fun (m : Word) (l, pa) => if a ≤ pa && pa < a + n then m ||| BitVec.ofNat 64 (2 ^ l) else m) 0
      s.request unit .read a n [] ((s.importKey ctx a).getD noKey) ⟨some (r, op), lanes, none⟩) (some s)

def State.readRemote (s : State) (ctx unit : Nat) (r : FibreRef) (op : Nat) (ranges : List (Nat × Nat)) : Option State :=
  s.readRemoteBy ctx unit r op ranges []

/-- Bytes answered for a remote range, if all are there. -/
def answered (ans : List (Nat × Byte × Bool)) (addr n : Nat) : Option (List Byte × Bool) :=
  let bs := (List.range n).map fun k => ans.find? (·.1 == addr + k)
  if bs.all Option.isSome then
    some (bs.map fun b => (b.map (·.2.1)).getD 0, bs.any fun b => (b.map (·.2.2)).getD false)
  else none

end Sys2Proof.Machine
end

