-- ==== Sys2Proof/Machine/Ops.lean ====
section
/-! DEFINITION. Named operations over a fibre: taking an exception, page requests, the slot, and the shell in which every instruction
issues (R9, R17, R37 to R41, R89, R329 to R333, R347). -/

namespace Sys2Proof.Machine

/-! ## Where an instruction stands -/

/-- Address of the instruction that issues next. -/
def Issue.addr (i : Issue) : Word := i.hdr + 8 * BitVec.ofNat 64 (i.idx + 1)
def Issue.word (i : Issue) : Word := i.words.getD i.idx 0
/-- The header after the clause. -/
def Issue.next (i : Issue) : Word := i.hdr + 8 * BitVec.ofNat 64 (i.words.length + 1)
def Issue.isLast (i : Issue) : Bool := i.idx + 1 == i.words.length
/-- The instruction after the current one, or the next header (R329), and whether it stands in the clause. -/
def Issue.after (i : Issue) : Word × Bool := if i.isLast then (i.next, false) else (i.addr + 8, true)

def wordY (w : Word) : Bool := w.getLsbD 4

/-- A thread that stands at a position, waiting for its path to be served. -/
def Thread.standAt (t : Thread) (pc : Word) (hdr : Option Word) : Thread := { t with st := .waiting, pc := pc, clause := hdr }

/-- A thread continues after the current instruction. -/
def Thread.goAfter (t : Thread) (i : Issue) : Thread :=
  let (pc, inside) := i.after
  { (t.standAt pc (if inside then some i.hdr else none)) with prevY := wordY i.word }

/-- A released thread continues after the instruction at which it was stopped. -/
def Thread.goOn (t : Thread) : Thread := t.standAt t.nxt (if t.nxtIn then t.clause else none)

/-- A thread stops at the current instruction, parked or blocked. Walkers that the instruction reads advance when it completes. -/
def Thread.stopAt (t : Thread) (i : Issue) (st : TState) : Thread :=
  { t with st := st, pc := i.addr, clause := some i.hdr, nxt := i.after.1, nxtIn := i.after.2, prevY := wordY i.word }

/-! ## Paths and the slot (R37, R40) -/

/-- A path: its position, a header or an instruction of the clause named. -/
abbrev Path := Word × Option Word

/-- A waiting thread that can be served: its fibre is not frozen, or it is on the handler path (R47, R333). -/
def Fibre.servable (f : Fibre) (l : Nat) : Bool :=
  (f.thread l).st == .waiting && f.pageWait.isNone && (match f.handler with | some h => h.lanes.getLsbD l | none => true)

def Fibre.pathOf (f : Fibre) (l : Nat) : Path := ((f.thread l).pc, (f.thread l).clause)
def Fibre.pathLanes (f : Fibre) (p : Path) : List Nat := (List.range f.width).filter fun l => f.servable l && f.pathOf l == p
def Fibre.paths (f : Fibre) : List Path := (((List.range f.width).filter f.servable).map f.pathOf).eraseDups

/-- The clause count of a path's latest service (R37). -/
def Fibre.lastServed (f : Fibre) (p : Path) : Nat := (f.pathLanes p).foldl (fun a l => max a (f.thread l).served) 0

/-- The lower PC; at one address, the path that stands at a header. -/
def Path.lower (p q : Path) : Bool := p.1.toNat < q.1.toNat || (p.1 == q.1 && p.2.isNone && q.2.isSome)

def pickBest (better : Path → Path → Bool) : List Path → Option Path
  | [] => none
  | p :: ps => some (ps.foldl (fun a q => if better q a then q else a) p)

/-- After every 64th clause issue of the fibre the path that has waited longest is due (R37). -/
def Fibre.ageing (f : Fibre) : Bool := 0 < f.issues && f.issues % 64 == 0

/-- The path that the scheduler serves next (R37). -/
def Fibre.select (f : Fibre) : Option Path :=
  if f.ageing then pickBest (fun p q => f.lastServed p < f.lastServed q || (f.lastServed p == f.lastServed q && p.lower q)) f.paths
  else pickBest Path.lower f.paths

def WClass.bit : WClass → Nat
  | .ld => 0 | .st => 1 | .fwd => 2 | .grad => 3 | .trav => 4 | .tape => 5 | .fab => 6 | .msg => 7

/-- An operation counts for the wait mask until it completes; a message that has been taken, until its registers land (R72, R272). -/
def Op.counts (o : Op) : Bool := match o.kind with | .message _ => true | _ => !o.done

/-- An operation of a class that the mask names is outstanding (R72). -/
def Fibre.masked (f : Fibre) (mask : Nat) : Bool := f.ops.any fun o => o.counts && o.classes.any fun c => mask / 2 ^ c.bit % 2 == 1

def hdrMask (h : Nat) : Nat := h / 2 ^ 48 % 256

/-- No wait point and no wait mask holds the path back. A clause that cannot be fetched will fault, and waits for nothing. -/
def State.pathReady (s : State) (t : Team) (f : Fibre) (p : Path) : Bool :=
  !f.atWait (f.pathLanes p) && match p with
  | (_, some _) => true
  | (pc, none) => match s.check ⟨t.ctx, t.coreOf f.fid, t.uid⟩ .exec pc.toNat with
    | .ok _ => !f.masked (hdrMask (s.loadWord t.ctx pc.toNat))
    | .error _ => true

/-- A fibre is ready when it issues, or has a path whose next clause's wait mask is met (R40). -/
def State.ready (s : State) (t : Team) (f : Fibre) : Bool :=
  match f.issue with
  | some i => !i.ended && f.pageWait.isNone && !f.atWait f.bundle
  | none => f.paths.any (s.pathReady t f)

/-- Next fibre of the slot after a position, round robin, among those that satisfy a test (R40). -/
def nextInSlot (sl : Slot) (fid : Nat) (ready : Nat → Bool) : Option Nat :=
  ((List.range sl.count).map fun k => sl.first + (fid - sl.first + 1 + k) % sl.count).find? fun g => g != fid && ready g

def State.setHolder (s : State) (uid slot fid : Nat) : State :=
  s.modTeam uid fun t => { t with slots := t.slots.modify slot fun sl => { sl with holder := fid } }

def State.nextReady (s : State) (t : Team) (f : Fibre) : Option Nat :=
  nextInSlot (t.slotOf f) f.fid fun g => match t.fibre? g with | some f => s.ready t f | none => false

/-- The slot passes to the next ready fibre; without one the fibre keeps it (R40). -/
def State.passSlot (s : State) (r : FibreRef) : State :=
  match s.team? r.team, s.fibre? r with
  | some t, some f => match s.nextReady t f with
    | some g => s.setHolder r.team f.slot g
    | none => s
  | _, _ => s

/-- A stall: the slot passes when the Y bit is set (R40, R89). -/
def State.stalled (s : State) (r : FibreRef) (y : Bool) : State := if y then s.passSlot r else s

def Thread.isStopped (t : Thread) : Bool := match t.st with | .parked _ _ _ => true | .blocked _ _ _ => true | _ => false

/-- An instruction has parked or blocked threads: the slot passes at once when its Y bit is set (R41 item 5). -/
def State.passStopped (s : State) (r : FibreRef) (lanes : List Nat) (y : Bool) : State :=
  match s.fibre? r with
  | some f => if lanes.any fun l => (f.thread l).isStopped then (s.modFibre r fun f => { f with stopY := y }).stalled r y else s
  | none => s

/-- A slot issues now (R41 item 2). -/
def Team.stamp (t : Team) (slot tick : Nat) : Team := { t with slots := t.slots.modify slot fun sl => { sl with last := tick + 1 } }

/-! ## Transfer targets (R74) -/

/-- A target is a multiple of 8 inside the code region of the launch. -/
def targetOk (lr : LaunchRec) (x : Word) : Bool :=
  x.toNat % 8 == 0 && lr.code.toNat ≤ x.toNat && x.toNat < lr.code.toNat + lr.codeSz

/-! ## Taking an exception (R329 to R333) -/

/-- Word 0 of the fault record (R331). -/
def Flt.word0 (e : Flt) : Word := BitVec.ofNat 64 (e.code * 2 ^ 56 + e.src * 2 ^ 52 + e.detail % 2 ^ 16 * 2 ^ 32 + e.info % 2 ^ 32)

/-- The pending fault that a fault reports. -/
def Pending.isFault (p : Pending) (e : Flt) : Bool := p.code == e.code && p.detail == e.detail && p.info == e.info && p.lanes == e.lanes

/-- A stop lands every window (R88), so a fault that waited for a wait point is then taken at the next issue. -/
def Pending.settle (p : Pending) : Pending := match p.due with | .op _ => { p with due := .any } | _ => p

/-- A thread of the bundle waits at the next unissued instruction. -/
def Thread.unissue (i : Issue) (t : Thread) : Thread := if t.st == .issuing then t.standAt i.addr (some i.hdr) else t

/-- TAKING AN EXCEPTION. The fibre stops: held writes land (R88), the whole fault record is written (R330), and $tpc receives the stop
point. Unless $tvec fails R74 or the fibre is already in its handler, which terminate the context (R332), the threads of the
stopped bundle form the handler path at $tvec, $tmask is their mask, and the rest of the fibre freezes (R333). `hdr` is the clause
of the stop. Other threads of an issuing bundle, if any, wait at the next unissued instruction. -/
def State.trap (s : State) (r : FibreRef) (lanes : List Nat) (hdr tpc : Word) (e : Flt) : State :=
  match s.team? r.team, s.fibre? r with
  | some t, some f =>
    let lr := s.recOf t
    let cause := if f.handler.isSome then some 2 else if !targetOk lr f.tvec then some 1 else none
    if cause.isSome && !s.canPost then s
    else
      let s1 := (s.landWindows r).modFibre r fun f =>
        { f with
          frec := ⟨e.word0, e.addr, e.lanes, s.time⟩
          tpc := tpc
          pending := (f.pending.filter fun p => !p.isFault e).map Pending.settle
          issue := none
          threads := match f.issue with
            | some i => f.threads.map (Thread.unissue i)
            | none => f.threads }
      match cause with
      | some c => s1.terminate t.ctx c e.code e.info
      | none => s1.modFibre r fun f =>
        { f with
          tmask := maskOf lanes
          fetched := false
          handler := some ⟨hdr, maskOf lanes⟩
          threads := f.threads.zipIdx.map fun (t, i) =>
            if lanes.contains i then t.standAt f.tvec none else t }
  | _, _ => s

/-! ## Page requests (R347, R348) -/

/-- A page request record to the driver, unless one for the page is outstanding on the die; it waits while it cannot be held (R369). -/
def State.requestPage (s : State) (ctx va die kind level : Nat) : State :=
  let q : PageReq := ⟨ctx, va / 4096, die⟩
  if s.pageReqs.contains q then s
  else { s with pageReqs := s.pageReqs ++ [q] }.pageEvent
    [s.time, BitVec.ofNat 64 (ctx % 64 * 2 ^ 58 + kind * 2 ^ 56 + va / 4096 * 4096 % 2 ^ 56 + level * 2 + die)]

/-- The fibre freezes at the stop without a handler and without a record, attached to the requests for these addresses (R347). -/
def State.pageStop (s : State) (r : FibreRef) (lanes : List Nat) (pc : Word) (clause : Option Word) (vas : List Nat) (e : Flt) : State :=
  (s.landWindows r).modFibre r fun f =>
    { f with
      tpc := pc
      issue := none
      pageWait := some ⟨vas.map (BitVec.ofNat 64 ·), maskOf lanes, e⟩
      threads := f.threads.zipIdx.map fun (t, i) => if lanes.contains i then t.standAt pc clause
        else match f.issue with | some is => t.unissue is | none => t }

/-! ## What an issuing instruction sees -/

/-- Everything an instruction's meaning reads: the state (with the walkers it reads advanced), its fibre (`f0` before that), and the
active lanes. -/
structure Ctx where
  s : State
  r : FibreRef
  t : Team
  f : Fibre
  lr : LaunchRec
  is : Issue
  act : List Nat
  live : List Nat
  bundle : List Nat
  f0 : Fibre
  wv : List (Nat × List (Nat × Word))

/-- Why an instruction does not complete. -/
inductive Exc where
  | fault (e : Flt)
  | stall
  | hold (g : Fibre → Fibre)     -- a stall that is recorded in the fibre
  | park (k : ParkKind)
  | pages (va : List (Nat × Nat)) (kind : Nat) (e : Flt)      -- with the fault that a reply "fail" raises
  | remote (ranges : List (Nat × Nat)) (lanes : List (Nat × Nat))      -- remote reads, with lanes that report a failure

/-- A stall that is the wait point of every window of the bundle (R134, R145). -/
def Fibre.drain (f : Fibre) : Fibre :=
  match f.issue with
  | some i => { f with ops := f.ops.map (Op.closeAt (maskOf f.bundle) i.idx) }
  | none => f

def Exc.drain : Exc := .hold Fibre.drain

/-- Whether the bundle goes on to the next instruction, or the meaning has placed its threads, and then whether it may have parked or
blocked some of them. -/
inductive Flow where
  | advance
  | placed
  | stopped
deriving DecidableEq, Repr

abbrev Act := Except Exc (State × Flow)

def Ctx.core (c : Ctx) : Nat := c.t.coreOf c.r.fid
def Ctx.who (c : Ctx) : Who := ⟨c.t.ctx, c.core, c.t.uid⟩
def Ctx.w (c : Ctx) : Nat := c.f.width
def Ctx.amask (c : Ctx) : Word := maskOf c.bundle
def Ctx.reg (c : Ctx) (n : Nat) : VReg := c.t.reg c.f n
def Ctx.row (c : Ctx) (n lane : Nat) : Row := (c.reg n).row lane
/-- The lowest active thread. -/
def Ctx.low (c : Ctx) : Nat := c.act.headD 0
/-- A write is full when every live thread is active (R32). -/
def Ctx.full (c : Ctx) : Bool := c.live.all c.act.contains

/-- A fault that does not depend on lanes: LANES is the bundle's $amask (R331). -/
def Ctx.fault (c : Ctx) {α : Type} (code src detail info : Nat) : Except Exc α := .error (.fault ⟨code, src, detail, info, 0, c.amask⟩)
/-- The operand field of a word that begins at a bit, as SRC names it (R331), by the formats of R76 to R84. -/
def fieldOf (w : Word) (bit : Nat) : Nat :=
  let m := w.toNat / 2 ^ 56
  if m == 0x89 || m == 0x8A || (0xA0 ≤ m && m ≤ 0xAA) then
    match bit with | 48 => 5 | 44 => 6 | 40 => 7 | 34 => 8 | _ => 0
  else if 0x70 ≤ m && m ≤ 0x73 then (if bit == 46 then 2 else 0)
  else match bit with | 46 => 1 | 40 => 2 | 34 => 3 | 28 => 4 | _ => 0

/-- Illegal instruction at the field whose least significant bit is `bit` (R328). -/
def Ctx.illegal (c : Ctx) {α : Type} (bit : Nat) : Except Exc α := c.fault 1 (fieldOf c.is.word bit) bit (c.is.word.toNat / 2 ^ 32)
def Ctx.faultLanes (_ : Ctx) {α : Type} (code src detail : Nat) (addr : Word) (lanes : List Nat) : Except Exc α :=
  .error (.fault ⟨code, src, detail, 0, addr, maskOf lanes⟩)

/-- Rows of active lanes written to a register, with the shape a full write takes; any other write is general (R32). -/
def Ctx.write (c : Ctx) (s : State) (n : Nat) (rows : List (Nat × Row)) (sh : Shape) : State :=
  if rows.isEmpty then s else s.putReg c.r n rows (if c.full then sh else .general)

/-! ## The shell -/

/-- Bits [4:0]: a thread is active when it is in the bundle and its guard is true (R9). -/
def guardTrue (g : Guard) (t : Thread) : Bool := t.pred g.pred != g.neg

/-- Walker position and address (R126). -/
def Walker.addr (w : Walker) : Word :=
  w.base + BitVec.ofInt 64 ((List.zipWith (· * ·) (w.idx.map (Int.ofNat ·))
    (List.zipWith (fun (x : BitVec 16) k => x.toInt * (2 ^ k : Nat)) w.strides w.shifts)).foldl (· + ·) 0)

/-- One step of the position: a carry out of the last dimension restarts the pattern (R126). -/
def advanceIdx : List Nat → List Nat → List Nat
  | e :: es, i :: is => if i + 1 < e then (i + 1) :: is else 0 :: advanceIdx es is
  | _, _ => []

/-- End predicates before the advance: dimension k ends when every dimension up to k is at its last index (R126). -/
def endEvents : Bool → List Nat → List Nat → List (Option (BitVec 3)) → List (BitVec 3 × Bool)
  | upTo, e :: es, i :: is, p :: ps =>
    let u := upTo && i + 1 == e
    match p with
    | some p => (p, u) :: endEvents u es is ps
    | none => endEvents u es is ps
  | _, _, _, _ => []

def Thread.walker (t : Thread) (k : Nat) : Option Walker := (t.walkers.getD k none)

/-- A thread's read of walker k: it advances and its end predicates are written (R126). -/
def Thread.walkStep (t : Thread) (k : Nat) : Thread :=
  match t.walker k with
  | none => t
  | some w =>
    let t := (endEvents true w.extents w.idx w.ends).foldl (fun (t : Thread) (p, v) => t.setPred p v) t
    { t with walkers := t.walkers.set k (some { w with idx := advanceIdx w.extents w.idx }) }

/-- Sign extension for I types, zero extension otherwise (R126, R154). -/
def extWord (t : ETy) (x : Nat) : Word := if t.isI then BitVec.ofInt 64 (sext t.bits x) else BitVec.ofNat 64 (x % 2 ^ t.bits)

/-- A lane's failed walker read: lane, field, address and failure. -/
abbrev WalkErr := Nat × Nat × Nat × LaneErr

/-- The lanes' failures of one instruction: the code of the lowest failing lane, its field and address, and the mask of every failing
lane (R149). A host-serviced page of the lowest failing lane asks the driver for every such page (R347). -/
def laneErrs (kind : Nat) (errs : List WalkErr) : Option Exc :=
  match errs with
  | [] => none
  | (_, src, a, e) :: _ =>
    let x : Flt := ⟨e.code, src, e.detail, 0, BitVec.ofNat 64 a, maskOf (errs.map (·.1))⟩
    if e.host.isSome then some (.pages (errs.filterMap fun (_, _, a, e) => e.host.map fun l => (a, l)) kind x) else some (.fault x)

/-- Failures in ascending lane order. -/
def insertLane (x : WalkErr) : List WalkErr → List WalkErr
  | [] => [x]
  | y :: ys => if x.1 < y.1 then x :: y :: ys else if x.1 == y.1 then y :: ys else y :: insertLane x ys
def sortLanes (l : List WalkErr) : List WalkErr := l.foldl (fun a x => insertLane x a) []

/-- A value-mode walker read of one lane: the element, or a failed check (R126). A remote element needs the fabric. -/
def walkerLoad (s : State) (who : Who) (w : Walker) (answers : List (Nat × Byte × Bool)) : Except LaneErr (Option Word) :=
  let n := w.vtype.bits / 8
  match s.checkAligned who .read w.addr.toNat n with
  | .error e => .error e
  | .ok pa =>
    match s.place pa with
    | .far pa =>
      let bs := (List.range n).map fun k => answers.find? (·.1 == pa + k)
      if bs.all Option.isSome then .ok (some (extWord w.vtype (leNat (bs.map fun b => (b.map (·.2.1)).getD 0)))) else .ok none
    | p => .ok (some (extWord w.vtype (leNat (s.readPlace p n).1)))

/-- Whether the value that a walker read returns is poisoned. -/
def walkerPois (s : State) (who : Who) (w : Walker) (answers : List (Nat × Byte × Bool)) : Bool :=
  match s.check who .read w.addr.toNat with
  | .ok pa => match s.place pa with
    | .far pa => (List.range (w.vtype.bits / 8)).any fun k => answers.any fun x => x.1 == pa + k && x.2.2
    | p => (s.readPlace p (w.vtype.bits / 8)).2
  | .error _ => false

/-- A scoreboarded register, a shared row, or a wait point holds the instruction back (R89); while an operation without a wait point
holds predicate writes, every instruction waits for them. -/
def Fibre.interlocked (t : Team) (f : Fibre) (regs : List Nat) : Bool :=
  f.atWait f.bundle || f.ops.any (fun o => !o.isWindow && !o.preds.isEmpty) || regs.any f.heldRegs.contains || t.sharedHeld f regs

def Thread.endClause (i : Issue) (t : Thread) : Thread := if t.st == .issuing then t.goAfter i else t

/-- Threads of the bundle have left the clause and stand at the wait point at its end (R86). -/
def Fibre.endOpen (f : Fibre) (i : Issue) : Bool :=
  f.ops.any fun o => (f.waiters o).any fun l => i.mask.getLsbD l && (f.thread l).clause.isNone

/-- The clause's service ends; threads at the wait point at its end pass it first. -/
def Fibre.leave (f : Fibre) : Fibre :=
  match f.issue with
  | none => f
  | some i =>
    if i.ended then f
    else if f.endOpen i then { f with issue := some { i with idx := i.idx + 1, ended := true } }
    else { f with issue := none }

/-- The fibre leaves the wait point at the end of its clause when no thread stands there. -/
def Fibre.closeOver (f : Fibre) : Fibre :=
  match f.issue with
  | some i => if i.ended && !f.endOpen i then { f with issue := none } else f
  | none => f

/-- The bundle passes to the next instruction, or ends its clause: its threads stand at the next header (R67, R86). -/
def Fibre.advance (f : Fibre) : Fibre :=
  match f.issue with
  | none => f
  | some i =>
    if i.isLast then { f with threads := f.threads.map (Thread.endClause i) }.leave
    else { f with issue := some { i with idx := i.idx + 1 } }

/-- Every thread of the bundle that a meaning left issuing continues after the instruction. -/
def Fibre.placeRest (f : Fibre) : Fibre :=
  match f.issue with
  | none => f
  | some i => { f with threads := f.threads.map (Thread.endClause i) }

/-- A fault cannot stop the fibre before the writes it holds in windows can land (R88). -/
def Fibre.mustWait (f : Fibre) : Bool := f.ops.any fun o => o.isWindow && !o.known

/-- What becomes of an instruction that did not complete. -/
def State.except (s : State) (r : FibreRef) (f : Fibre) (is : Issue) (act : List Nat) (i : Instr) (y : Bool) (e : Exc) : State :=
  let die := match s.team? r.team with | some t => t.coreOf r.fid / 64 | none => 0
  let ctx := match s.team? r.team with | some t => t.ctx | none => 0
  match e with
  | .stall => s.stalled r y
  | .hold g => (s.modFibre r g).stalled r y
  | .remote ranges lanes =>
    let (id, s') := s.addOp r [] (.access i [] []) 15 [] [] []
    (s'.readRemoteBy ctx (match s.team? r.team with | some t => t.coreOf r.fid | none => 0) r id ranges lanes |>.map (·.stalled r y)).getD s
  | .fault e =>
    if f.mustWait then s
    else
      let tpc := if e.code == 0x10 || e.code == 0x11 then is.after.1 else is.addr
      s.trap r f.bundle is.hdr tpc e
  | .park k =>
    (s.modFibre r fun f => { ((f.modThreads act fun t => { t.stopAt is (.parked k i s.time) with prevY := y }).placeRest).leave with
      stopY := y }).stalled r y
  | .pages vas kind e =>
    if f.mustWait then s
    else
      let s := vas.foldl (fun (s : State) (va, lvl) => s.requestPage ctx va die kind lvl) s
      s.pageStop r f.bundle is.addr (some is.hdr) (vas.map (·.1)) e

/-- The kind of a page request for a value-mode walker read. -/
def kindRead : Nat := 0
def kindWrite : Nat := 1
def kindFetch : Nat := 2

/-- The field of an operand code, as SRC names it (R331): a walker stands in a, b or c of format V, or a or b of format M. -/
def codeField (bit : Nat) : Nat := match bit with | 40 => 2 | 34 => 3 | 28 => 4 | _ => 0

/-- The elements that walkers named by an instruction deliver to the active lanes, w0 to w6 (R23, R126). `codes` holds (bit, code) of
each source field. The second part lists remote addresses whose bytes are missing. -/
def readWalkers (s : State) (who : Who) (f : Fibre) (act : List Nat) (codes : List (Nat × Nat)) (answers : List (Nat × Byte × Bool)) :
    Except (Nat ⊕ Exc) (List (Nat × List (Nat × Word)) × Bool) :=
  let ks := (List.range 7).filter fun k => codes.any (·.2 == 56 + k)
  let src (k : Nat) : Nat := ((codes.find? fun x => x.2 == 56 + k).map fun x => codeField x.1).getD 0
  match codes.find? fun (_, cd) => 56 ≤ cd && cd < 63 && act.any fun l => ((f.thread l).walker (cd - 56)).isNone with
  | some (b, _) => .error (.inl b)
  | none =>
    let rd := ks.flatMap fun k => act.filterMap fun l => ((f.thread l).walker k).map fun w => (k, l, w)
    let errs := rd.filterMap fun (k, l, w) =>
      if w.valMode then (match walkerLoad s who w answers with | .error e => some (l, src k, w.addr.toNat, e) | .ok _ => none) else none
    let pois := rd.filterMap fun (k, l, w) => if w.valMode && walkerPois s who w answers then some (l, src k, w.addr.toNat, lerr 9 0) else none
    match laneErrs kindRead (sortLanes errs) with
    | some e => .error (.inr e)
    | none =>
      match laneErrs kindRead (sortLanes pois) with
      | some e => .error (.inr e)
      | none =>
        let vals := rd.map fun (k, l, w) =>
          (k, l, if w.valMode then (match walkerLoad s who w answers with | .ok v => v | .error _ => none) else some w.addr)
        .ok (ks.map fun k => (k, vals.filterMap fun (k', l, v) => if k' == k then some (l, v.getD 0) else none),
          vals.any fun (_, _, v) => v.isNone)

/-- The places that value-mode reads of the active lanes name, with their bytes. -/
def walkerPlaces (s : State) (who : Who) (f : Fibre) (act : List Nat) (codes : List (Nat × Nat)) : List (Place × Nat) :=
  codes.flatMap fun (_, cd) => if 56 ≤ cd && cd < 63 then act.filterMap fun l =>
    match (f.thread l).walker (cd - 56) with
    | some w => if w.valMode then (match s.check who .read w.addr.toNat with
      | .ok pa => some (s.place pa, w.vtype.bits / 8)
      | .error _ => none) else none
    | none => none
  else []

/-- Engine-owned granules that they touch (R153, R291). -/
def walkerOwned (s : State) (who : Who) (f : Fibre) (act : List Nat) (codes : List (Nat × Nat)) : List Nat :=
  ((walkerPlaces s who f act codes).flatMap fun (p, n) => p.granules n).filter s.engineOwned

/-- The remote ranges among them. -/
def walkerRanges (s : State) (who : Who) (f : Fibre) (act : List Nat) (codes : List (Nat × Nat)) : List (Nat × Nat) :=
  (walkerPlaces s who f act codes).filterMap fun (p, n) => match p with | .far pa => some (pa, n) | _ => none

/-! ## Order at domain scope (R165, R296) -/

def Instr.memF? (i : Instr) : Option MF :=
  match i with
  | .ld _ f | .ld2 _ f | .ldn f | .st _ f | .st2 _ f | .stn f | .atom _ f | .red _ f => some f
  | _ => none

/-- An access before which no later access of the fibre may be performed: an acquire at domain scope or a tile load from another
package (R165), and an access that a granule of another core holds (R288, R291). -/
def Op.acquires (o : Op) : Bool :=
  !o.done && (match o.kind with
    | .access (.ldt _ _) _ _ => true
    | .access i (_ :: _) _ => (match Instr.memF? i with | some f => f.scope && f.order.getLsbD 0 | none => false)
    | .held _ _ _ => true
    | _ => false)

def Fibre.acquiring (f : Fibre) : Bool := f.ops.any Op.acquires

def overlaps (a n b m : Nat) : Bool := a < b + m && b < a + n

/-- Accesses of one thread to one remote location are performed in program order (R296): a request of the fibre to the same bytes is
outstanding, and one of the two reads. Writes keep their order by number (R387). -/
def State.collides (s : State) (r : FibreRef) (reads : Bool) (pa n : Nat) : Bool :=
  s.fab.reqs.any fun q => (match q.fibre with | some (r', _) => r' == r | none => false) && (reads || q.kind == .read) &&
    overlaps pa n q.addr q.len

/-- The operation by which a stalled instruction reads remote walker elements (R89, R126). -/
def OpKind.isWalkerRead (k : OpKind) (i : Instr) : Bool := match k with | .access j [] _ => j == i | _ => false
def OpKind.answers (k : OpKind) : List (Nat × Byte × Bool) := match k with | .access _ _ a => a | _ => []
/-- The bytes that such operations have brought. -/
def Fibre.walkerBytes (f : Fibre) (i : Instr) : List (Nat × Byte × Bool) :=
  (f.ops.filter fun o => o.kind.isWalkerRead i).flatMap fun o => o.kind.answers

/-- A pending fault is taken before an instruction or header that these threads issue (R173): at the wait point of a windowed
operation, and a failed first read of `wait` at the `wait` (R161). -/
def Pending.atIssue (f : Fibre) (lanes : List Nat) (p : Pending) : Bool :=
  match p.due with
  | .any => true
  | .op id => f.ops.all fun (o : Op) => o.id != id || !o.isWindow || (f.waiters o).any lanes.contains
  | .wait pc _ => (match f.issue with | some i => i.addr == pc | none => false) && (lanesOf p.lanes 64).all lanes.contains
  | _ => false

/-- The threads that a pending fault stops: those whose first read by `wait` failed, or the whole bundle. -/
def Pending.stops (p : Pending) (lanes : List Nat) : List Nat :=
  match p.due with
  | .wait _ _ => lanesOf p.lanes 64
  | _ => lanes

/-- A pending fault is taken at a header with a wait mask (R173, R403). -/
def Pending.atHeader (f : Fibre) (lanes : List Nat) (mask : Nat) (p : Pending) : Bool :=
  p.atIssue f lanes || (match p.due with | .clause => true | .mask b => mask / 2 ^ b % 2 == 1 | _ => false)

/-- A local load has its place once a later instruction of the fibre issues (R288). -/
def Op.fix (o : Op) : Op := match o.kind with | .read _ _ => { o with kind := .load } | _ => o

/-- How an instruction names its operands, for the interlocks, the register window and the walkers: (field bit, register) for vector
registers, (field bit, code) for fields that may name a walker, and whether it is a barrier arrival or must find every write of the
fibre landed. -/
structure Names where
  regs : List (Nat × Nat)
  codes : List (Nat × Nat)
  g : Guard

/-- ISSUE. An instruction of the current bundle: a pending fabric fault comes first (R173), then the interlocks (R89), the encoding
and the register window (R17, R75), the walkers (R126), and the meaning; after it the bundle advances. -/
def issue (i : Instr) (n : Names) (s0 : State) (k : Ctx → Act) : Host.Outcome State Fault Refusal :=
  match s0.cur with
  | none => .fault .noBundle
  | some r =>
    match s0.team? r.team with
    | none => .fault .noBundle
    | some t =>
    match t.fibre? r.fid with
    | none => .fault .noBundle
    | some f =>
    match f.issue with
    | none => .fault .noBundle
    | some is =>
      if is.ended || f.pageWait.isSome then .fault .noBundle
      else
        let s := s0.setHolder r.team f.slot r.fid
        match f.pending.find? (Pending.atIssue f f.bundle) with
        | some p =>
          if f.mustWait then .next s
          else .next (s.trap r (p.stops f.bundle) is.hdr is.addr ⟨p.code, 0, p.detail, p.info, 0, p.lanes⟩)
        | none => issue.go i n s r t f is k
where
  go (i : Instr) (n : Names) (s : State) (r : FibreRef) (t : Team) (f : Fibre) (is : Issue) (k : Ctx → Act) :
      Host.Outcome State Fault Refusal :=
    if f.interlocked t (n.regs.map (·.2)) then .next (s.stalled r n.g.y)
    else
      let act := f.bundle.filter fun l => guardTrue n.g (f.thread l)
      let die (e : Exc) : Host.Outcome State Fault Refusal := .next (s.except r f is act i n.g.y e)
      let bad (b : Nat) : Host.Outcome State Fault Refusal := die (.fault ⟨1, fieldOf is.word b, b, is.word.toNat / 2 ^ 32, 0, maskOf f.bundle⟩)
      let off := (n.regs.filter fun (_, x) => t.nregs f ≤ x).map (·.1)
      match i.firstBad with
      | some b => bad (off.foldl max b)
      | none =>
        match off with
        | b :: bs => bad (bs.foldl max b)
        | [] =>
          let who : Who := ⟨t.ctx, t.coreOf r.fid, t.uid⟩
          match readWalkers s who f act n.codes (f.walkerBytes i) with
          | .error (.inl b) => bad b
          | .error (.inr e) => die e
          | .ok (wv, missing) =>
            let owned := walkerOwned s who f act n.codes
            if f.acquiring && !(walkerPlaces s who f act n.codes).isEmpty then die .stall
            else if missing then
              if (f.ops.any fun o => o.kind.isWalkerRead i) || (walkerRanges s who f act n.codes).any fun (a, k) => s.collides r true a k
              then die .stall else die (.remote (walkerRanges s who f act n.codes) [])
            else if !owned.isEmpty then
              die (if owned.any fun g => g / 384 == who.core then .park (.granule (owned.filter fun g => g / 384 == who.core)) else .stall)
            else
              let ks := wv.map (·.1)
              let f1 : Fibre := { f with
                ops := (f.ops.filter fun o => !o.kind.isWalkerRead i).map Op.fix
                threads := if ks.isEmpty then f.threads else f.threads.zipIdx.map fun (t, l) =>
                  if act.contains l then ks.foldl (fun (t : Thread) k => t.walkStep k) t else t }
              let t1 := (t.stamp f.slot s.tick).modFibre r.fid fun _ => f1
              let s1 := s.modTeam r.team fun t => (t.stamp f.slot s.tick).modFibre r.fid fun _ => f1
              match k ⟨s1, r, t1, f1, s.recOf t, is, act, f.live, f.bundle, f, wv⟩ with
              | .ok (s', .advance) => .next (s'.modFibre r Fibre.advance)
              | .ok (s', .placed) => .next (s'.modFibre r Fibre.leave)
              | .ok (s', .stopped) => .next ((s'.modFibre r Fibre.leave).passStopped r act n.g.y)
              | .error e => die e

/-- A word that is no instruction raises illegal instruction at its first offending field (R75). -/
def illegalWord (s : State) (r : FibreRef) (bit : Nat) : State :=
  match s.team? r.team, s.fibre? r with
  | some t, some f =>
    match f.issue with
    | some is =>
        if f.interlocked t [] then s.stalled r (wordY is.word)
      else s.except r f is [] (.nop ⟨0, 0, 0, ⟨false, false, 7⟩⟩) (wordY is.word)
        (.fault ⟨1, fieldOf is.word bit, bit, is.word.toNat / 2 ^ 32, 0, maskOf f.bundle⟩)
    | none => s
  | _, _ => s

end Sys2Proof.Machine
end

