-- ==== Sys2Proof/Machine/Flags.lean ====
section
/-! DEFINITION. Integer arithmetic of one element with its flag, and the write-one-to-clear rule of $flags (R28, R52, R53). The
floating-point flags of R65 are computed with the rounding they belong to, in Num. -/

namespace Sys2Proof.Machine

/-- Quotient, truncated, and DZ in the exceptional cases (R52, R53). -/
def divElem (t : ETy) (x y : Nat) : Nat × Fl :=
  let a := intOf t x
  let b := intOf t y
  if b == 0 then (2 ^ t.bits - 1, flDZ)
  else if t.isI && a == intMin t && b == -1 then (wrap t.bits (intMin t), flDZ)
  else (wrap t.bits (Int.tdiv a b), 0)

/-- Remainder with the sign of the dividend, and DZ in the exceptional cases (R52, R53). -/
def remElem (t : ETy) (x y : Nat) : Nat × Fl :=
  let a := intOf t x
  let b := intOf t y
  if b == 0 then (x % 2 ^ t.bits, flDZ)
  else if t.isI && a == intMin t && b == -1 then (0, flDZ)
  else (wrap t.bits (Int.tmod a b), 0)

/-- A write to $flags clears the bits written as 1; bits [63:6] are reserved and read zero (R7, R28). -/
def w1c (old v : Word) : Word := old &&& ~~~v &&& 0x3F

/-- Flags of a list of element results, ORed (R50). -/
def orAll (l : List (Nat × Fl)) : Fl := l.foldl (fun a x => a ||| x.2) 0

end Sys2Proof.Machine
end

