-- ==== Sys2Proof/Machine/Operands.lean ====
section
/-! DEFINITION. Operand forms: register codes, walkers and kc (R21 to R24), permute patterns (R78), source modifiers (R77), format
tag and poison checks (R36, R48), the shapes of results (R32), and what each format names. -/

namespace Sys2Proof.Machine

/-! ## What an instruction names -/

def regName (bit : Nat) (c : BitVec 6) : List (Nat × Nat) := if c.toNat < 56 then [(bit, c.toNat)] else []

/-- Format V: whether d is a register, and how many of a, b, c are source operands. -/
def vNames (f : VF) (d : Bool) (n : Nat) : Names :=
  { regs := (if d then regName 46 f.d else []) ++ (if 1 ≤ n then regName 40 f.a else []) ++
      (if 2 ≤ n then regName 34 f.b else []) ++ (if 3 ≤ n then regName 28 f.c else [])
    codes := ([(40, f.a.toNat), (34, f.b.toNat), (28, f.c.toNat)] : List (Nat × Nat)).take n
    g := f.g }

def iNames (f : IF) (d a : Bool) : Names :=
  ⟨(if d then regName 46 f.d else []) ++ (if a then regName 40 f.a else []), if a then [(40, f.a.toNat)] else [], f.g⟩

/-- Format S: whether d and a are registers; neither may be a walker or kc. -/
def sNames (f : SF) (d a : Bool) : Names := ⟨(if d then regName 46 f.d else []) ++ (if a then regName 40 f.a else []), [], f.g⟩

/-- Format B: a is a register when the form uses it. -/
def bNames (f : BF) (a : Bool) : Names := ⟨if a then regName 46 f.a else [], [], f.g⟩

/-! ## Sources -/

/-- A source operand: its rows by lane after permutation and modifiers, its shape, and its SRC code (R331). -/
structure Src where
  rows : List Row
  shape : Shape
  fld : Nat

def Src.row (x : Src) (l : Nat) : Row := x.rows.getD l .zero
def Src.val (x : Src) (l : Nat) : Word := (x.row l).val

/-- The lane that active thread i reads (R78). -/
def permLane (k : BitVec 3) (p n i : Nat) : Nat :=
  match k.toNat with
  | 1 => (i + n - p % n) % n
  | 2 => (i + p) % n
  | 3 => p
  | 4 => Nat.xor i p
  | 5 => n - 1 - i
  | 6 => 4 * (i / 4) + p % 4
  | _ => i

/-- The shape of a source after its permutation (R32). -/
def permShape (k : BitVec 3) (s : Shape) : Shape :=
  if k == 0 then s
  else if k == 3 then .uniform
  else if s == .uniform then .uniform else .general

/-- Limits on p that depend on the fibre width: p < n for `.bcN` and `.xorN` (R78). -/
def permWidthOk (f : VF) (n : Nat) : Bool :=
  !((f.permA == 3 || f.permA == 4 || f.permB == 3 || f.permB == 4) && n ≤ f.p.toNat)

/-- The clause constant, sign-extended (R24). -/
def Ctx.kc (c : Ctx) : Word := c.is.kc.signExtend 64

/-- The operand that a code names, with a permutation (R21 to R24, R78). -/
def Ctx.src (c : Ctx) (fld : Nat) (code : BitVec 6) (perm : BitVec 3) (p : Nat) : Src :=
  let n := code.toNat
  if n == 63 then ⟨List.replicate c.w ⟨c.kc, .raw, false⟩, .uniform, fld⟩
  else if 56 ≤ n then
    let vals := ((c.wv.find? (·.1 == n - 56)).map (·.2)).getD []
    ⟨(List.range c.w).map fun l => ⟨((vals.find? (·.1 == l)).map (·.2)).getD 0, .raw, false⟩, .general, fld⟩
  else
    let v := c.reg n
    if perm == 0 then ⟨v.rows, v.shape, fld⟩
    else ⟨(List.range c.w).map fun l => v.row (permLane perm p c.w l), permShape perm v.shape, fld⟩

/-! ## Modifiers (R77) -/

/-- One element under abs, then negate. -/
def modElem (t : ETy) (neg abs : Bool) (x : Nat) : Nat :=
  let n := t.bits
  if t.isFloat then
    let m := x % 2 ^ (n - 1)
    let sgn := x / 2 ^ (n - 1) % 2 == 1
    let sgn := (if abs then false else sgn) != neg
    if sgn then m + 2 ^ (n - 1) else m
  else
    let a : Int := if abs then (let v := sext n x; if v < 0 then -v else v) else x
    wrap n (if neg then -a else a)

def modWord (t : ETy) (neg abs : Bool) (w : Word) : Word :=
  if !neg && !abs then w
  else if t.isB then ~~~w
  else pack t.bits ((elems t.bits w).map (modElem t neg abs))

/-- The shape after modifiers (R32): negate of `.i64` negates an affine source. -/
def modShape (t : ETy) (neg abs : Bool) (s : Shape) : Shape :=
  if !neg && !abs then s
  else match s with
    | .uniform => .uniform
    | .affine b st => if neg && !abs && t == .i64 then .affine (-b) (-st) else .general
    | .general => .general

def Src.mod (x : Src) (t : ETy) (neg abs : Bool) : Src :=
  if !neg && !abs then x
  else ⟨x.rows.map fun r => { r with val := modWord t neg abs r.val }, modShape t neg abs x.shape, x.fld⟩

/-- The sources a, b, c of format V, with permutation and then modifiers of the type given. -/
def Ctx.srcA (c : Ctx) (f : VF) (t : ETy) : Src := (c.src 2 f.a f.permA f.p.toNat).mod t (f.mods.getLsbD 5) (f.mods.getLsbD 4)
def Ctx.srcB (c : Ctx) (f : VF) (t : ETy) : Src := (c.src 3 f.b f.permB f.p.toNat).mod t (f.mods.getLsbD 3) (f.mods.getLsbD 2)
def Ctx.srcC (c : Ctx) (f : VF) (t : ETy) : Src := (c.src 4 f.c 0 0).mod t (f.mods.getLsbD 1) (f.mods.getLsbD 0)

/-- A register read without permutation or modifiers, as memory and rendering instructions read. -/
def Ctx.plain (c : Ctx) (fld : Nat) (n : Nat) : Src := let v := c.reg n; ⟨v.rows, v.shape, fld⟩

/-! ## Checks on source rows (R36, R48) -/

/-- What a lane's row fails: poison first, then the tag. -/
def rowErr (x : Src) (want : Option Tag) (l : Nat) : Option (Nat × Nat × Nat × Nat) :=
  let r := x.row l
  match want with
  | none => none
  | some t => if r.tag == .raw || r.tag == t then none else some (4, x.fld, r.tag.code.toNat, t.code.toNat)

def poisErr (x : Src) (l : Nat) : Option (Nat × Nat × Nat × Nat) := if (x.row l).poison then some (9, x.fld, 0, 0) else none

/-- A lane's first failure over all operands: poison of any row before a tag that breaks R36. -/
def laneRowErr (xs : List (Src × Option Tag)) (l : Nat) : Option (Nat × Nat × Nat × Nat) :=
  match xs.findSome? fun (x, _) => poisErr x l with
  | some e => some e
  | none => xs.findSome? fun (x, t) => rowErr x t l

/-- The checks of every active lane on the rows it reads: the lowest failing lane gives the code, LANES names every failing lane. -/
def Ctx.checkRows (c : Ctx) (xs : List (Src × Option Tag)) : Except Exc Unit :=
  let bad := c.act.filterMap fun l => (laneRowErr xs l).map fun e => (l, e)
  match bad with
  | [] => .ok ()
  | (_, code, fld, d, i) :: _ => .error (.fault ⟨code, fld, d, i, 0, maskOf (bad.map (·.1))⟩)

/-! ## Shapes of results (R32) -/

/-- Which row of the table of R32 an instruction has beside the all-uniform one. -/
inductive ShapeRule where
  | plain | copy | add | sub | mul
deriving DecidableEq, Repr

/-- The shape of a full write. `u` is the value of a uniform source. -/
def resShape (rule : ShapeRule) (xs : List Src) (u : Src → Word) : Shape :=
  if xs.all fun x => x.shape == .uniform then .uniform
  else match rule, xs with
    | .copy, [x] => x.shape
    | .add, [x, y] => match x.shape, y.shape with
      | .affine b s, .uniform => .affine (b + u y) s
      | .uniform, .affine b s => .affine (b + u x) s
      | _, _ => .general
    | .sub, [x, y] => match x.shape, y.shape with
      | .affine b s, .uniform => .affine (b - u y) s
      | .uniform, .affine b s => .affine (u x - b) (-s)
      | _, _ => .general
    | .mul, [x, y] => match x.shape, y.shape with
      | .affine b s, .uniform => .affine (b * u y) (s * u y)
      | .uniform, .affine b s => .affine (b * u x) (s * u x)
      | _, _ => .general
    | _, _ => .general

def Ctx.shapeOf (c : Ctx) (rule : ShapeRule) (xs : List Src) : Shape := resShape rule xs fun x => x.val c.low

/-! ## Results -/

/-- One value per active lane into a vector register, with its tag; flags, and the shape of a full write. -/
def Ctx.finish (c : Ctx) (d : BitVec 6) (tag : Tag) (sh : Shape) (op : Nat → Word × Fl) : Act :=
  let res := c.act.map fun l => (l, op l)
  let s1 := c.write c.s d.toNat (res.map fun (l, v, _) => (l, ⟨v, tag, false⟩)) sh
  let fl := res.filterMap fun (l, _, g) => if g == 0 then none else some (l, g)
  .ok (if fl.isEmpty then s1 else s1.orFlags c.r fl, .advance)

/-- The same for an instruction of long latency: its flags are raised at issue, and the row is held until it lands (R87, R99;
assumption 113). -/
def Ctx.finishLate (c : Ctx) (d : BitVec 6) (tag : Tag) (sh : Shape) (op : Nat → Word × Fl) : Act :=
  let res := c.act.map fun l => (l, op l)
  let fl := res.filterMap fun (l, _, g) => if g == 0 then none else some (l, g)
  let s1 := if fl.isEmpty then c.s else c.s.orFlags c.r fl
  if res.isEmpty then .ok (s1, .advance)
  else .ok ((s1.addOp c.r [] .alu 15 [⟨d.toNat, res.map fun (l, v, _) => (l, ⟨v, tag, false⟩), if c.full then sh else .general⟩] [] []).2,
    .advance)

/-- Where a result goes: `late` tells an instruction of long latency. -/
def Ctx.deliver (c : Ctx) (late : Bool) : BitVec 6 → Tag → Shape → (Nat → Word × Fl) → Act :=
  if late then c.finishLate else c.finish

/-- One predicate per active lane (R105, R111). -/
def Ctx.finishPred (c : Ctx) (p : BitVec 3) (op : Nat → Bool) : Act :=
  .ok (c.s.setPreds c.r p (c.act.map fun l => (l, op l)), .advance)

/-- Element-wise: the elements of one, two or three sources (R98). -/
def map1 (t : ETy) (g : Nat → Nat × Fl) (x : Word) : Word × Fl :=
  let r := (elems t.bits x).map g
  (pack t.bits (r.map (·.1)), orAll r)
def map2 (t : ETy) (g : Nat → Nat → Nat × Fl) (x y : Word) : Word × Fl :=
  let r := List.zipWith g (elems t.bits x) (elems t.bits y)
  (pack t.bits (r.map (·.1)), orAll r)
def map3 (t : ETy) (g : Nat → Nat → Nat → Nat × Fl) (x y z : Word) : Word × Fl :=
  let r := List.zipWith (fun h a => h a) (List.zipWith (fun a b => g a b) (elems t.bits x) (elems t.bits y)) (elems t.bits z)
  (pack t.bits (r.map (·.1)), orAll r)

end Sys2Proof.Machine
end

