-- ==== Sys2Proof/Machine/Integer.lean ====
section
/-! DEFINITION. Integer and logic instructions of format V (R101 to R107) and the immediate forms (R108). -/

namespace Sys2Proof.Machine

/-! ## Shared operations -/

/-- A two-source element-wise integer instruction (R98, R101). -/
def intBin (i : Instr) (late : Bool) (ty : ETy) (f : VF) (rule : ShapeRule) (op : Nat → Nat → Nat × Fl) (s : State) : Host.Outcome State Fault Refusal :=
  issue i (vNames f true 2) s fun c =>
    if !permWidthOk f c.w then c.illegal 10
    else do
      let a := c.srcA f ty
      let b := c.srcB f ty
      c.checkRows [(a, none), (b, none)]
      c.deliver late f.d .raw (c.shapeOf (if ty.bits == 64 then rule else .plain) [a, b]) fun l => map2 ty op (a.val l) (b.val l)

/-- A one-source element-wise integer instruction. -/
def intUn (i : Instr) (ty : ETy) (f : VF) (op : Nat → Nat) (s : State) : Host.Outcome State Fault Refusal :=
  issue i (vNames f true 1) s fun c =>
    if !permWidthOk f c.w then c.illegal 10
    else do
      let a := c.srcA f ty
      c.checkRows [(a, none)]
      c.finish f.d .raw (c.shapeOf .plain [a]) fun l => map1 ty (fun x => (op x, 0)) (a.val l)

/-- A three-source element-wise integer instruction. -/
def intTern (i : Instr) (ty : ETy) (f : VF) (op : Nat → Nat → Nat → Nat) (s : State) : Host.Outcome State Fault Refusal :=
  issue i (vNames f true 3) s fun c =>
    if !permWidthOk f c.w then c.illegal 10
    else do
      let a := c.srcA f ty
      let b := c.srcB f ty
      let e := c.srcC f ty
      c.checkRows [(a, none), (b, none), (e, none)]
      c.finish f.d .raw (c.shapeOf .plain [a, b, e]) fun l => map3 ty (fun x y z => (op x y z, 0)) (a.val l) (b.val l) (e.val l)

/-- A two-source instruction on whole rows. -/
def wordBin (i : Instr) (ty : ETy) (f : VF) (op : Word → Word → Word) (s : State) : Host.Outcome State Fault Refusal :=
  issue i (vNames f true 2) s fun c =>
    if !permWidthOk f c.w then c.illegal 10
    else do
      let a := c.srcA f ty
      let b := c.srcB f ty
      c.checkRows [(a, none), (b, none)]
      c.finish f.d .raw (c.shapeOf .plain [a, b]) fun l => (op (a.val l) (b.val l), 0)

/-- The conditions of R105 on integers. -/
def condInt (cond : Nat) (x y : Int) : Bool :=
  match cond with
  | 0 => x == y
  | 1 => x != y
  | 2 => x < y
  | 3 => x ≤ y
  | 4 => y < x
  | _ => y ≤ x

/-- An immediate instruction that reads a: element-wise with an integer operand, or on the whole word. -/
def immOp (i : Instr) (f : IF) (rule : ShapeRule) (imm : Word) (op : Word → Word) (s : State) : Host.Outcome State Fault Refusal :=
  issue i (iNames f true true) s fun c => do
    let a := c.src 2 f.a 0 0
    let k : Src := ⟨List.replicate c.w ⟨imm, .raw, false⟩, .uniform, 0⟩
    c.checkRows [(a, none)]
    c.finish f.d .raw (c.shapeOf rule [a, k]) fun l => (op (a.val l), 0)

/-- An immediate instruction that reads no register: uniform (R33). -/
def immMove (i : Instr) (f : IF) (v : Word) (s : State) : Host.Outcome State Fault Refusal :=
  issue i (iNames f true false) s fun c => c.finish f.d .raw .uniform fun _ => (v, 0)

/-! ## Element results -/

def shlElem (n x k : Nat) : Nat := if n ≤ k % 256 then 0 else x * 2 ^ (k % 256) % 2 ^ n
def shrElem (n x k : Nat) : Nat := if n ≤ k % 256 then 0 else x / 2 ^ (k % 256)
def sarElem (n x k : Nat) : Nat := wrap n (Int.fdiv (sext n x) ((2 ^ min n (k % 256) : Nat) : Int))
def rotElem (n x k : Nat) : Nat := let c := k % 256 % n; (x * 2 ^ c + x / 2 ^ (n - c)) % 2 ^ n

/-- Field extract (R104). -/
def bfxElem (t : ETy) (x b : Nat) : Nat :=
  let n := t.bits
  let pos := b % 256
  let len := min n (b / 256 % 256)
  let fld := x / 2 ^ pos % 2 ^ len
  if len == 0 then 0 else if t.isI then wrap n (sext len fld) else fld

/-- Field insert (R104): bits of the field at or above n are dropped. -/
def bfiElem (n x b z : Nat) : Nat :=
  let pos := b % 256
  let len := min n (b / 256 % 256)
  if n ≤ pos then z
  else
    let len := min len (n - pos)
    let low := z % 2 ^ pos
    let high := z / 2 ^ (pos + len) * 2 ^ (pos + len)
    high + x % 2 ^ len * 2 ^ pos + low

def popElem : Nat → Nat → Nat
  | 0, _ => 0
  | k + 1, x => x % 2 + popElem k (x / 2)

def clzElem (n x : Nat) : Nat := if x == 0 then n else n - 1 - x.log2

def revElem : Nat → Nat → Nat
  | 0, _ => 0
  | k + 1, x => x % 2 * 2 ^ k + revElem k (x / 2)

/-- High n bits of the product, signed for I and unsigned for N (R102). -/
def mulHi (t : ETy) (x y : Nat) : Nat := wrap t.bits (Int.fdiv (intOf t x * intOf t y) ((2 ^ t.bits : Nat) : Int))

/-- The wide product: the low half of the elements gives elements of twice the width (R102). -/
def mulWide (t : ETy) (x y : Word) : Word :=
  let n := t.bits
  pack (2 * n) ((List.range (t.count / 2)).map fun q => wrap (2 * n) (intOf t (elem n q x) * intOf t (elem n q y)))

/-- `subx` (R107). -/
def subxWord (t : ETy) (mode j : Nat) (a b : Word) : Word :=
  let n := t.bits
  match mode with
  | 0 => extWord t (elem n j a)
  | 1 => pack n ((elems n b).set j (elem n 0 a))
  | _ =>
    let nar (x : Nat) : Nat :=
      if t.isB then x % 2 ^ n
      else wrap n (clampInt (intMin t) (intMax t) (if t.isI then sext (2 * n) x else x))
    pack n ((elems (2 * n) a ++ elems (2 * n) b).map nar)

/-! ## The instructions -/

def execIadd (ty : ETy) (f : VF) (s : State) : Host.Outcome State Fault Refusal :=
  intBin (.iadd ty f) false ty f .add (fun x y => ((x + y) % 2 ^ ty.bits, 0)) s

def execIsub (ty : ETy) (f : VF) (s : State) : Host.Outcome State Fault Refusal :=
  intBin (.isub ty f) false ty f .sub (fun x y => (wrap ty.bits ((x : Int) - y), 0)) s

/-- `imul`: the mode stands in c (R102). -/
def execImul (ty : ETy) (f : VF) (s : State) : Host.Outcome State Fault Refusal :=
  match f.c.toNat with
  | 0 => intBin (.imul ty f) false ty f .mul (fun x y => (x * y % 2 ^ ty.bits, 0)) s
  | 1 => intBin (.imul ty f) false ty f .plain (fun x y => (mulHi ty x y, 0)) s
  | _ => wordBin (.imul ty f) ty f (mulWide ty) s

def execImad (ty : ETy) (f : VF) (s : State) : Host.Outcome State Fault Refusal :=
  intTern (.imad ty f) ty f (fun x y z => (x * y + z) % 2 ^ ty.bits) s

def execIdiv (ty : ETy) (f : VF) (s : State) : Host.Outcome State Fault Refusal := intBin (.idiv ty f) true ty f .plain (divElem ty) s
def execIrem (ty : ETy) (f : VF) (s : State) : Host.Outcome State Fault Refusal := intBin (.irem ty f) true ty f .plain (remElem ty) s

def execImin (ty : ETy) (f : VF) (s : State) : Host.Outcome State Fault Refusal :=
  intBin (.imin ty f) false ty f .plain (fun x y => (if intOf ty x ≤ intOf ty y then x else y, 0)) s

def execImax (ty : ETy) (f : VF) (s : State) : Host.Outcome State Fault Refusal :=
  intBin (.imax ty f) false ty f .plain (fun x y => (if intOf ty x ≤ intOf ty y then y else x, 0)) s

def execIabsd (ty : ETy) (f : VF) (s : State) : Host.Outcome State Fault Refusal :=
  intBin (.iabsd ty f) false ty f .plain (fun x y => ((intOf ty x - intOf ty y).natAbs, 0)) s

def execAnd (ty : ETy) (f : VF) (s : State) : Host.Outcome State Fault Refusal := wordBin (.and ty f) ty f (fun x y => x &&& y) s
def execOr (ty : ETy) (f : VF) (s : State) : Host.Outcome State Fault Refusal := wordBin (.or ty f) ty f (fun x y => x ||| y) s
def execXor (ty : ETy) (f : VF) (s : State) : Host.Outcome State Fault Refusal := wordBin (.xor ty f) ty f (fun x y => x ^^^ y) s

def execShl (ty : ETy) (f : VF) (s : State) : Host.Outcome State Fault Refusal :=
  intBin (.shl ty f) false ty f .plain (fun x y => (shlElem ty.bits x y, 0)) s
def execShr (ty : ETy) (f : VF) (s : State) : Host.Outcome State Fault Refusal :=
  intBin (.shr ty f) false ty f .plain (fun x y => (shrElem ty.bits x y, 0)) s
def execSar (ty : ETy) (f : VF) (s : State) : Host.Outcome State Fault Refusal :=
  intBin (.sar ty f) false ty f .plain (fun x y => (sarElem ty.bits x y, 0)) s
def execRot (ty : ETy) (f : VF) (s : State) : Host.Outcome State Fault Refusal :=
  intBin (.rot ty f) false ty f .plain (fun x y => (rotElem ty.bits x y, 0)) s
def execBfx (ty : ETy) (f : VF) (s : State) : Host.Outcome State Fault Refusal :=
  intBin (.bfx ty f) false ty f .plain (fun x y => (bfxElem ty x y, 0)) s
def execBfi (ty : ETy) (f : VF) (s : State) : Host.Outcome State Fault Refusal := intTern (.bfi ty f) ty f (bfiElem ty.bits) s
def execPopc (ty : ETy) (f : VF) (s : State) : Host.Outcome State Fault Refusal := intUn (.popc ty f) ty f (popElem ty.bits) s
def execClz (ty : ETy) (f : VF) (s : State) : Host.Outcome State Fault Refusal := intUn (.clz ty f) ty f (clzElem ty.bits) s
def execBrev (ty : ETy) (f : VF) (s : State) : Host.Outcome State Fault Refusal := intUn (.brev ty f) ty f (revElem ty.bits) s

/-- `sel` (R105): c names the predicate and its negate bit, read before walkers write end predicates (assumption 23); the shape follows the
`sel` row of R32. -/
def execSel (f : VF) (s : State) : Host.Outcome State Fault Refusal :=
  issue (.sel f) (vNames f true 2) s fun c =>
    if !permWidthOk f c.w then c.illegal 10
    else do
      let a := c.srcA f .b64
      let b := c.srcB f .b64
      c.checkRows [(a, none), (b, none)]
      let p : BitVec 3 := f.c.extractLsb' 0 3
      let neg := f.c.getLsbD 3
      let sh : Shape :=
        if p == 7 then (if (if neg then b else a).shape == .uniform then .uniform else .general)
        else if a.shape == .uniform && b.shape == .uniform && a.val c.low == b.val c.low then .uniform else .general
      c.finish f.d .raw sh fun l => (if (c.f0.thread l).pred p != neg then a.val l else b.val l, 0)

/-- `icmp` compares element 0 and writes a predicate (R105). -/
def execIcmp (ty : ETy) (f : VF) (s : State) : Host.Outcome State Fault Refusal :=
  issue (.icmp ty f) (vNames f false 2) s fun c =>
    if !permWidthOk f c.w then c.illegal 10
    else do
      let a := c.srcA f ty
      let b := c.srcB f ty
      c.checkRows [(a, none), (b, none)]
      c.finishPred (f.d.extractLsb' 0 3) fun l =>
        condInt f.c.toNat (intOf ty (elem ty.bits 0 (a.val l))) (intOf ty (elem ty.bits 0 (b.val l)))

/-- `lea` (R106). -/
def execLea (ty : ETy) (f : VF) (s : State) : Host.Outcome State Fault Refusal :=
  wordBin (.lea ty f) ty f (fun x y => x + (extWord ty y.toNat <<< f.c.toNat)) s

def execMov (f : VF) (s : State) : Host.Outcome State Fault Refusal :=
  issue (.mov f) (vNames f true 1) s fun c =>
    if !permWidthOk f c.w then c.illegal 10
    else do
      let a := c.srcA f .b64
      c.checkRows [(a, none)]
      c.finish f.d .raw (c.shapeOf .copy [a]) fun l => (a.val l, 0)

/-- `subx` (R107): b is a source in modes 1 and 2 only. -/
def execSubx (ty : ETy) (f : VF) (s : State) : Host.Outcome State Fault Refusal :=
  let mode := f.c.toNat / 16
  issue (.subx ty f) (vNames f true (if mode == 0 then 1 else 2)) s fun c =>
    if !permWidthOk f c.w then c.illegal 10
    else do
      let a := c.srcA f ty
      let b := if mode == 0 then a else c.srcB f ty
      c.checkRows [(a, none), (b, none)]
      c.finish f.d .raw (c.shapeOf .plain [a, b]) fun l => (subxWord ty mode (f.c.toNat % 8) (a.val l) (b.val l), 0)

def execMovi (f : IF) (s : State) : Host.Outcome State Fault Refusal := immMove (.movi f) f (f.imm.signExtend 64) s
def execMovhi (f : IF) (s : State) : Host.Outcome State Fault Refusal := immMove (.movhi f) f (f.imm ++ (0 : BitVec 32)) s

/-- `iaddi`: the immediate is sign-extended and taken modulo 2^n (R108). -/
def execIaddi (ty : ETy) (f : IF) (s : State) : Host.Outcome State Fault Refusal :=
  let k := (f.imm.signExtend 64).toNat
  immOp (.iaddi ty f) f (if ty.bits == 64 then .add else .plain) (f.imm.signExtend 64)
    (fun x => pack ty.bits ((elems ty.bits x).map fun e => (e + k) % 2 ^ ty.bits)) s

def execAndi (f : IF) (s : State) : Host.Outcome State Fault Refusal :=
  immOp (.andi f) f .plain (f.imm.signExtend 64) (fun x => x &&& f.imm.signExtend 64) s
def execOri (f : IF) (s : State) : Host.Outcome State Fault Refusal :=
  immOp (.ori f) f .plain (f.imm.setWidth 64) (fun x => x ||| f.imm.setWidth 64) s
def execXori (f : IF) (s : State) : Host.Outcome State Fault Refusal :=
  immOp (.xori f) f .plain (f.imm.setWidth 64) (fun x => x ^^^ f.imm.setWidth 64) s

/-- `icmpi`: d[2:0] names the predicate, d[5:3] the condition (R108). The immediate is taken to 64 bits and compared with element 0,
which for 32-bit types is compared with its value in the type. -/
def execIcmpi (ty : ETy) (f : IF) (s : State) : Host.Outcome State Fault Refusal :=
  issue (.icmpi ty f) (iNames f false true) s fun c => do
    let a := c.src 2 f.a 0 0
    c.checkRows [(a, none)]
    c.finishPred (f.d.extractLsb' 0 3) fun l =>
      condInt (f.d.toNat / 8) (intOf ty (elem ty.bits 0 (a.val l))) (if ty.isI then f.imm.toInt else (f.imm.toNat : Int))

end Sys2Proof.Machine
end

