-- ==== Sys2Proof/Machine/Cross.lean ====
section
/-! DEFINITION. Cross-lane instructions without a rendezvous (R123, R124), walkers (R125 to R127), shape and format tag access
(R128, R129). -/

namespace Sys2Proof.Machine

/-! ## cdet (R123) -/

/-- Active lanes with the key of lane l. -/
def keyGroup (act : List Nat) (a : Src) (l : Nat) : List Nat := act.filter fun m => a.val m == a.val l

/-- Results and the leader predicate of each active lane. -/
def Ctx.cdet (c : Ctx) (f : VF) (a : Src) (tag : Tag) (op : List Nat → Nat → Word × Fl) : Act :=
  let res := c.act.map fun l => let g := keyGroup c.act a l; (l, g, op g l)
  let s1 := c.write c.s f.d.toNat (res.map fun (l, _, v, _) => (l, ⟨v, tag, false⟩)) .general
  let s2 := s1.setPreds c.r (f.c.extractLsb' 0 3) (res.map fun (l, g, _) => (l, g.headD l == l))
  let fl := res.filterMap fun (l, g, _, x) => if x != 0 && g.headD l == l then some (l, x) else none
  .ok (if fl.isEmpty then s2 else s2.orFlags c.r fl, .advance)

def execCdetMask (f : VF) (s : State) : Host.Outcome State Fault Refusal :=
  issue (.cdetMask f) (vNames f true 1) s fun c =>
    if !permWidthOk f c.w then c.illegal 10
    else do
      let a := c.srcA f .b64
      c.checkRows [(a, none)]
      c.cdet f a .raw fun g l => (maskOf (g.filter (· < l)), 0)

/-- Sums of a group in ascending lane order, element by element (R123). -/
def foldRne (vs : List Nat) : Nat × Fl :=
  match vs with
  | [] => (0, 0)
  | v :: vs => vs.foldl (fun (acc, fl) x => let (r, g) := addRne fmtF32 false acc x; (r, fl ||| g)) (v, (0 : Fl))

def execCdetFadd (f : VF) (s : State) : Host.Outcome State Fault Refusal :=
  issue (.cdetFadd f) (vNames f true 2) s fun c =>
    if !permWidthOk f c.w then c.illegal 10
    else do
      let a := c.srcA f .b64
      let b := c.srcB f .b64
      c.checkRows [(a, none), (b, some .f32)]
      c.cdet f a .f32 fun g _ =>
        let lo := foldRne (g.map fun l => elem 32 0 (b.val l))
        let hi := foldRne (g.map fun l => elem 32 1 (b.val l))
        (pack 32 [lo.1, hi.1], lo.2 ||| hi.2)

def execCdetIadd (f : VF) (s : State) : Host.Outcome State Fault Refusal :=
  issue (.cdetIadd f) (vNames f true 2) s fun c =>
    if !permWidthOk f c.w then c.illegal 10
    else do
      let a := c.srcA f .b64
      let b := c.srcB f .b64
      c.checkRows [(a, none), (b, none)]
      c.cdet f a .raw fun g _ => ((g.map b.val).foldl (· + ·) 0, 0)

/-! ## lred and lscan (R124) -/

/-- One step of a fold. -/
def foldStep (op : Nat) (t : ETy) (x y : Nat) : Nat × Fl :=
  match op with
  | 0 => ((x + y) % 2 ^ t.bits, 0)
  | 1 => addRne (fmtOf t) false x y
  | 2 => (if intOf t x ≤ intOf t y then x else y, 0)
  | 3 => (if intOf t x ≤ intOf t y then y else x, 0)
  | 4 => (Nat.land x y, 0)
  | 5 => (Nat.lor x y, 0)
  | 6 => (Nat.xor x y, 0)
  | 7 => roundFV (fmtOf t) .rne 0 false 0 ((valOf t x).minNum (valOf t y))
  | _ => roundFV (fmtOf t) .rne 0 false 0 ((valOf t x).maxNum (valOf t y))

def floatOp (op : Nat) : Bool := op == 1 || op == 7 || op == 8

/-- The first element of a floating-point fold enters as an arithmetic result: NaN becomes canonical. -/
def foldFirst (op : Nat) (t : ETy) (x : Nat) : Nat := if floatOp op && (valOf t x).isNan then (fmtOf t).nan else x

def emptyFold (op : Nat) (t : ETy) : Nat :=
  match op with
  | 2 => wrap t.bits (intMax t)
  | 3 => wrap t.bits (intMin t)
  | 4 => 2 ^ t.bits - 1
  | 7 => (fmtOf t).infCode
  | 8 => (fmtOf t).withSign true (fmtOf t).infCode
  | _ => 0

/-- The fold of a list of elements in lane order. -/
def foldAll (op : Nat) (t : ETy) (vs : List Nat) : Nat × Fl :=
  match vs with
  | [] => (emptyFold op t, 0)
  | v :: vs => vs.foldl (fun (acc, fl) x => let (r, g) := foldStep op t acc x; (r, fl ||| g)) (foldFirst op t v, (0 : Fl))

/-- Each element position on its own. -/
def foldWords (op : Nat) (t : ETy) (ws : List Word) : Word × Fl :=
  let r := (List.range t.count).map fun q => foldAll op t (ws.map (elem t.bits q))
  (pack t.bits (r.map (·.1)), orAll r)

/-- `lred` and `lscan` share their checks; the active lanes that enter lane l's fold are given. -/
def foldInstr (i : Instr) (sub : BitVec 4) (f : VF) (red : Bool) (takes : Nat → Nat → Bool) (s : State) : Host.Outcome State Fault Refusal :=
  let t := cvtTy f.b
  let op := sub.toNat
  issue i (vNames f true 1) s fun c =>
    if !permWidthOk f c.w then c.illegal 10
    else do
      let a := c.srcA f .b64
      let tag := if floatOp op then tagOf t else .raw
      c.checkRows [(a, if floatOp op then some tag else none)]
      c.finish f.d tag (if red then .uniform else .general) fun l =>
        foldWords op t ((c.act.filter (takes l)).map a.val)

def execLred (sub : BitVec 4) (f : VF) (s : State) : Host.Outcome State Fault Refusal :=
  foldInstr (.lred sub f) sub f true (fun _ _ => true) s
def execLscan (sub : BitVec 4) (f : VF) (s : State) : Host.Outcome State Fault Refusal :=
  foldInstr (.lscan sub f) sub f false (fun l m => if f.b.getLsbD 4 then m < l else m ≤ l) s

/-! ## Walkers (R125, R127) -/

def Thread.setWalker (t : Thread) (k : Nat) (w : Option Walker) : Thread := { t with walkers := t.walkers.set k w }

def half16 (k : Nat) (w : Word) : BitVec 16 := w.extractLsb' (16 * k) 16

/-- `wbind`: a binding at position zero with shifts 0, value type b64 and no end predicates (R125). -/
def execWbind (sub : BitVec 4) (f : VF) (s : State) : Host.Outcome State Fault Refusal :=
  issue (.wbind sub f) { vNames f false 3 with codes := [] } s fun c =>
    if !permWidthOk f c.w then c.illegal 10
    else do
      let a := c.srcA f .b64
      let b := c.srcB f .b64
      let e := c.srcC f .b64
      c.checkRows [(a, none), (b, none), (e, none)]
      let bind (l : Nat) : Walker :=
        ⟨a.val l, (List.range 4).map fun k => max 1 (half16 k (b.val l)).toNat, (List.range 4).map fun k => half16 k (e.val l),
          [0, 0, 0, 0], [0, 0, 0, 0], sub.getLsbD 3, .b64, [none, none, none, none]⟩
      .ok (c.s.modFibre c.r fun f => c.act.foldl (fun f l => f.modThread l fun t => t.setWalker (sub.toNat % 8) (some (bind l))) f, .advance)

/-- A `wctl` operation on the bindings of the active lanes; every one but unbind needs a binding, and the operand must be one that the
operation takes (R127). -/
def wctl (i : Instr) (sub : BitVec 4) (f : VF) (reads : Bool) (ok : Word → Bool) (op : Walker → Word → Walker) (s : State) :
    Host.Outcome State Fault Refusal :=
  let k := sub.toNat
  issue i (vNames f false (if reads then 1 else 0)) s fun c =>
    if !permWidthOk f c.w then c.illegal 10
    else if c.act.any fun l => ((c.f.thread l).walker k).isNone then c.illegal 52
    else do
      let a := if reads then c.srcA f .b64 else ⟨[], .uniform, 0⟩
      if reads then c.checkRows [(a, none)]
      if reads && c.act.any fun l => !ok (a.val l) then c.illegal 40
      .ok (c.s.modFibre c.r fun f => c.act.foldl (fun f l => f.modThread l fun t =>
        t.setWalker k ((t.walker k).map fun w => op w (a.val l))) f, .advance)

def nibble (k : Nat) (w : Word) : Nat := w.field (4 * k) 4

def execWctlEnds (sub : BitVec 4) (f : VF) (s : State) : Host.Outcome State Fault Refusal :=
  wctl (.wctlEnds sub f) sub f true (fun a => a.toNat < 65536) (fun w a => { w with
    ends := (List.range 4).map fun k => if 8 ≤ nibble k a then some (BitVec.ofNat 3 (nibble k a)) else none }) s

def execWctlVtype (sub : BitVec 4) (f : VF) (s : State) : Host.Outcome State Fault Refusal :=
  wctl (.wctlVtype sub f) sub f true (fun a => a.field 0 4 < 10) (fun w a => { w with vtype := ETy.ofCode (a.extractLsb' 0 4) }) s

def execWctlShift (sub : BitVec 4) (f : VF) (s : State) : Host.Outcome State Fault Refusal :=
  wctl (.wctlShift sub f) sub f true (fun a => a.toNat < 65536) (fun w a => { w with shifts := (List.range 4).map fun k => nibble k a }) s

def execWctlRew (sub : BitVec 4) (f : VF) (s : State) : Host.Outcome State Fault Refusal :=
  wctl (.wctlRew sub f) sub f false (fun _ => true) (fun w _ => { w with idx := [0, 0, 0, 0] }) s

def execWctlUnbind (sub : BitVec 4) (f : VF) (s : State) : Host.Outcome State Fault Refusal :=
  issue (.wctlUnbind sub f) (vNames f false 0) s fun c =>
    .ok (c.s.modFibre c.r fun f => c.act.foldl (fun f l => f.modThread l fun t => t.setWalker sub.toNat none) f, .advance)

def execWctlTell (sub : BitVec 4) (f : VF) (s : State) : Host.Outcome State Fault Refusal :=
  issue (.wctlTell sub f) (vNames f true 0) s fun c =>
    if c.act.any fun l => ((c.f.thread l).walker sub.toNat).isNone then c.illegal 52
    else c.finish f.d .raw .general fun l => ((((c.f.thread l).walker sub.toNat).map Walker.addr).getD 0, 0)

/-- The position as a number of elements, and back. -/
def posOf : List Nat → List Nat → Nat
  | e :: es, i :: is => i + e * posOf es is
  | _, _ => 0
def posTo : List Nat → Nat → List Nat
  | e :: es, n => n % e :: posTo es (n / e)
  | [], _ => []

/-- Advance by a elements, modulo the pattern length, without end events (R127). -/
def execWctlSkip (sub : BitVec 4) (f : VF) (s : State) : Host.Outcome State Fault Refusal :=
  wctl (.wctlSkip sub f) sub f true (fun _ => true) (fun w a => { w with
    idx := posTo w.extents ((posOf w.extents w.idx + a.toNat) % w.extents.foldl (· * ·) 1) }) s

/-! ## shape and ftag (R128, R129) -/

def Shape.code : Shape → Word
  | .uniform => 0
  | .affine _ _ => 1
  | .general => 2

/-- `shape.get` reads the tag, not the rows (assumption 12). -/
def execShapeGet (f : VF) (s : State) : Host.Outcome State Fault Refusal :=
  issue (.shapeGet f) (vNames f true 1) s fun c =>
    if !permWidthOk f c.w then c.illegal 10
    else
      let a := c.srcA f .b64
      c.finish f.d .raw .uniform fun _ => (a.shape.code, 0)

def execShapeGen (f : VF) (s : State) : Host.Outcome State Fault Refusal :=
  issue (.shapeGen f) (vNames f true 1) s fun c =>
    if !permWidthOk f c.w then c.illegal 10
    else do
      let a := c.srcA f .b64
      c.checkRows [(a, none)]
      .ok (c.write c.s f.d.toNat (c.act.map fun l => (l, ⟨a.val l, (a.row l).tag, false⟩)) .general, .advance)

/-- The register lies in the shared window, where sub 2 and 3 may not write (R128). -/
def Ctx.isShared (c : Ctx) (n : Nat) : Bool := n < (c.t.slotOf c.f).shared.length

/-- A poisoned row of the lowest active thread is consumed. -/
def Ctx.checkLow (c : Ctx) (xs : List Src) : Except Exc Unit :=
  match xs.findSome? fun x => poisErr x c.low with
  | some (code, fld, d, i) => .error (.fault ⟨code, fld, d, i, 0, maskOf [c.low]⟩)
  | none => .ok ()

def execShapeUni (f : VF) (s : State) : Host.Outcome State Fault Refusal :=
  issue (.shapeUni f) (vNames f true 1) s fun c =>
    if !permWidthOk f c.w then c.illegal 10
    else if c.isShared f.d.toNat then c.illegal 46
    else if c.act.isEmpty then .ok (c.s, .advance)
    else do
      let a := c.srcA f .b64
      c.checkLow [a]
      .ok (c.s.putReg c.r f.d.toNat (c.live.map fun l => (l, ⟨a.val c.low, (a.row c.low).tag, false⟩)) .uniform, .advance)

def execShapeAff (f : VF) (s : State) : Host.Outcome State Fault Refusal :=
  issue (.shapeAff f) (vNames f true 2) s fun c =>
    if !permWidthOk f c.w then c.illegal 10
    else if c.isShared f.d.toNat then c.illegal 46
    else if c.act.isEmpty then .ok (c.s, .advance)
    else do
      let a := c.srcA f .b64
      let b := c.srcB f .b64
      c.checkLow [a, b]
      .ok (c.s.putReg c.r f.d.toNat (c.live.map fun l => (l, ⟨a.val c.low + BitVec.ofNat 64 l * b.val c.low, .raw, false⟩))
        (.affine (a.val c.low) (b.val c.low)), .advance)

def execFtagGet (f : VF) (s : State) : Host.Outcome State Fault Refusal :=
  issue (.ftagGet f) (vNames f true 1) s fun c =>
    if !permWidthOk f c.w then c.illegal 10
    else do
      let a := c.srcA f .b64
      c.checkRows [(a, none)]
      c.finish f.d .raw .general fun l => ((a.row l).tag.code.setWidth 64, 0)

def execFtagSet (f : VF) (s : State) : Host.Outcome State Fault Refusal :=
  issue (.ftagSet f) (vNames f true 1) s fun c =>
    if !permWidthOk f c.w then c.illegal 10
    else do
      let a := c.srcA f .b64
      c.checkRows [(a, none)]
      c.finish f.d ((Tag.ofCode? f.c.toNat).getD .raw) (c.shapeOf .plain [a]) fun l => (a.val l, 0)

/-- TAG of a tile descriptor, DW0 [51:48] (R191). -/
def tileTagCode (d : List Word) : Nat := (d.getD 0 0).field 48 4
def setTileTag (d : List Word) (c : Nat) : List Word :=
  d.set 0 (BitVec.ofNat 64 ((d.getD 0 0).toNat - tileTagCode d * 2 ^ 48 + c * 2 ^ 48))

def execFtagTget (f : VF) (s : State) : Host.Outcome State Fault Refusal :=
  issue (.ftagTget f) (vNames f true 0) s fun c =>
    c.finish f.d .raw .uniform fun _ => (BitVec.ofNat 64 (tileTagCode (c.f.tiles.getD f.a.toNat [])), 0)

def execFtagTset (f : VF) (s : State) : Host.Outcome State Fault Refusal :=
  issue (.ftagTset f) (vNames f false 0) s fun c =>
    if c.act.isEmpty then .ok (c.s, .advance)
    else .ok (c.s.modFibre c.r fun x => { x with tiles := x.tiles.modify f.d.toNat fun d => setTileTag d f.c.toNat }, .advance)

end Sys2Proof.Machine
end

