-- ==== Sys2Proof/Machine/Sync.lean ====
section
/-! DEFINITION. Rendezvous (R120, R133, R336), fibre and team barriers (R139 to R145), the exit of threads (R132, R207, R337), and the
member-masked `shfl` and `vote`, whose completion runs wherever the last member arrives or exits. -/

namespace Sys2Proof.Machine

/-! ## Exit of threads -/

/-- Queued requests of a fibre leave the reservation table, and their operations end (R203, R207). -/
def State.dropQueued (s : State) (r : FibreRef) : State :=
  let ids := s.clusters.flatMap fun (c : Cluster) => (c.table.filter fun (g : GReq) => g.owner == r && g.state == .queued).map (·.id)
  { s with clusters := s.clusters.map fun (c : Cluster) => { c with table := c.table.filter fun (g : GReq) => !ids.contains g.id } }.modFibre r
    fun f => { f with ops := f.ops.filter fun (o : Op) => match o.kind with | .gradient id => !ids.contains id | _ => true }

/-- Started requests of a fibre without live threads write and scatter nothing (R207). -/
def State.orphanStarted (s : State) (r : FibreRef) : State :=
  { s with clusters := s.clusters.map fun (c : Cluster) => { c with
      table := c.table.map fun (g : GReq) => if g.owner == r then { g with orphan := true } else g } }

/-- Threads that once stood in a position of this fibre and now stand in the gallery. -/
def State.filedFrom (s : State) (r : FibreRef) : List Nat :=
  s.cores.flatMap fun (c : Core) => c.gallery.flatMap fun (b : Option Bin) => match b with
    | some b => if b.team == r.team then (b.threads.filter fun x => x.fid == some r.fid).map (·.lane) else []
    | none => []

/-- The threads become Exited; a fibre left without a live thread, and with none filed, orphans its requests (R132, R207). -/
def State.rawExit (s : State) (r : FibreRef) (lanes : List Nat) : State :=
  let s := s.modFibre r fun f => ((f.modThreads lanes fun t => { t with st := .exited }).stripOps lanes).closeOver
  match s.fibre? r with
  | some f => if f.live.isEmpty && (s.filedFrom r).isEmpty then (s.dropQueued r).orphanStarted r else s
  | none => s

/-! ## Rendezvous -/

/-- The rendezvous at which a thread is Blocked: mask and instruction. -/
def Thread.atRendezvous (t : Thread) : Option (Word × Instr) :=
  match t.st with
  | .blocked (.rendezvous m) i _ => some (m, i)
  | _ => none

/-- Lanes of one path group at a rendezvous: blocked at one address with one mask. -/
def Fibre.group (f : Fibre) (pc : Word) (m : Word) : List Nat :=
  f.lanesWhere fun t => t.pc == pc && (match t.atRendezvous with | some (m', _) => m' == m | none => false)

/-- Frozen threads keep a rendezvous open (R47, R120). -/
def Fibre.frozen (f : Fibre) (lane : Nat) : Bool :=
  f.pageWait.isSome || (match f.handler with | some h => !h.lanes.getLsbD lane | none => false)

/-- A complete rendezvous: its lanes, when every live member is Blocked there (R120). -/
def State.ready? (s : State) (r : FibreRef) (f : Fibre) : Option (List Nat × Thread × Instr) :=
  f.live.findSome? fun l =>
    let t := f.thread l
    match t.atRendezvous with
    | none => none
    | some (m, i) =>
      let g := f.group t.pc m
      let members := f.live.filter fun k => m.getLsbD k
      if g.all (fun k => !f.frozen k) && members.all g.contains && !((s.filedFrom r).any fun k => m.getLsbD k) then some (g, t, i) else none

/-- The context in which joined members execute: their rows, walkers and the clause constant as they stand (R120). -/
def State.joinCtx (s : State) (r : FibreRef) (tm : Team) (f : Fibre) (lanes : List Nat) (t : Thread)
    (wv : List (Nat × List (Nat × Word))) : Ctx :=
  let hdr := t.clause.getD 0
  let h := s.loadWord tm.ctx hdr.toNat
  let idx := (t.pc - hdr).toNat / 8 - 1
  ⟨s, r, tm, f, s.recOf tm, ⟨hdr, BitVec.ofNat 32 h, [], idx, 0, false⟩, lanes, f.live, lanes, f, wv⟩

/-! ## shfl and vote -/

/-- Element width of `shfl` (R121). -/
def shflWidth (sub : BitVec 4) : Nat := match sub.toNat with | 8 => 64 | 9 => 32 | 6 => 16 | _ => 8

/-- The result of one thread: a lane that is no member gives the thread its own element (R121). -/
def shflWord (sub : BitVec 4) (width : Nat) (a b : Src) (member : Nat → Bool) (l : Nat) : Word :=
  let n := shflWidth sub
  let k := 64 / n
  pack n ((List.range k).map fun q =>
    let idx := elem n q (b.val l) % (width * k)
    if member (idx / k) then elem n (idx % k) (a.val (idx / k)) else elem n q (a.val l))

/-- Rows that a `shfl` reads: its own and those of the members it names. -/
def shflPoison (sub : BitVec 4) (width : Nat) (a b : Src) (member : Nat → Bool) (l : Nat) : Option (Nat × Nat × Nat × Nat) :=
  let n := shflWidth sub
  let k := 64 / n
  match poisErr a l with
  | some e => some e
  | none => match poisErr b l with
    | some e => some e
    | none => ((List.range k).map fun q => elem n q (b.val l) % (width * k) / k).findSome? fun m => if member m then poisErr a m else none

/-- `shfl` for the active lanes of a context, with the given members (R121). Its write is general also where both sources are uniform (R33;
DEDUCED, assumption 127). -/
def Ctx.doShfl (c : Ctx) (sub : BitVec 4) (f : VF) (lanes : List Nat) (member : Nat → Bool) : Except Exc State :=
  let a := c.srcA f .b64
  let b := c.srcB f .b64
  let bad := lanes.filterMap fun l => (shflPoison sub c.w a b member l).map fun e => (l, e)
  match bad with
  | (_, code, fld, d, i) :: _ => .error (.fault ⟨code, fld, d, i, 0, maskOf (bad.map (·.1))⟩)
  | [] => .ok (if lanes.isEmpty then c.s else c.s.putReg c.r f.d.toNat (lanes.map fun l => (l, ⟨shflWord sub c.w a b member l, .raw, false⟩)) .general)

/-- The predicate that a participant brings (R122), read before walkers write end predicates (assumption 23). -/
def voteBit (f : VF) (t : Thread) : Bool := t.pred (f.a.extractLsb' 0 3) != f.a.getLsbD 3

/-- `vote` among participants, delivered to lanes (R122). The shape of a vector result is uniform when every live thread receives it. -/
def Ctx.doVote (c : Ctx) (kind : Nat) (f : VF) (parts lanes : List Nat) : State :=
  let yes := parts.filter fun l => voteBit f (c.f0.thread l)
  let vec (v : Word) : State :=
    if lanes.isEmpty then c.s
    else c.s.putReg c.r f.d.toNat (lanes.map fun l => (l, ⟨v, .raw, false⟩)) (if c.live.all lanes.contains then .uniform else .general)
  match kind with
  | 0 => c.s.setPreds c.r (f.d.extractLsb' 0 3) (lanes.map fun l => (l, !yes.isEmpty))
  | 1 => c.s.setPreds c.r (f.d.extractLsb' 0 3) (lanes.map fun l => (l, yes.length == parts.length))
  | 2 => vec (maskOf yes)
  | _ => vec (BitVec.ofNat 64 yes.length)

/-! ## Completion -/

/-- What `tret` does when every live thread of the handler path is Blocked at it (R336). -/
def State.tretDone (s : State) (r : FibreRef) (lanes : List Nat) : State :=
  match s.team? r.team, s.fibre? r with
  | some t, some f =>
    match f.handler with
    | none => s
    | some h =>
      let x := f.tpc
      let n := s.loadWord t.ctx h.clause.toNat / 2 ^ 56 % 16 + 1
      let inside := x.toNat % 8 == 0 && h.clause.toNat < x.toNat && x.toNat ≤ h.clause.toNat + 8 * n
      if !inside && !targetOk (s.recOf t) x then
        if s.canPost then s.terminate t.ctx 2 3 (x.toNat % 2 ^ 32) else s
      else
        let (go, out) := (lanes.filter fun l => f.tmask.getLsbD l, lanes.filter fun l => !f.tmask.getLsbD l)
        (s.modFibre r fun f => { (f.modThreads go fun th => { th.standAt x (if inside then some h.clause else none) with prevY := false }) with handler := none }).rawExit r out
  | _, _ => s

/-- Walkers that a joined instruction reads advance with it (R23, R89). -/
def State.joinWalk (s : State) (r : FibreRef) (lanes : List Nat) (ks : List Nat) : State :=
  if ks.isEmpty then s else s.modThreads r lanes fun t => ks.foldl (fun t k => t.walkStep k) t

/-- The reads of remote walker elements for an instruction end with it. -/
def State.dropWalkerRead (s : State) (r : FibreRef) (i : Instr) : State :=
  s.modFibre r fun f => { f with ops := f.ops.filter fun (o : Op) => !o.kind.isWalkerRead i }

/-- A complete rendezvous executes its instruction once for the joined members, who go on as one path; a poisoned row, or a walker read
that fails, stops them instead, at the instruction (R120). Its walker reads wait as those of an instruction that issues, and a stop
waits until the writes held in windows are known. -/
def State.complete (s : State) (r : FibreRef) (tm : Team) (f : Fibre) (lanes : List Nat) (t : Thread) (i : Instr) : State :=
  let go (s : State) : State := s.modThreads r lanes Thread.goOn
  let stop (e : Flt) : State :=
    if f.mustWait then s
    else (s.modThreads r lanes fun t => { t with st := .waiting }).trap r lanes (t.clause.getD 0) t.pc e
  let run (v : VF) (k : Ctx → Except Exc State) : State :=
    let codes := (vNames v false 3).codes
    let who : Who := ⟨tm.ctx, tm.coreOf r.fid, tm.uid⟩
    match readWalkers s who f lanes codes (f.walkerBytes i) with
    | .error (.inl b) =>
      let w := BitVec.ofNat 64 (s.loadWord tm.ctx t.pc.toNat)
      stop ⟨1, fieldOf w b, b, w.toNat / 2 ^ 32, 0, maskOf lanes⟩
    | .error (.inr (.fault e)) => stop e
    | .error (.inr (.pages vas kind e)) =>
      if f.mustWait then s
      else (vas.foldl (fun (s : State) (va, lvl) => s.requestPage tm.ctx va (who.core / 64) kind lvl) s).pageStop r lanes t.pc t.clause
        (vas.map (·.1)) e
    | .error _ => s
    | .ok (wv, missing) =>
      if f.acquiring && !(walkerPlaces s who f lanes codes).isEmpty then s
      else if !missing && !(walkerOwned s who f lanes codes).isEmpty then s
      else if missing then
        if (f.ops.any fun o => o.kind.isWalkerRead i) || (walkerRanges s who f lanes codes).any fun (a, n) => s.collides r true a n then s
        else
          let (id, s') := s.addOp r [] (.access i [] []) 15 [] [] []
          (s'.readRemote tm.ctx who.core r id (walkerRanges s who f lanes codes)).getD s
      else match k ((s.joinWalk r lanes (wv.map (·.1))).joinCtx r tm f lanes t wv) with
        | .ok s' => go (s'.dropWalkerRead r i)
        | .error (.fault e) => stop e
        | .error _ => s
  match i with
  | .shfl sub v => run v fun c => c.doShfl sub v lanes lanes.contains
  | .voteAny v => run { v with a := 0, b := 0 } fun c => .ok (c.doVote 0 v lanes lanes)
  | .voteAll v => run { v with a := 0, b := 0 } fun c => .ok (c.doVote 1 v lanes lanes)
  | .voteBallot v => run { v with a := 0, b := 0 } fun c => .ok (c.doVote 2 v lanes lanes)
  | .voteCount v => run { v with a := 0, b := 0 } fun c => .ok (c.doVote 3 v lanes lanes)
  | .tret _ => s.tretDone r lanes
  | _ => go s

/-- The handler is left when its path has no live thread (R337). -/
def State.leaveEmptyHandler (s : State) (r : FibreRef) : State :=
  s.modFibre r fun f => match f.handler with
    | some h => if f.live.any fun l => h.lanes.getLsbD l then f else { f with handler := none }
    | none => f

/-- Every complete rendezvous of the fibre is released, one after another. -/
def State.settle (s : State) (r : FibreRef) : Nat → State
  | 0 => s
  | n + 1 =>
    let s := s.leaveEmptyHandler r
    match s.team? r.team, s.fibre? r with
    | some tm, some f => match s.ready? r f with
      | some (g, t, i) => State.settle (s.complete r tm f g t i) r n
      | none => s
    | _, _ => s

def State.settleTeam (s : State) (uid : Nat) : State :=
  match s.team? uid with
  | some t => (t.fibres.map (·.fid)).foldl (fun (s : State) g => s.settle ⟨uid, g⟩ 64) s
  | none => s

/-! ## Fibre barriers (R139 to R141) -/

/-- Positions of the slot whose fibre has a live thread. -/
def Team.liveIn (t : Team) (slot : Nat) : List Nat := (t.fibres.filter fun f => f.slot == slot && !f.live.isEmpty).map (·.fid)

/-- CheckFbar on the counts of one barrier: the completed-phase count advances while enough fibres have arrived. With target 0 and no
live fibre in the slot it does not advance (DEDUCED, assumption 128). -/
def FBar.check (live : Nat) : Nat → FBar → FBar
  | 0, b => b
  | n + 1, b =>
    let need := if b.target == 0 then live else b.target
    if need != 0 && need ≤ (b.arrivals.filter (b.phases < ·)).length then FBar.check live n { b with phases := b.phases + 1 } else b

def Team.checkFbar (t : Team) (slot id : Nat) : Team :=
  let live := (t.liveIn slot).length
  { t with slots := t.slots.modify slot fun sl => { sl with bars := sl.bars.modify id (FBar.check live 256) } }

/-- Waits of completed phases are released (R141). -/
def Team.releaseFbar (t : Team) (slot id : Nat) : Team :=
  let p := ((t.slots.getD slot noSlot).bars.getD id ⟨0, 0, [], []⟩).phases
  { t with fibres := t.fibres.map fun f => if f.slot != slot then f else { f with threads := f.threads.map fun (th : Thread) =>
      match th.st with
      | .blocked (.fbar b k) _ _ => if b == id && k < p then th.goOn else th
      | _ => th } }

/-- Completed phases of a fibre barrier. -/
def Team.phases (t : Team) (slot id : Nat) : Nat := ((t.slots.getD slot noSlot).bars.getD id ⟨0, 0, [], []⟩).phases

/-- The watchdog's count of a fibre barrier starts anew when a phase completes (R355). -/
def Team.recountFbar (t : Team) (slot id : Nat) (now : Word) : Team :=
  { t with fibres := t.fibres.map fun (f : Fibre) => if f.slot != slot then f else { f with
      arriveStall := f.arriveStall.map fun x => if x.1 == id then (id, now) else x
      threads := f.threads.map fun (th : Thread) => match th.st with
        | .blocked (.fbar b k) i _ => if b == id then { th with st := .blocked (.fbar b k) i now } else th
        | _ => th } }

/-- CheckFbar with all that follows. -/
def Team.fbarStep (t : Team) (slot : Nat) (now : Word) (id : Nat) : Team :=
  let t1 := (t.checkFbar slot id).releaseFbar slot id
  if t1.phases slot id == t.phases slot id then t1 else t1.recountFbar slot id now

def State.fbarCheck (s : State) (uid slot : Nat) : State :=
  s.modTeam uid fun t => [0, 1, 2, 3].foldl (fun t id => t.fbarStep slot s.time id) t

/-! ## Team barriers (R142 to R144) -/

def hasArrived (id : Nat) (t : Thread) : Bool := t.arrived.getLsbD id
def clearArrived (id : Nat) (t : Thread) : Thread := { t with arrived := t.arrived &&& ~~~(1#16 <<< id) }
def setArrived (id : Nat) (t : Thread) : Thread := { t with arrived := t.arrived ||| (1#16 <<< id) }

/-- Threads of the team in the gallery. -/
def State.filedOf (s : State) (uid : Nat) : List Thread :=
  s.cores.flatMap fun (c : Core) => c.gallery.flatMap fun (b : Option Bin) => match b with
    | some b => if b.team == uid then b.threads.map (·.thread) else []
    | none => []

/-- Open windows have landed, and so has every write to a shared row (R145). -/
def Team.arrivalOk (t : Team) (f : Fibre) : Bool :=
  let k := (t.slotOf f).shared.length
  !(f.ops.any fun o => o.isWindow || o.writes.any (·.reg < k))

/-- A waiter of the completed phase goes on; a second arrival becomes a fresh arrival of the new phase (R143), for which the watchdog
counts anew (R355). Where its fibre does not meet the conditions of R145, its thread issues the instruction anew and waits there. -/
def tbarRelease (ok : Bool) (now : Word) (id : Nat) (t : Thread) : Thread :=
  let t := clearArrived id t
  match t.st with
  | .blocked (.tbar b again wait) i _ =>
    if b != id then t
    else if !again then t.goOn
    else if !ok then { t with st := .waiting }
    else if wait then setArrived id { t with st := .blocked (.tbar b false true) i now }
    else (setArrived id t).goOn
  | _ => t

/-- The phase completes while every live thread of the team, filed ones included, has its bit set (R143). -/
def State.tbarCheck (s : State) (uid id : Nat) : Nat → State
  | 0 => s
  | n + 1 =>
    match s.team? uid with
    | none => s
    | some t =>
      let live := (t.fibres.flatMap (·.threads)).filter Thread.live ++ s.filedOf uid
      if live.isEmpty || !live.all (hasArrived id) then s
      else
        let s := s.modTeam uid fun t => { t with fibres := t.fibres.map fun (f : Fibre) => { f with
          threads := f.threads.map (tbarRelease (t.arrivalOk f) s.time id) } }
        State.tbarCheck { s with cores := s.cores.map fun (c : Core) => { c with gallery := c.gallery.map fun (b : Option Bin) => b.map fun b =>
          if b.team == uid then { b with threads := b.threads.map fun (x : FiledThread) => { x with thread := clearArrived id x.thread } } else b } } uid id n

def State.tbarChecks (s : State) (uid : Nat) : State := (List.range 16).foldl (fun (s : State) id => s.tbarCheck uid id 4) s

/-- Every barrier and rendezvous that an exit, or a thread's leaving, may complete (R132, R141, R143). -/
def State.recheck (s : State) (r : FibreRef) : State :=
  let s := s.settleTeam r.team
  match s.fibre? r with
  | some f => (if f.live.isEmpty then s.fbarCheck r.team f.slot else s).tbarChecks r.team
  | none => s

/-- The exit of threads with all that follows from it (R132, R337). -/
def State.exitLanes (s : State) (r : FibreRef) (lanes : List Nat) : State := if lanes.isEmpty then s else (s.rawExit r lanes).recheck r

/-! ## Arrival conditions (R145) -/

def Ctx.arrivalOk (c : Ctx) : Bool := c.t.arrivalOk c.f

/-- Bundle threads at a rendezvous: active members are Blocked, without having read their walkers; the others go on (R120). -/
def Ctx.blockMembers (c : Ctx) (s : State) (i : Instr) (members : List Nat) (m : Word) : State :=
  (s.modFibre c.r fun f => ((f.modThreads members fun t => t.stopAt c.is (.blocked (.rendezvous m) i s.time)).placeRest))

/-- Walkers and end predicates of lanes as they were before the instruction. -/
def Ctx.unwalk (c : Ctx) (s : State) (lanes : List Nat) : State :=
  if c.wv.isEmpty then s
  else s.modFibre c.r fun f => lanes.foldl (fun f l => f.modThread l fun t =>
    { t with walkers := (c.f0.thread l).walkers, preds := (c.f0.thread l).preds }) f

/-- Walkers that source fields name. -/
def walksOf (codes : List (Nat × Nat)) : List Nat := (List.range 7).filter fun k => codes.any fun x => x.2 == 56 + k

/-- A parked thread whose instruction completes: its walker reads take effect, and it goes on. -/
def Thread.passOn (codes : List (Nat × Nat)) (t : Thread) : Thread := ((walksOf codes).foldl (fun (t : Thread) k => t.walkStep k) t).goOn

/-- The common course of a member-masked instruction: `rest` runs at once for active non-members. -/
def Ctx.rendezvous (c : Ctx) (i : Instr) (m : Word) (rest : List Nat → Except Exc State) : Act :=
  let members := c.act.filter fun l => m.getLsbD l
  if c.act.isEmpty then .ok (c.s, .advance)
  else if !members.isEmpty && !c.arrivalOk then .error .drain
  else do
    let s ← rest (c.act.filter fun l => !m.getLsbD l)
    if members.isEmpty then .ok (s, .advance)
    else
      let s := c.blockMembers (c.unwalk s members) i members m
      .ok ((s.modFibre c.r Fibre.leave).settle c.r 64, .stopped)

/-- Names of `shfl` and `vote`: c is an operand in the member-masked form (R119). -/
def memberNames (f : VF) (d : Bool) (n : Nat) : Names :=
  let base := vNames f d n
  if f.member then { base with
    regs := base.regs ++ regName 28 f.c
    codes := base.codes ++ [(28, f.c.toNat)] } else base

/-- The member mask: c of the lowest active thread, within the fibre width (R119). -/
def Ctx.memberMask (c : Ctx) (x : Src) : Word := x.val c.low &&& maskOf (List.range c.w)

def execShfl (sub : BitVec 4) (f : VF) (s : State) : Host.Outcome State Fault Refusal :=
  issue (.shfl sub f) (memberNames f true 2) s fun c =>
    if !permWidthOk f c.w then c.illegal 10
    else if c.act.isEmpty then .ok (c.s, .advance)
    else if f.member then do
      let m := c.src 4 f.c 0 0
      c.checkLow [m]
      c.rendezvous (.shfl sub f) (c.memberMask m) fun ls =>
        if ls.isEmpty then .ok c.s
        else do
          let a := c.srcA f .b64
          let bad := ls.filterMap fun l => (laneRowErr [(a, none), (c.srcB f .b64, none)] l).map fun e => (l, e)
          match bad with
          | (_, code, fld, d, i) :: _ => .error (.fault ⟨code, fld, d, i, 0, maskOf (bad.map (·.1))⟩)
          | [] => .ok (c.s.putReg c.r f.d.toNat (ls.map fun l => (l, ⟨a.val l, .raw, false⟩)) .general)
    else do
      let s' ← c.doShfl sub f c.act c.act.contains
      .ok (s', .advance)

/-- The four `vote` operations (R122). -/
def vote (i : Instr) (kind : Nat) (f : VF) (s : State) : Host.Outcome State Fault Refusal :=
  issue i { memberNames f (2 ≤ kind) 0 with codes := if f.member then [(28, f.c.toNat)] else [] } s fun c =>
    if c.act.isEmpty then .ok (c.s, .advance)
    else if f.member then do
      let m := c.src 4 f.c 0 0
      c.checkLow [m]
      let mask := c.memberMask m
      c.rendezvous i mask fun ls => .ok (if ls.isEmpty then c.s else c.doVote kind f (c.act.filter fun l => mask.getLsbD l) ls)
    else .ok (c.doVote kind f c.act c.act, .advance)

def execVoteAny (f : VF) (s : State) : Host.Outcome State Fault Refusal := vote (.voteAny f) 0 f s
def execVoteAll (f : VF) (s : State) : Host.Outcome State Fault Refusal := vote (.voteAll f) 1 f s
def execVoteBallot (f : VF) (s : State) : Host.Outcome State Fault Refusal := vote (.voteBallot f) 2 f s
def execVoteCount (f : VF) (s : State) : Host.Outcome State Fault Refusal := vote (.voteCount f) 3 f s

end Sys2Proof.Machine
end

