-- ==== Sys2Proof/Machine/Control.lean ====
section
/-! DEFINITION. Control flow (R130, R131), exit (R132), join (R133), the gallery (R44, R134 to R137), yield and nop (R138), fibre and
team barriers (R139 to R143). -/

namespace Sys2Proof.Machine

/-! ## Transfers (R130, R131) -/

/-- Addresses wrap at 2^56 (R82). -/
def wrap56 (x : Word) : Word := x &&& 0xFFFFFFFFFFFFFF#64
/-- The header that follows a clause-ending instruction. -/
def Ctx.hdrAfter (c : Ctx) : Word := c.is.addr + 8

/-- Every active thread's target passes R74, or the instruction faults with the lanes that fail. -/
def Ctx.checkTargets (c : Ctx) (fld : Nat) (tgt : Nat → Word) : Except Exc Unit :=
  match c.act.filter fun l => !targetOk c.lr (tgt l) with
  | [] => .ok ()
  | l :: ls => c.faultLanes 3 fld 0 (tgt l) (l :: ls)

/-- Active threads stand at their targets, the other threads of the bundle at the next header (R71). -/
def Ctx.jump (c : Ctx) (s : State) (tgt : Nat → Word) : State :=
  let y := wordY c.is.word
  s.modFibre c.r fun f => { f with
    threads := f.threads.zipIdx.map fun (t, l) =>
      if c.act.contains l then { t.standAt (tgt l) none with prevY := y }
      else if c.bundle.contains l then { t.standAt c.hdrAfter none with prevY := y } else t }

/-- The common course of `bra`, `brx`, `call` and `ret`. -/
def Ctx.transfer (c : Ctx) (fld : Nat) (tgt : Nat → Word) (link : Option Nat) : Act := do
  c.checkTargets fld tgt
  let s := match link with
    | some n => c.write c.s n (c.act.map fun l => (l, ⟨c.hdrAfter, .raw, false⟩)) .uniform
    | none => c.s
  .ok (c.jump s tgt, .placed)

/-- 8 × offset. -/
def bOffset (f : BF) : Word := f.off.signExtend 64 * 8

def execBra (f : BF) (s : State) : Host.Outcome State Fault Refusal :=
  issue (.bra f) (bNames f false) s fun c => c.transfer 0 (fun _ => wrap56 (c.is.addr + bOffset f)) none

def execBrx (f : BF) (s : State) : Host.Outcome State Fault Refusal :=
  issue (.brx f) (bNames f true) s fun c => do
    let a := c.plain 2 f.a.toNat
    c.checkRows [(a, none)]
    c.transfer 2 (fun l => wrap56 (a.val l + bOffset f)) none

def execCall (f : BF) (s : State) : Host.Outcome State Fault Refusal :=
  issue (.call f) (bNames f true) s fun c => c.transfer 0 (fun _ => wrap56 (c.is.addr + bOffset f)) (some f.a.toNat)

def execCallX (f : BF) (s : State) : Host.Outcome State Fault Refusal :=
  issue (.callX f) (bNames f true) s fun c => do
    let a := c.plain 2 f.a.toNat
    c.checkRows [(a, none)]
    c.transfer 2 (fun l => wrap56 (a.val l + bOffset f)) (some f.a.toNat)

def execRet (f : BF) (s : State) : Host.Outcome State Fault Refusal :=
  issue (.ret f) (bNames f true) s fun c => do
    let a := c.plain 2 f.a.toNat
    c.checkRows [(a, none)]
    c.transfer 2 a.val none

/-! ## exit and join (R132, R133) -/

/-- Guarded-off threads go on; the active threads exit with all that follows. -/
def execExit (f : SF) (s : State) : Host.Outcome State Fault Refusal :=
  issue (.exit f) (sNames f false false) s fun c =>
    let s := c.s.modFibre c.r fun f => ((f.modThreads c.act fun t => { t with st := .exited }).placeRest).leave
    .ok (s.exitLanes c.r c.act, .placed)

/-- `join`: a rendezvous of all live threads of the fibre. -/
def execJoin (f : SF) (s : State) : Host.Outcome State Fault Refusal :=
  issue (.join f) (sNames f false false) s fun c =>
    c.rendezvous (.join f) (maskOf (List.range c.w)) fun _ => .ok c.s

/-- `join.m`: the mask comes from the lowest active thread. -/
def execJoinM (f : SF) (s : State) : Host.Outcome State Fault Refusal :=
  issue (.joinM f) (sNames f false true) s fun c =>
    if c.act.isEmpty then .ok (c.s, .advance)
    else do
      let m := c.plain 2 f.a.toNat
      c.checkLow [m]
      c.rendezvous (.joinM f) (c.memberMask m) fun _ => .ok c.s

/-! ## The gallery (R134 to R136) -/

/-- Registers of the carry set, all in the private window (R45). -/
def carried (lr : LaunchRec) (k n : Nat) : List Nat := (List.range n).filter fun i => k ≤ i && lr.carryV.getLsbD i

def noBin : Bin := ⟨0, 0, 0, false, []⟩

/-- The bin that takes a thread: an open one of its team and next PC, or a free one (R135). -/
def galleryBin (g : List (Option Bin)) (team : Nat) (pc : Word) (w : Nat) : Option Nat :=
  match g.findIdx? fun b => match b with | some b => b.team == team && b.pc == pc && b.threads.length < w | none => false with
  | some i => some i
  | none => g.findIdx? Option.isNone

/-- A thread enters a bin; the first one opens it. -/
def galleryPut (g : List (Option Bin)) (i : Nat) (team : Nat) (pc : Word) (now : Nat) (x : FiledThread) : List (Option Bin) :=
  g.modify i fun b => match b with
    | some b => some { b with threads := b.threads ++ [x] }
    | none => some ⟨team, pc, now, false, [x]⟩

/-- What a thread carries with it (R44, R134). -/
def Ctx.filedThread (c : Ctx) (l : Nat) (pc : Word) : FiledThread :=
  let t := c.f.thread l
  ⟨{ t with st := .waiting, pc := pc, clause := none, filed := true }, (carried c.lr (c.t.slotOf c.f).shared.length (c.t.nregs c.f)).map fun n =>
    (n, c.row n l), some c.r.fid, l⟩

/-- One thread is filed, or stays in its lane at its next PC when no bin is free (R135). -/
def Ctx.fileOne (c : Ctx) (s : State) (l : Nat) (pc : Word) : State :=
  match galleryBin (s.core c.core).gallery c.t.uid pc c.w with
  | some i =>
    (s.modCore c.core fun co => { co with gallery := galleryPut co.gallery i c.t.uid pc s.clock (c.filedThread l pc) }).modFibre c.r
      fun f => f.modThread l fun t => { t with st := .absent }
  | none => s

/-- Outstanding register writes of the fibre (R134). -/
def Fibre.writesOpen (f : Fibre) : Bool := f.ops.any fun (o : Op) => o.isWindow || !o.writes.isEmpty || !o.preds.isEmpty

/-- Filing of the active threads in lane order. The core keeps the clock and the fibre position (R135). -/
def Ctx.file (c : Ctx) (tgt : Nat → Word) : Act :=
  if c.act.isEmpty then .ok (c.jump c.s tgt, .placed)
  else if c.f.writesOpen then .error .drain
  else .ok ((c.act.foldl (fun (s : State) l => c.fileOne s l (tgt l)) (c.jump c.s tgt)).modCore c.core fun co =>
    { co with reform := some (c.s.clock, c.r.fid) }, .placed)

/-- On the handler path `reform` is an illegal instruction (R337). -/
def execReform (f : SF) (s : State) : Host.Outcome State Fault Refusal :=
  issue (.reform f) (sNames f false false) s fun c =>
    if c.f.handler.isSome then c.illegal 56 else c.file fun _ => c.hdrAfter

def execReformX (f : SF) (s : State) : Host.Outcome State Fault Refusal :=
  issue (.reformX f) (sNames f false true) s fun c =>
    if c.f.handler.isSome then c.illegal 56
    else do
      let a := c.plain 2 f.a.toNat
      c.checkRows [(a, none)]
      c.checkTargets 2 a.val
      c.file a.val

/-- No thread of the team on the core is Issuing or Waiting-path: a waiting thread of a frozen fibre is Frozen (R136). -/
def Team.idleOn (t : Team) (core : Nat) : Bool :=
  t.fibres.all fun f => t.coreOf f.fid != core || (List.range f.width).all fun l =>
    !(f.thread l).live || match (f.thread l).st with
      | .issuing => false
      | .waiting => f.frozen l
      | _ => true

def Bin.full (b : Bin) (w : Nat) : Bool := w ≤ b.threads.length

/-- The bin is eligible for a draw (R136). -/
def State.binReady (s : State) (core : Nat) (b : Bin) : Bool :=
  match s.team? b.team with
  | some t => b.full (s.recOf t).width || b.aged || b.opened + (s.recOf t).rage ≤ s.clock || t.idleOn core
  | none => false

/-- Full bins before others, the older of two others, and of two that opened together the lower next PC (R136). -/
def binBefore (w : Bin → Nat) (a b : Bin) : Bool :=
  let fa := a.full (w a)
  let fb := b.full (w b)
  if fa != fb then fa
  else if a.opened == b.opened then a.pc.toNat < b.pc.toNat
  else !fa && a.opened < b.opened

/-- The lowest free fibre position of the team on a core: none of its threads is live and unfiled (R136). -/
def Team.freeFid (t : Team) (core : Nat) : Option Nat :=
  (t.fibres.filter fun f => t.coreOf f.fid == core && f.live.isEmpty).map (·.fid) |>.foldl
    (fun m x => match m with | none => some x | some y => some (min x y)) none

def State.widthOf (s : State) (b : Bin) : Nat := match s.team? b.team with | some t => (s.recOf t).width | none => 0

/-- A bin is drawn next: it is eligible, a position is free, and no such bin goes before it. -/
def State.drawDue (s : State) (core i : Nat) : Bool :=
  let g := (s.core core).gallery
  let can (b : Bin) : Bool := s.binReady core b && (match s.team? b.team with | some t => (t.freeFid core).isSome && (s.ctx t.ctx).saving.isNone | none => false)
  match g.getD i none with
  | some b => can b && g.all fun x => match x with | some x => !(can x && binBefore s.widthOf x b) | none => true
  | none => false

/-- A thread as it stands in its new lane (R44). -/
def drawThread (lr : LaunchRec) (x : FiledThread) : Thread :=
  { x.thread with
    st := .waiting
    preds := x.thread.preds &&& lr.carryP.setWidth 8
    walkers := List.replicate 7 none
    served := 0
    filed := true
    prevY := false }

def emptyLane (t : Thread) : Thread := { t with st := .absent, arrived := 0 }

/-- A private register of a fresh fibre: carried rows, a team-uniform value, or zero (R44). -/
def drawReg (lr : LaunchRec) (w n : Nat) (xs : List FiledThread) : VReg :=
  let rowOf (x : FiledThread) : Row := ((x.regs.find? (·.1 == n)).map (·.2)).getD .zero
  if !lr.carryV.getLsbD n then .zero w
  else if lr.carryU.getLsbD n then ⟨List.replicate w ((xs.head?.map rowOf).getD .zero), .uniform⟩
  else ⟨(List.range w).map fun l => ((xs[l]?).map rowOf).getD .zero, .general⟩

/-- The fresh fibre at a free position (R44, R136, R139). Operations of the position's former threads go on without their writes. What
R44 does not name starts as at placement: $tvec of the launch record, and $tpc, $tmask and the fault record zero (assumption 114). -/
def drawFibre (lr : LaunchRec) (k : Nat) (old : Fibre) (xs : List FiledThread) : Fibre :=
  let w := lr.width
  { old with
    priv := (List.range lr.priv).map fun i => drawReg lr w (k + i) xs
    threads := (List.range w).map fun l => match xs[l]? with
      | some x => drawThread lr x
      | none => emptyLane noThread
    tiles := List.replicate 16 (List.replicate 8 0)
    dphase := 0
    tvec := lr.tvec
    tpc := 0
    tmask := 0
    frec := ⟨0, 0, 0, 0⟩
    handler := none
    pageWait := none
    pending := []
    issue := none
    fetched := false
    issues := 0
    ops := old.ops.map fun (o : Op) => { o with ahead := .async, lanes := 0, writes := [], preds := [] }
    drawn := true
    arriveStall := none
    stopY := false }

/-- Barrier counts of the position (R139). -/
def resetBarCounts (pos : Nat) (sl : Slot) : Slot :=
  { sl with bars := sl.bars.map fun b => { b with arrivals := b.arrivals.set pos b.phases, waits := b.waits.set pos b.phases } }

/-- The position no longer has former threads in the gallery (R132). -/
def forgetFid (team fid : Nat) (b : Bin) : Bin :=
  if b.team != team then b
  else { b with threads := b.threads.map fun x => if x.fid == some fid then { x with fid := none } else x }

/-- A bin moves into the lowest free position of its team, and the joins that its threads kept open in the fibres they left are
tested again (R133, R136). Without a free position it stays eligible. -/
def State.drawBin (s : State) (core bin : Nat) : State :=
  match (s.core core).gallery.getD bin none with
  | none => s
  | some b =>
    match s.team? b.team with
    | none => s
    | some t =>
      match t.freeFid core with
      | none => s.modCore core fun c => { c with gallery := c.gallery.set bin (some { b with aged := true }) }
      | some fid =>
        let lr := s.recOf t
        let s1 := s.modTeam t.uid fun t =>
          let slot := ((t.fibre? fid).map (·.slot)).getD 0
          let sl := t.slots.getD slot noSlot
          { t.modFibre fid fun f => drawFibre lr sl.shared.length f b.threads with
            slots := t.slots.modify slot (resetBarCounts (fid - sl.first)) }
        let s2 := s1.modCore core fun c => { c with gallery := c.gallery.set bin none }
        ({ s2 with cores := s2.cores.map fun (c : Core) =>
          { c with gallery := c.gallery.map fun (x : Option Bin) => x.map (forgetFid t.uid fid) } }).settleTeam t.uid

/-- A bin number in the order in which the core takes bins. -/
def State.takeOrder (s : State) (core i : Nat) : List Nat → List Nat
  | [] => [i]
  | j :: js =>
    let g (k : Nat) : Bin := ((s.core core).gallery.getD k none).getD noBin
    if binBefore s.widthOf (g i) (g j) then i :: j :: js else j :: State.takeOrder s core i js

/-- The other bins of a core that are eligible, in the order of R136. -/
def State.otherBins (s : State) (core bin : Nat) : List Nat :=
  ((List.range 64).filter fun k => k != bin && (match (s.core core).gallery.getD k none with
    | some b => s.binReady core b && (match s.team? b.team with | some t => (s.ctx t.ctx).saving.isNone | none => false)
    | none => false)).foldl (fun l k => s.takeOrder core k l) []

/-- GALLERY_DRAW: bin `bin` of a core is drawn, and after it, in the same clock, every other bin that is eligible now (R136). -/
def execGalleryDraw (core bin : Nat) (s : State) : Host.Outcome State Fault Refusal :=
  if s.drawDue core bin then .next ((bin :: s.otherBins core bin).foldl (fun (s : State) k => s.drawBin core k) s)
  else .fault .notDue

/-- BIN_AGE_LIMIT: the bin's age has reached the launch's reform age limit (R136). -/
def execBinAgeLimit (core bin : Nat) (s : State) : Host.Outcome State Fault Refusal :=
  match (s.core core).gallery.getD bin none with
  | none => .fault .notDue
  | some b =>
    match s.team? b.team with
    | none => .fault .notDue
    | some t =>
      if b.aged || s.clock < b.opened + (s.recOf t).rage then .fault .notDue
      else .next (s.modCore core fun c => { c with gallery := c.gallery.set bin (some { b with aged := true }) })

/-! ## yield and nop (R138) -/

def execYield (f : SF) (s : State) : Host.Outcome State Fault Refusal :=
  issue (.yield f) (sNames f false false) s fun c =>
    .ok (if c.act.isEmpty then c.s else c.s.passSlot c.r, .advance)

def execNop (f : SF) (s : State) : Host.Outcome State Fault Refusal :=
  issue (.nop f) (sNames f false false) s fun c => .ok (c.s, .advance)

/-! ## Fibre barriers (R140, R141) -/

def Ctx.slot (c : Ctx) : Slot := c.t.slotOf c.f
def noBar : FBar := ⟨0, 0, [], []⟩
def Ctx.bar (c : Ctx) (id : Nat) : FBar := c.slot.bars.getD id noBar
def Ctx.pos (c : Ctx) : Nat := c.r.fid - c.slot.first

def State.modBar (s : State) (uid slot id : Nat) (g : FBar → FBar) : State :=
  s.modTeam uid fun t => { t with slots := t.slots.modify slot fun sl => { sl with bars := sl.bars.modify id g } }

/-- The stall of a second arrival in one phase, with the time since when it lasts (R141, R355). -/
def stallArrive (id : Nat) (now : Word) (f : Fibre) : Fibre :=
  match f.arriveStall with
  | some (k, t) => if k == id then { f with arriveStall := some (k, t) } else { f with arriveStall := some (id, now) }
  | none => { f with arriveStall := some (id, now) }

def arriveBar (pos n : Nat) (b : FBar) : FBar :=
  { b with target := n, arrivals := b.arrivals.set pos (b.arrivals.getD pos 0 + 1) }

def State.checkBar (s : State) (uid slot id : Nat) : State :=
  s.modTeam uid fun t => t.fbarStep slot s.time id

def execFbarArrive (f : SF) (s : State) : Host.Outcome State Fault Refusal :=
  let id := f.imm.toNat % 4
  let n := f.imm.toNat / 4
  issue (.fbarArrive f) (sNames f false false) s fun c =>
    if c.slot.count < n then c.illegal 20
    else if c.act.isEmpty then .ok (c.s, .advance)
    else if (c.bar id).phases < (c.bar id).arrivals.getD c.pos 0 then .error (.hold (stallArrive id c.s.time))
    else if !c.arrivalOk then .error .drain
    else
      let s := (c.s.modFibre c.r fun f => { f with arriveStall := none }).modBar c.r.team c.f.slot id (arriveBar c.pos n)
      .ok (s.checkBar c.r.team c.f.slot id, .advance)

def waitBar (pos : Nat) (b : FBar) : FBar := { b with waits := b.waits.set pos (b.waits.getD pos 0 + 1) }

def execFbarWait (f : SF) (s : State) : Host.Outcome State Fault Refusal :=
  let id := f.imm.toNat % 4
  issue (.fbarWait f) (sNames f false false) s fun c =>
    if c.act.isEmpty then .ok (c.s, .advance)
    else
      let k := (c.bar id).waits.getD c.pos 0
      let s := c.s.modBar c.r.team c.f.slot id (waitBar c.pos)
      if k < (c.bar id).phases then .ok (s, .advance)
      else .ok (s.modFibre c.r fun g =>
        (g.modThreads c.act fun t => t.stopAt c.is (.blocked (.fbar id k) (.fbarWait f) s.time)).placeRest, .stopped)

/-! ## Team barriers (R142, R143) -/

/-- Arrival of one thread: a thread whose bit is set waits for the phase to end and then arrives anew. -/
def arriveTbar (id : Nat) (wait : Bool) (is : Issue) (i : Instr) (now : Word) (t : Thread) : Thread :=
  if hasArrived id t then t.stopAt is (.blocked (.tbar id true wait) i now)
  else if wait then setArrived id (t.stopAt is (.blocked (.tbar id false true) i now))
  else setArrived id t

def teamBarrier (i : Instr) (wait : Bool) (f : SF) (s : State) : Host.Outcome State Fault Refusal :=
  let id := f.imm.toNat % 16
  issue i (sNames f false false) s fun c =>
    if c.act.isEmpty then .ok (c.s, .advance)
    else if !c.arrivalOk then .error .drain
    else
      let stops := wait || c.act.any fun l => hasArrived id (c.f.thread l)
      let s := c.s.modFibre c.r fun g => g.modThreads c.act (arriveTbar id wait c.is i c.s.time)
      let s := if stops then s.modFibre c.r fun g => g.placeRest.leave else s
      .ok (s.tbarCheck c.r.team id 4, if stops then .stopped else .advance)

def execTbar (f : SF) (s : State) : Host.Outcome State Fault Refusal := teamBarrier (.tbar f) true f s
def execTbarArrive (f : SF) (s : State) : Host.Outcome State Fault Refusal := teamBarrier (.tbarArrive f) false f s

end Sys2Proof.Machine
end

