-- ==== Sys2Proof/Machine/System.lean ====
section
/-! DEFINITION. Special registers (R27 to R30, R215) and the system instructions (R334 to R341). -/

namespace Sys2Proof.Machine

/-! ## $tape (R215) -/

/-- The tape area of a launch: context and base name it (R211). -/
def State.area? (s : State) (lr : LaunchRec) : Option TapeArea :=
  if lr.tquota == 0 then none else s.areas.find? fun a => a.ctx == lr.ctx && a.base == lr.tbase

def TapeArea.tape? (a : TapeArea) (team tid : BitVec 32) : Option Tape := a.tapes.find? fun t => t.team == team && t.tid == tid

/-- The next item that `tpop` would take: a record, or a recompute checkpoint (R221, R224). -/
def Tape.peek (t : Tape) : Option (TapeRec × Bool) :=
  match t.localRecs with
  | r :: _ => some (r, false)
  | [] => t.spans.findSome? fun sp => match sp.recs with
    | r :: _ => some (r, false)
    | [] => if sp.rc then sp.ckpt.map fun c => (c, true) else none

def bitIf (b : Bool) (k : Nat) : Nat := if b then 2 ^ k else 0

/-- $tape of a thread; a thread without a tape has nothing to pop. -/
def tapeWord (a : Option TapeArea) (team tid : BitVec 32) : Word :=
  let exh := bitIf ((a.map (·.exhausted)).getD false) 6
  match a.bind fun a => a.tape? team tid with
  | none => BitVec.ofNat 64 (2 ^ 7 + exh)
  | some t =>
    let cur := t.spans.head?
    let closed := (t.spans.filter fun sp => !sp.isOpen).length
    let recs := (cur.map fun sp => sp.recs.length).getD 0
    BitVec.ofNat 64 (min closed (2 ^ 24 - 1) * 2 ^ 40 + min recs 65535 * 2 ^ 24 + bitIf t.peek.isNone 7 + exh + bitIf t.conv 5 +
      bitIf t.replay 4 + bitIf ((cur.map (·.rc)).getD false) 3 + bitIf ((cur.map (·.isOpen)).getD false) 2)

/-! ## sget and sset (R30, R33) -/

/-- The value of a special register for lane l. -/
def Ctx.special (c : Ctx) (code l : Nat) : Word :=
  let t := c.f.thread l
  match code with
  | 0x00 => t.tid.setWidth 64
  | 0x01 => BitVec.ofNat 64 (c.lr.width * c.lr.fibres)
  | 0x02 => BitVec.ofNat 64 l
  | 0x03 => BitVec.ofNat 64 c.r.fid
  | 0x04 => c.t.index.setWidth 64
  | 0x05 => BitVec.ofNat 64 (c.lr.nteam % 2 ^ 32)
  | 0x06 => BitVec.ofNat 64 (c.t.core % 64)
  | 0x07 => BitVec.ofNat 64 (c.t.core % 64 / 4)
  | 0x08 => BitVec.ofNat 64 (c.t.core / 64)
  | 0x09 => c.s.pkg.setWidth 64
  | 0x0A => c.s.time
  | 0x0B => c.amask
  | 0x0C => t.flags
  | 0x0D => c.f.dphase.setWidth 64
  | 0x0E => c.f.tvec
  | 0x0F => c.f.frec.w0
  | 0x10 => c.f.tpc
  | 0x11 => c.f.tmask
  | 0x12 => tapeWord (c.s.area? c.lr) c.t.index t.tid
  | _ => t.rcpc

/-- The shape of a full read (R33). -/
def Ctx.specialShape (c : Ctx) (code : Nat) : Shape :=
  match code with
  | 0x00 => if c.f.drawn then .general else .affine ((c.f.thread 0).tid.setWidth 64) 1
  | 0x02 => .affine 0 1
  | 0x0C | 0x12 | 0x13 => .general
  | _ => .uniform

def execSget (f : SF) (s : State) : Host.Outcome State Fault Refusal :=
  issue (.sget f) (sNames f true false) s fun c =>
    .ok (c.write c.s f.d.toNat (c.act.map fun l => (l, ⟨c.special f.imm.toNat l, .raw, false⟩)) (c.specialShape f.imm.toNat), .advance)

/-- Codes that `sset` may write: $flags, $dphase, $tvec, $tpc and $tmask (R27). -/
def ssetCode (code : Nat) : Bool := code == 0x0C || code == 0x0D || code == 0x0E || code == 0x10 || code == 0x11

/-- A write of a register of fibre scope. -/
def setSpecial (code : Nat) (v : Word) (f : Fibre) : Fibre :=
  match code with
  | 0x0D => { f with dphase := v.setWidth 5 }
  | 0x0E => { f with tvec := v }
  | 0x10 => { f with tpc := v }
  | 0x11 => { f with tmask := v }
  | _ => f

/-- INFO of a privileged-instruction fault (R328). -/
def Ctx.privileged (c : Ctx) {α : Type} : Except Exc α := c.fault 0x12 0 0 (c.is.word.toNat / 2 ^ 32)

def execSset (f : SF) (s : State) : Host.Outcome State Fault Refusal :=
  let code := f.imm.toNat
  issue (.sset f) (sNames f false true) s fun c =>
    if (code == 0x10 || code == 0x11) && c.f.handler.isNone then c.privileged
    else if !ssetCode code then c.illegal 20
    else if c.act.isEmpty then .ok (c.s, .advance)
    else do
      let a := c.plain 2 f.a.toNat
      if code == 0x0C then
        c.checkRows [(a, none)]
        .ok (c.s.modFibre c.r fun g => c.act.foldl (fun (g : Fibre) l => g.modThread l fun t => { t with flags := w1c t.flags (a.val l) }) g, .advance)
      else
        c.checkLow [a]
        .ok (c.s.modFibre c.r (setSpecial code (a.val c.low)), .advance)

/-! ## System instructions -/

def execTrap (f : SF) (s : State) : Host.Outcome State Fault Refusal :=
  issue (.trap f) (sNames f false false) s fun c =>
    if c.act.isEmpty then .ok (c.s, .advance) else c.fault 0x10 0 0 f.imm.toNat

def execBrk (f : SF) (s : State) : Host.Outcome State Fault Refusal :=
  issue (.brk f) (sNames f false false) s fun c =>
    if c.act.isEmpty then .ok (c.s, .advance) else c.fault 0x11 0 0 f.imm.toNat

/-- RETURN FROM AN EXCEPTION (R336): a rendezvous of the handler path. On completion the lanes of $tmask resume at $tpc and the
other lanes exit (`State.tretDone`). -/
def execTret (f : SF) (s : State) : Host.Outcome State Fault Refusal :=
  issue (.tret f) (sNames f false false) s fun c =>
    if c.act.isEmpty then .ok (c.s, .advance)
    else match c.f.handler with
      | none => c.privileged
      | some h =>
        if !c.s.canPost then .error .stall
        else
          let s := (c.blockMembers c.s (.tret f) c.act h.lanes).modFibre c.r Fibre.leave
          .ok (s.recheck c.r, .stopped)

def faultWord (e : FaultRec) (n : Nat) : Word :=
  match n with | 0 => e.w0 | 1 => e.w1 | 2 => e.w2 | _ => e.w3

def execTinv (f : SF) (s : State) : Host.Outcome State Fault Refusal :=
  issue (.tinv f) (sNames f true false) s fun c =>
    .ok (c.write c.s f.d.toNat (c.act.map fun l => (l, ⟨faultWord c.f.frec f.imm.toNat, .raw, false⟩)) .uniform, .advance)

/-- `cop` executes in a system context only (R340). -/
def Ctx.cop (c : Ctx) (k : Act) : Act :=
  if c.act.isEmpty then .ok (c.s, .advance)
  else if !(c.s.ctx c.t.ctx).sys then c.privileged
  else k

def execCopInv (f : SF) (s : State) : Host.Outcome State Fault Refusal :=
  issue (.copInv f) (sNames f false true) s fun c => c.cop do
    let a := c.plain 2 f.a.toNat
    c.checkLow [a]
    .ok (c.s.invalidate c.t.ctx (some (a.val c.low).toNat), .advance)

def execCopInvall (f : SF) (s : State) : Host.Outcome State Fault Refusal :=
  issue (.copInvall f) (sNames f false false) s fun c => c.cop (.ok (c.s.invalidate c.t.ctx none, .advance))

/-- `halt` terminates the context with cause halt (R339, R359). It stalls while the event of the termination cannot be held (R369). -/
def execHalt (f : SF) (s : State) : Host.Outcome State Fault Refusal :=
  issue (.halt f) (sNames f false true) s fun c =>
    if c.act.isEmpty then .ok (c.s, .advance)
    else do
      let a := c.plain 2 f.a.toNat
      c.checkLow [a]
      if !c.s.canPost then .error .stall
      else .ok (c.s.terminate c.t.ctx 5 0 ((a.val c.low).toNat % 2 ^ 32), .placed)

end Sys2Proof.Machine
end

