-- ==== Sys2Proof/Machine/Clause.lean ====
section
/-! DEFINITION. Clauses: fetch, header checks, path service and the slot (R37 to R41, R67 to R73, R176), and the landing and completion
of outstanding operations (R86, R87, R152). -/

namespace Sys2Proof.Machine

/-! ## Headers (R67 to R70) -/

def hdrClass (h : Nat) : Nat := h / 2 ^ 60
def hdrCount (h : Nat) : Nat := h / 2 ^ 56 % 16 + 1
def hdrYield (h : Nat) : Bool := bit h 47

/-- Class of an allocated major (R69, R90). -/
def majorClass (m : Nat) : Option Nat :=
  if 0x01 ≤ m && m ≤ 0x1A || 0x20 ≤ m && m ≤ 0x26 || 0x40 ≤ m && m ≤ 0x55 || 0x60 ≤ m && m ≤ 0x68 then some 0
  else if 0x70 ≤ m && m ≤ 0x7A then some 1
  else if 0x80 ≤ m && m ≤ 0x90 then some 2
  else if 0xA0 ≤ m && m ≤ 0xAA then some 3
  else if 0xB0 ≤ m && m ≤ 0xB9 then some 4
  else if 0xC0 ≤ m && m ≤ 0xC9 then some 5
  else if 0xD0 ≤ m && m ≤ 0xD6 then some 6
  else if 0xE0 ≤ m && m ≤ 0xE7 then some 7
  else none

/-- bra, brx, call, ret, exit, reform and tret (R69). -/
def endsClause (m : Nat) : Bool := (0x70 ≤ m && m ≤ 0x74) || m == 0x76 || m == 0xE3

/-- A word's major fits the class at its place (R69); reserved majors are not header checks. -/
def fitsClass (cls : Nat) (last : Bool) (m : Nat) : Bool :=
  match majorClass m with
  | none => true
  | some k => cls == 15 || k == cls || m == 0x7A || (endsClause m && last)

def wordMajor (w : Word) : Nat := w.toNat / 2 ^ 56

/-- The first header check that fails: 1 class, 2 reserved bits, 3 majors, 4 clause-ending position (R70, R328). -/
def headerCheck (h : Nat) (ws : List Word) : Option Nat :=
  let n := ws.length
  if 8 ≤ hdrClass h && hdrClass h ≤ 14 then some 1
  else if h / 2 ^ 32 % 2 ^ 15 != 0 then some 2
  else if ws.zipIdx.any fun (w, i) => !fitsClass (hdrClass h) (i + 1 == n) (wordMajor w) then some 3
  else if ws.zipIdx.any fun (w, i) => endsClause (wordMajor w) && i + 1 != n then some 4
  else none

/-! ## Fetch -/

/-- A fetch of one word passes its checks, or fails at its address (R70). -/
def State.fetchWord (s : State) (w : Who) (va : Nat) : Except (Nat × LaneErr) Word :=
  match s.check w .exec va with
  | .ok _ => .ok (BitVec.ofNat 64 (s.loadWord w.ctx va))
  | .error e => .error (va, e)

/-- Words at consecutive addresses. -/
def State.fetchWords (s : State) (w : Who) (va : Nat) : Nat → Except (Nat × LaneErr) (List Word)
  | 0 => .ok []
  | n + 1 =>
    match s.fetchWord w va with
    | .error e => .error e
    | .ok x => match State.fetchWords s w (va + 8) n with
      | .error e => .error e
      | .ok xs => .ok (x :: xs)

/-- The header and the words of the clause at an address. -/
def State.fetchClause (s : State) (w : Who) (hdr : Nat) : Except (Nat × LaneErr) (Nat × List Word) :=
  match s.fetchWord w hdr with
  | .error e => .error e
  | .ok h => match s.fetchWords w (hdr + 8) (hdrCount h.toNat) with
    | .error e => .error e
    | .ok ws => .ok (h.toNat, ws)

/-! ## The slot (R40, R41, R176) -/

/-- The word that issued last before the end-of-clause wait point. -/
def Issue.lastWord (i : Issue) : Word := i.words.getD (i.idx - 1) 0

/-- The fibre that holds the slot hands it on without issuing: it has no live thread, it is frozen at a page request, it stands at an
end-of-clause wait point or a fetch miss after an instruction with Y, or all its paths are stopped and the instruction of the last stop
had Y set (R40, R41, R89, R176). The Y bit of a path is that of any of its threads (assumption 119). -/
def Fibre.handsOn (f : Fibre) : Bool :=
  f.live.isEmpty || f.pageWait.isSome ||
  match f.issue with
  | some i => i.ended && wordY i.lastWord
  | none => match f.select with
    | none => f.stopY
    | some p => (!f.fetched || f.atWait (f.pathLanes p)) && (f.pathLanes p).any fun l => (f.thread l).prevY

/-- The fibre may issue: it holds its slot, or it is the next ready fibre after a holder that hands the slot on; a team that is being saved
issues nothing (R350). -/
def State.mayIssue (s : State) (t : Team) (f : Fibre) : Bool :=
  let h := (t.slotOf f).holder
  (s.ctx t.ctx).saving.isNone && (h == f.fid || (match t.fibre? h with
    | some g => g.handsOn && s.nextReady t g == some f.fid
    | none => true))

/-! ## CLAUSE_ISSUE and PATH_AGEING (R37, R70, R72, R173) -/

/-- A failed read of `wait` stops the fibre once it is outside its handler (R161). -/
def Fibre.waitFault (f : Fibre) : Option (Pending × Word × Word) :=
  if f.handler.isSome then none
  else f.pending.findSome? fun p => match p.due with | .wait pc hdr => some (p, pc, hdr) | _ => none

/-- The threads whose read by one `wait` has failed stop together (R161): their failures of one code become one. -/
def Fibre.joinWaits (f : Fibre) (p : Pending) : Pending × Fibre :=
  let same (q : Pending) : Bool := q.due == p.due && q.code == p.code
  let one := { p with lanes := (f.pending.filter same).foldl (fun (m : Word) q => m ||| q.lanes) 0 }
  (one, { f with pending := one :: f.pending.filter fun q => !same q })

/-- The clause begins: its threads form the bundle. -/
def beginClause (lanes : List Nat) (i : Issue) (f : Fibre) : Fibre :=
  { f with
    issue := some i
    fetched := false
    issues := f.issues + 1
    threads := f.threads.zipIdx.map fun (t, l) => if lanes.contains l then { t with st := .issuing, served := f.issues + 1 } else t }

def pendFlt (p : Pending) : Flt := ⟨p.code, 0, p.detail, p.info, 0, p.lanes⟩

/-- The path selected is fetched and checked, a pending fault is taken, and the clause issues once no thread stands at a wait point and
its wait mask is met. A path that stands inside a clause goes on in it, with no mask (R336). -/
def State.serve (s : State) (r : FibreRef) (t : Team) (f : Fibre) (p : Path) : State :=
  let who : Who := ⟨t.ctx, t.coreOf f.fid, t.uid⟩
  let lanes := f.pathLanes p
  let hdr := p.2.getD p.1
  let stop (t : State) : State := if f.mustWait then s else t
  match s.fetchClause who hdr.toNat with
  | .error (va, e) =>
    match e.host with
    | some lvl => stop <| (s.requestPage t.ctx va (t.coreOf f.fid / 64) kindFetch lvl).pageStop r lanes p.1 p.2 [va]
        ⟨e.code, 10, e.detail, 0, BitVec.ofNat 64 va, maskOf lanes⟩
    | none => stop <| s.trap r lanes hdr hdr ⟨e.code, 10, e.detail, 0, BitVec.ofNat 64 va, maskOf lanes⟩
  | .ok (h, ws) =>
    match headerCheck h ws with
    | some d => stop <| s.trap r lanes hdr hdr ⟨2, 9, d, h / 2 ^ 32, 0, maskOf lanes⟩
    | none =>
      let due := f.pending.find? fun q => if p.2.isSome then q.atIssue f lanes else q.atHeader f lanes (hdrMask h)
      match due with
      | some q => stop <| s.trap r lanes hdr p.1 (pendFlt q)
      | none =>
        if p.2.isNone && f.atWait lanes then s.stalled r (lanes.any fun l => (f.thread l).prevY)
        else if p.2.isNone && f.masked (hdrMask h) then s.stalled r (hdrYield h)
        else
          let idx := if p.2.isSome then (p.1 - hdr).toNat / 8 - 1 else 0
          ((s.setHolder r.team f.slot r.fid).modTeam r.team fun t => t.stamp f.slot s.tick).modFibre r (beginClause lanes ⟨hdr, BitVec.ofNat 32 h, ws, idx, maskOf lanes, false⟩)

/-- A path can be served: the clause is fetched and the slot allows it. -/
def State.serveDue (s : State) (t : Team) (f : Fibre) : Bool :=
  f.issue.isNone && f.fetched && f.pageWait.isNone && f.select.isSome && s.mayIssue t f

def State.serveEvent (s : State) (r : FibreRef) (ageing : Bool) : Host.Outcome State Fault Refusal :=
  match s.team? r.team, s.fibre? r with
  | some t, some f =>
    match (if ageing then none else f.waitFault) with
    | some (p, pc, hdr) =>
      let one := (f.joinWaits p).1
      if f.mustWait then .fault .notDue
      else .next ((s.modFibre r fun f => (f.joinWaits p).2).trap r (lanesOf one.lanes f.width) hdr pc (pendFlt one))
    | none =>
      match f.select with
      | some p => if s.serveDue t f && f.ageing == ageing then .next (s.serve r t f p) else .fault .notDue
      | none => .fault .notDue
  | _, _ => .fault .notDue

/-- CLAUSE_ISSUE: the lowest path of a fibre is served. -/
def execClauseIssue (r : FibreRef) (s : State) : Host.Outcome State Fault Refusal := s.serveEvent r false

/-- PATH_AGEING: after every 64th clause issue of the fibre, the path that has waited longest is served (R37). -/
def execPathAgeing (r : FibreRef) (s : State) : Host.Outcome State Fault Refusal := s.serveEvent r true

/-- CLAUSE_FETCH_FILL: the clause of the next path is in the clause cache (R176). -/
def execClauseFetchFill (r : FibreRef) (s : State) : Host.Outcome State Fault Refusal :=
  match s.fibre? r with
  | some f =>
    if f.issue.isNone && !f.fetched && f.select.isSome && f.pageWait.isNone then .next (s.modFibre r fun f => { f with fetched := true })
    else .fault .notDue
  | none => .fault .notDue

/-! ## Landing and completion -/

def Fibre.op? (f : Fibre) (id : Nat) : Option Op := f.ops.find? fun (o : Op) => o.id == id

/-- No older operation has one of these threads at its wait point. -/
def Fibre.firstOf (f : Fibre) (o : Op) (lanes : List Nat) : Bool :=
  (f.ops.takeWhile fun x => x.id != o.id).all fun x => (f.waiters x).all fun l => !lanes.contains l

/-- LOOKAHEAD_LANDING: an operation at whose wait point threads stand is complete, and what it holds for them lands (R86). -/
def execLookaheadLanding (r : FibreRef) (op : Nat) (s : State) : Host.Outcome State Fault Refusal :=
  match s.fibre? r with
  | some f =>
    match f.op? op with
    | some o =>
      if o.done && !(f.waiters o).isEmpty && f.firstOf o (f.waiters o) then
        .next ((s.land r o (f.waiters o)).modFibre r Fibre.closeOver)
      else .fault .notDue
    | none => .fault .notDue
  | none => .fault .notDue

/-- Registers that an operation writes. -/
def Op.dests (o : Op) : List Nat := o.writes.map (·.reg)

/-- No older operation that writes a register of this one is still to come: one with a window is complete (R87; assumption 111). -/
def landsNext (o : Op) : List Op → Bool
  | [] => false
  | x :: xs => x.id == o.id || (!((!x.isWindow || !x.done) && x.dests.any o.dests.contains) && landsNext o xs)

/-- SCOREBOARD_LANDING: a complete operation with L = 15 lands (R87). -/
def execScoreboardLanding (r : FibreRef) (op : Nat) (s : State) : Host.Outcome State Fault Refusal :=
  match s.fibre? r with
  | some f =>
    match f.op? op with
    | some o => if o.done && !o.isWindow && landsNext o f.ops then .next (s.landAll r o) else .fault .notDue
    | none => .fault .notDue
  | none => .fault .notDue

/-- An operation is complete. One without a wait point and without held writes leaves the fibre at once. -/
def State.complete1 (s : State) (r : FibreRef) (id : Nat) : State :=
  s.modFibre r fun f => { f with
    ops := (f.ops.map fun (o : Op) => if o.id == id then { o with done := true } else o).filter fun (o : Op) =>
      !(o.id == id && !o.isWindow && o.writes.isEmpty && o.preds.isEmpty) }

def State.modOp (s : State) (r : FibreRef) (id : Nat) (g : Op → Op) : State :=
  s.modFibre r fun f => { f with ops := f.ops.map fun (o : Op) => if o.id == id then g o else o }

/-- Completion of an operation of one kind. -/
def State.completeKind (s : State) (r : FibreRef) (op : Nat) (p : OpKind → Bool) : Host.Outcome State Fault Refusal :=
  match s.fibre? r with
  | some f =>
    match f.op? op with
    | some o => if !o.done && p o.kind then .next (s.complete1 r op) else .fault .notDue
    | none => .fault .notDue
  | none => .fault .notDue

end Sys2Proof.Machine
end

