-- ==== Sys2Proof/Machine/Access.lean ====
section
/-! DEFINITION. Memory accesses of the lanes of an instruction: addresses (R148), the checks of R149 in their order, engine-owned
granules (R153), ordering at domain scope (R296), and reads whose bytes may lie in another package (R151, R294). -/

namespace Sys2Proof.Machine

/-! ## Addresses and checks (R148, R149) -/

/-- A lane's failure: its code, DETAIL, INFO and SRC, the address it formed, and the level of a host-serviced page. -/
structure LaneFail where
  lane : Nat
  code : Nat
  detail : Nat
  info : Nat
  src : Nat
  addr : Nat
  host : Option Nat
deriving DecidableEq, Repr

/-- The lowest failing lane gives code and address, LANES every failing lane (R149). When the lowest lane meets a host-serviced page,
the driver is asked for every such page (R347). -/
def failLanes (kind : Nat) (errs : List LaneFail) : Except Exc Unit :=
  match errs with
  | [] => .ok ()
  | e :: _ =>
    let x : Flt := ⟨e.code, e.src, e.detail, e.info, BitVec.ofNat 64 e.addr, maskOf (errs.map (·.lane))⟩
    if e.host.isSome then .error (.pages (errs.filterMap fun x => x.host.map fun l => (x.addr, l)) kind x) else .error (.fault x)

/-- What one lane of an access reads and where it goes. -/
structure LaneReq where
  regs : List Src                -- address and index rows
  data : List (Src × Option Tag) -- data rows, with the tag they are checked against
  addr : Nat → Nat
  acc : Acc
  align : Nat
  src : Nat

/-- Steps 2 to 7 of R149 for one lane: its physical address, or its first failure. -/
def Ctx.checkLane (c : Ctx) (q : LaneReq) (l : Nat) : Except LaneFail Nat :=
  match q.regs.findSome? fun x => poisErr x l with
  | some (code, fld, d, i) => .error ⟨l, code, d, i, fld, 0, none⟩
  | none =>
    match laneRowErr q.data l with
    | some (code, fld, d, i) => .error ⟨l, code, d, i, fld, q.addr l, none⟩
    | none =>
      match c.s.checkAligned c.who q.acc (q.addr l) q.align with
      | .error e => .error ⟨l, e.code, e.detail, 0, q.src, q.addr l, e.host⟩
      | .ok pa => .ok pa

def Acc.pageKind (a : Acc) : Nat := if a.writes then kindWrite else kindRead

/-- Every active lane passes its checks: lanes with their physical addresses. -/
def Ctx.checkLanes (c : Ctx) (q : LaneReq) : Except Exc (List (Nat × Nat)) := do
  let res := c.act.map fun l => (l, c.checkLane q l)
  failLanes q.acc.pageKind (res.filterMap fun x => match x.2 with | .error e => some e | .ok _ => none)
  .ok (res.filterMap fun x => match x.2 with | .ok pa => some (x.1, pa) | .error _ => none)

/-- Address of each lane: base, index and offset, modulo 2^64 (R148). -/
def addrOf (a : Src) (b : Option Src) (off : Word) (l : Nat) : Nat :=
  (a.val l + (match b with | some b => b.val l | none => 0) + off).toNat

/-- The index operand: code 63 means none (R148). -/
def Ctx.index (c : Ctx) (f : MF) : Option Src := if f.b == 63 then none else some (c.src 3 f.b 0 0)

/-! ## Ranges (R149) -/

/-- The place of a failure in the order of R149; the bounds of a scatter target stand before its translation (R229). -/
def stepOf (code detail : Nat) : Nat :=
  if code == 5 then 0 else if code == 7 && detail == 11 then 1 else if code == 8 then 2 else if code == 6 then 3 else if code == 7 then 4 else 5

def LaneErr.step (e : LaneErr) : Nat := stepOf e.code e.detail

/-- A failed check of a range: SRC, address, error. -/
abbrev RangeErr := Nat × Nat × LaneErr

/-- The failure of the earliest step. -/
def firstByStep (l : List RangeErr) : Option RangeErr :=
  l.foldl (fun (a : Option RangeErr) x => match a with
    | none => some x
    | some y => if x.2.2.step < y.2.2.step then some x else some y) none

/-- Results for the addresses of one lane, or its failure of the earliest step. -/
def laneAll {α : Type} (res : List (Except LaneFail α)) : Except LaneFail (List α) :=
  match res.filterMap fun x => match x with | .error e => some e | .ok _ => none with
  | [] => .ok (res.filterMap fun x => match x with | .ok a => some a | .error _ => none)
  | e :: es => .error (es.foldl (fun a x => if stepOf x.code x.detail < stepOf a.code a.detail then x else a) e)

/-- The failures of ranges stop the instruction; a host-serviced page asks the driver for every such page. -/
def Ctx.raiseRange (c : Ctx) (kind : Nat) (l : List RangeErr) : Except Exc Unit :=
  match firstByStep l with
  | none => .ok ()
  | some (src, va, e) =>
    let x : Flt := ⟨e.code, src, e.detail, 0, BitVec.ofNat 64 va, maskOf [c.low]⟩
    if e.host.isSome then .error (.pages (l.filterMap fun x => x.2.2.host.map fun lvl => (x.2.1, lvl)) kind x) else .error (.fault x)

/-! ## Engine-owned granules (R153, R291) -/

/-- Engine-owned granules among these places. -/
def State.ownedOf (s : State) (ps : List (Place × Nat)) : List Nat := (ps.flatMap fun (p, n) => p.granules n).filter s.engineOwned

/-- An access to an engine-owned granule of the core parks (R153). One to a granule of another core stalls where it cannot be held. -/
def Ctx.granuleCheck (c : Ctx) (ps : List (Place × Nat)) : Except Exc Unit :=
  let owned := c.s.ownedOf ps
  let mine := owned.filter fun g => g / 384 == c.core
  if owned.isEmpty then .ok ()
  else if mine.isEmpty then .error .stall
  else .error (.park (.granule mine.eraseDups))

/-- An access that goes to this package alone, and names an engine-owned granule of another core but none of its own, is held there
until the granule returns (R291; assumption 115). -/
def Ctx.heldThere (c : Ctx) (ps : List (Place × Nat)) : Bool :=
  let owned := c.s.ownedOf ps
  !owned.isEmpty && owned.all (fun g => g / 384 != c.core) && ps.all fun (p, _) => match p with | .far _ => false | _ => true

/-! ## Ordering (R165, R296) -/

/-- Memory accesses of threads that are not performed. -/
def Op.accesses (o : Op) : Bool :=
  !o.done && (match o.kind with
    | .load | .read _ _ | .held _ _ _ | .store | .remoteStore | .access _ (_ :: _) _ | .tile _ | .tileRemote _ | .scatter | .queue _ => true
    | _ => false)

/-- A memory instruction waits for an outstanding acquire, and a release at domain scope for every earlier access (R296). -/
def Ctx.ordered (c : Ctx) (release : Bool) : Except Exc Unit :=
  if c.f.acquiring || (release && c.f.ops.any Op.accesses) then .error .stall else .ok ()

/-- Release at domain scope. -/
def mfReleases (f : MF) : Bool := f.scope && f.order.getLsbD 1

def Ctx.collides (c : Ctx) (reads : Bool) (pa n : Nat) : Bool := c.s.collides c.r reads pa n

/-! ## Reads -/

/-- Bytes at a physical address, and their poison, when they are at hand. -/
abbrev Reader := Nat → Nat → Option (List Byte × Bool)

/-- Local memory, and bytes that have come from other packages. -/
def State.reader (s : State) (bytes : List (Nat × Byte × Bool)) : Reader := fun pa n =>
  match answered bytes pa n with
  | some x => some x
  | none => match s.place pa with
    | .far _ => none
    | p => some (s.readPlace p n)

/-- What a lane's read yields: rows of its destination registers, predicates and flags; or the ranges whose bytes are missing. -/
structure LaneOut where
  rows : List (Nat × Row)
  preds : List (BitVec 3 × Bool)
  fl : Fl
deriving DecidableEq, Repr

abbrev LaneEval := Reader → LaneAcc → Except (List (Nat × Nat)) LaneOut

/-- Whether the address lies in another package. -/
def State.isFar (s : State) (pa : Nat) : Bool := pkgOf pa != s.pkg.toNat

/-- Held writes of a set of registers from the lanes' results; a lane without a result holds its place (R86). -/
def heldWrites (regs : List Nat) (sh : Shape) (outs : List (Nat × LaneOut)) (open_ : List Nat) : List HeldWrite :=
  regs.map fun r => ⟨r, (outs.filterMap fun (l, o) => (o.rows.find? (·.1 == r)).map fun x => (l, x.2)) ++ open_.map fun l => (l, Row.zero), sh⟩

/-- Results fill the rows that an operation holds. -/
def HeldWrite.fill (outs : List (Nat × LaneOut)) (h : HeldWrite) : HeldWrite :=
  { h with rows := (h.rows.filter fun x => !outs.any fun o => o.1 == x.1 && !(o.2.rows.any (·.1 == h.reg))).map fun x =>
      match outs.find? (·.1 == x.1) with
      | some o => match o.2.rows.find? (·.1 == h.reg) with
        | some v => (x.1, v.2)
        | none => x
      | none => x }

/-- A read by the active lanes. Lanes whose bytes are local are read now, and, when all of them are and `anew` is set, possibly once more
before the reply (R151, R288); for the others requests are sent, and the operation waits. -/
def Ctx.readLanesAs (anew : Bool) (c : Ctx) (i : Instr) (classes : List WClass) (la : Nat) (regs : List Nat) (sh : Shape) (lanes : List LaneAcc)
    (eval : LaneEval) : Act :=
  let res := lanes.map fun x => (x, eval (c.s.reader []) x)
  let outs := res.filterMap fun (x, o) => match o with | .ok o => some (x.lane, o) | .error _ => none
  let left := res.filterMap fun (x, o) => match o with | .error rs => some (x, rs) | .ok _ => none
  let preds := outs.flatMap fun (l, o) => o.preds.map fun (p, v) => HeldPred.mk l p v
  let writes := heldWrites regs (if c.full then sh else .general) outs (left.map (·.1.lane))
  let ranges := left.flatMap (·.2)
  if ranges.any fun (a, n) => c.collides true a n then .error .stall
  else
    let kind : OpKind := if left.isEmpty then (if anew then .read i lanes else .load) else .access i (left.map (·.1)) []
    let fl := outs.filterMap fun (l, o) => if o.fl == 0 then none else some (l, o.fl)
    let (id, s) := (if fl.isEmpty then c.s else c.s.orFlags c.r fl).addOp c.r classes kind la (writes.filter fun w => !w.rows.isEmpty) preds []
    match s.readRemote c.t.ctx c.core c.r id ranges with
    | some s => .ok (s, .advance)
    | none => .error .stall

/-- Such a read, made once. -/
def Ctx.readLanes (c : Ctx) : Instr → List WClass → Nat → List Nat → Shape → List LaneAcc → LaneEval → Act := c.readLanesAs false

/-! ## Data read before an instruction issues -/

/-- A request of the stalled instruction is outstanding. -/
def Ctx.earlyDue (c : Ctx) (i : Instr) : Bool :=
  c.f0.ops.any fun (o : Op) => o.kind.isWalkerRead i && c.s.fab.reqs.any fun q => q.fibre == some (c.r, o.id)

/-- Ranges that must be at hand before the instruction can issue: the instruction stalls until remote ones have come. -/
def Ctx.needBy (c : Ctx) (i : Instr) (ranges : List (Nat × Nat)) (lanes : List (Nat × Nat)) : Except Exc Reader :=
  let rd := c.s.reader (c.f0.walkerBytes i)
  let miss := ranges.filter fun (a, n) => (rd a n).isNone
  if miss.isEmpty then .ok rd
  else if c.earlyDue i || miss.any fun (a, n) => c.collides true a n then .error .stall
  else .error (.remote miss lanes)

def Ctx.needNow (c : Ctx) (i : Instr) (ranges : List (Nat × Nat)) : Except Exc Reader := c.needBy i ranges []

/-! ## Cached translations -/

/-- The translations that an access used are cached (R346). -/
def State.cacheAll (s : State) (ctx : Nat) (vas : List Nat) : State :=
  ((vas.map fun v => v / 4096 * 4096).eraseDups).foldl (fun (s : State) v => s.cache ctx v) s

end Sys2Proof.Machine
end

