-- ==== Sys2Proof/Machine/Memory.lean ====
section
/-! DEFINITION. Loads, stores, node accesses, atomics, fences, `wait`, `prefetch`, `lock` and `fpg` (R148 to R162, R169, R172). -/

namespace Sys2Proof.Machine

/-! ## What a memory instruction names -/

def group (bit n k : Nat) : List (Nat × Nat) := (List.range k).map fun j => (bit, n + j)

/-- Format M with `dn` registers at d, an index at b when `idx`, else `bn` data registers at b (R81). -/
def mNames (f : MF) (dn : Nat) (idx : Bool) (bn : Nat) : Names :=
  { regs := group 46 f.d.toNat dn ++ regName 40 f.a ++ (if idx then regName 34 f.b else if bn == 1 then regName 34 f.b else group 34 f.b.toNat bn)
    codes := (40, f.a.toNat) :: (if (idx && f.b != 63) || (!idx && bn == 1) then [(34, f.b.toNat)] else [])
    g := f.g }

/-- Signed 20-bit byte offset (R81). -/
def off20 (f : MF) : Word := f.off.signExtend 64
/-- Signed 16-bit offset in [29:14] (R157, R160). -/
def off16 (f : MF) : Word := (f.off.extractLsb' 0 16).signExtend 64
/-- The value that a load writes (R154). -/
def loadVal (t : ETy) (bs : List Byte) : Word := if t.isFloat then BitVec.ofNat 64 (leNat bs) else extWord t (leNat bs)
def loadTag (t : ETy) : Tag := if t.isFloat then tagOf t else .raw

def Ctx.withState (c : Ctx) (s : State) : Ctx := { c with s := s }

/-- Shape of a load: uniform when all active lanes name one address (R151). -/
def oneAddress (addr : Nat → Nat) (act : List Nat) : Shape :=
  match act with
  | [] => .general
  | l :: ls => if ls.all fun m => addr m == addr l then .uniform else .general

/-! ## ld, ld2, ldn (R155, R156) -/

/-- Registers d to d + cnt − 1 from consecutive elements. -/
def loadEval (t : ETy) (d cnt : Nat) : LaneEval := fun rd x =>
  let w := accBytes t
  match (List.range cnt).mapM fun j => rd (x.pa + w * j) w with
  | none => .error [(x.pa, w * cnt)]
  | some vs => .ok ⟨vs.zipIdx.map fun (v, j) => (d + j, ⟨loadVal t v.1, loadTag t, v.2⟩), [], 0⟩

/-- An access that is held at a granule of another core: outstanding in its classes, its rows to come (R291). -/
def Ctx.hold (c : Ctx) (i : Instr) (classes : List WClass) (la : Nat) (regs : List Nat) (sh : Shape) (accs : List LaneAcc)
    (items : List StoreItem) : Act :=
  let writes := heldWrites regs (if c.full then sh else .general) [] (accs.map (·.lane))
  .ok ((c.s.addOp c.r classes (.held i accs items) la writes [] []).2, .advance)

def loadInstr (i : Instr) (t : ETy) (cnt : Nat) (f : MF) (s : State) : Host.Outcome State Fault Refusal :=
  issue i (mNames f cnt true 0) s fun c => do
    c.ordered false
    let a := c.src 2 f.a 0 0
    let b := c.index f
    let addr := addrOf a b (off20 f)
    let n := accBytes t * cnt
    let lanes ← c.checkLanes ⟨a :: b.toList, [], addr, .read, n, 2⟩
    if lanes.isEmpty then .ok (c.s, .advance)
    else
      let ps := lanes.map fun (_, pa) => (c.s.place pa, n)
      let regs := (List.range cnt).map (f.d.toNat + ·)
      let accs := lanes.map fun (l, pa) => LaneAcc.mk l pa []
      let used := c.withState (c.s.cacheAll c.t.ctx (c.act.map addr))
      if c.heldThere ps then used.hold i [.ld] f.la.toNat regs (oneAddress addr c.act) accs []
      else
        c.granuleCheck ps
        used.readLanesAs true i [.ld] f.la.toNat regs (oneAddress addr c.act) accs (loadEval t f.d.toNat cnt)

def execLd (ty : ETy) (f : MF) (s : State) : Host.Outcome State Fault Refusal := loadInstr (.ld ty f) ty 1 f s
def execLd2 (ty : ETy) (f : MF) (s : State) : Host.Outcome State Fault Refusal := loadInstr (.ld2 ty f) ty 2 f s
def execLdn (f : MF) (s : State) : Host.Outcome State Fault Refusal := loadInstr (.ldn f) .b64 16 f s

/-! ## st, st2, stn (R155, R156) -/

/-- Requests for the remote lanes, in lane order (R294, R387). -/
def State.sendStores (s : State) (ctx unit : Nat) (r : FibreRef) (op : Nat) (xs : List StoreItem) : Option State :=
  xs.foldl (fun (so : Option State) x => so.bind fun s =>
    s.request unit .write x.pa x.bytes.length x.bytes ((s.importKey ctx x.pa).getD noKey) ⟨some (r, op), maskOf [x.lane], none⟩) (some s)

/-- The stores of the active lanes, in ascending lane order (R151). -/
def Ctx.storeLanes (c : Ctx) (classes : List WClass) (la : Nat) (items : List StoreItem) : Act :=
  let far := items.filter fun x => c.s.isFar x.pa
  if far.any fun x => c.collides false x.pa x.bytes.length then .error .stall
  else
    let s := (items.filter fun x => !c.s.isFar x.pa).foldl (fun (s : State) x => s.storeItem x) c.s
    let (id, s) := s.addOp c.r classes (if far.isEmpty then .store else .remoteStore) la [] [] []
    match s.sendStores c.t.ctx c.core c.r id far with
    | some s => .ok (s, .advance)
    | none => .error .stall

/-- Low bytes of consecutive data registers. -/
def storeBytes (t : ETy) (data : List Src) (l : Nat) : List Byte := data.flatMap fun x => leBytes (accBytes t) (x.val l).toNat

def storeInstr (i : Instr) (t : ETy) (cnt : Nat) (f : MF) (s : State) : Host.Outcome State Fault Refusal :=
  issue i (mNames f 0 false cnt) s fun c => do
    c.ordered (mfReleases f)
    let a := c.src 2 f.a 0 0
    let data := if cnt == 1 then [c.src 3 f.b 0 0] else (List.range cnt).map fun j => c.plain 3 (f.b.toNat + j)
    let addr := addrOf a none (off20 f)
    let n := accBytes t * cnt
    let want := if t.isFloat then some (tagOf t) else none
    let lanes ← c.checkLanes ⟨[a], data.map fun x => (x, want), addr, .write, n, 2⟩
    if lanes.isEmpty then .ok (c.s, .advance)
    else
      let ps := lanes.map fun (_, pa) => (c.s.place pa, n)
      let items := lanes.map fun (l, pa) => StoreItem.mk l pa (c.s.fmtBase c.t.ctx (addr l)) (storeBytes t data l)
      let used := c.withState (c.s.cacheAll c.t.ctx (c.act.map addr))
      if c.heldThere ps then used.hold i [.st] f.la.toNat [] .general [] items
      else
        c.granuleCheck ps
        used.storeLanes [.st] f.la.toNat items

def execSt (ty : ETy) (f : MF) (s : State) : Host.Outcome State Fault Refusal := storeInstr (.st ty f) ty 1 f s
def execSt2 (ty : ETy) (f : MF) (s : State) : Host.Outcome State Fault Refusal := storeInstr (.st2 ty f) ty 2 f s
def execStn (f : MF) (s : State) : Host.Outcome State Fault Refusal := storeInstr (.stn f) .b64 16 f s

/-! ## atom and red (R157, R158) -/

def atomRow (t : ETy) (old : Nat) (pois : Bool) : Row :=
  ⟨if t == .f32 then BitVec.ofNat 64 old else extWord t old, if t == .f32 then .f32 else .raw, pois⟩

/-- The old value of a lane: the word, stepped by the lower lanes of its address (R158). -/
def atomEval (op : Nat) (t : ETy) (d : Nat) : LaneEval := fun rd x =>
  let n := t.bits / 8
  match rd x.pa n with
  | none => .error [(x.pa, n)]
  | some (bs, p) => .ok ⟨[(d, atomRow t (atomFold op t (leNat bs) x.args) p)], [], 0⟩

/-- Fabric atomics, one for each remote address, with every lane's data in order (R158). -/
def State.sendAtoms (s : State) (ctx unit : Nat) (r : FibreRef) (id op : Nat) (t : ETy) (gs : List AtomGroup) (y c : Nat → Word) : Option State :=
  gs.foldl (fun (so : Option State) g => so.bind fun s =>
    s.request unit (.atomic (BitVec.ofNat 4 op) t.code) g.pa (t.bits / 8) ((argsOf g.lanes y c).flatMap fun w => leBytes 8 w.toNat)
      ((s.importKey ctx g.pa).getD noKey) ⟨some (r, id), maskOf g.lanes, none⟩) (some s)

def atomInstr (i : Instr) (old : Bool) (sub : BitVec 4) (f : MF) (s : State) : Host.Outcome State Fault Refusal :=
  let t := ETy.ofCode (fieldTy f)
  let op := sub.toNat
  issue i (mNames f (if old then 1 else 0) false 1) s fun c => do
    c.ordered (mfReleases f)
    let a := c.src 2 f.a 0 0
    let b := c.src 3 f.b 0 0
    let d := c.plain 1 f.d.toNat
    let addr := addrOf a none (off16 f)
    let n := t.bits / 8
    let lanes ← c.checkLanes ⟨[a], (b, if t == .f32 then some .f32 else none) :: (if op == 8 then [(d, none)] else []), addr, .atomic, n, 2⟩
    if lanes.isEmpty then .ok (c.s, .advance)
    else
      let ps := lanes.map fun (_, pa) => (c.s.place pa, n)
      let lo (w : Word) : Word := BitVec.ofNat 64 (w.toNat % 2 ^ t.bits)
      let y (l : Nat) : Word := lo (b.val l)
      let cmp (l : Nat) : Word := lo (d.val l)
      let classes : List WClass := if old then [.ld, .st] else [.st]
      let used := c.withState (c.s.cacheAll c.t.ctx (c.act.map addr))
      if c.heldThere ps then
        used.hold i classes f.la.toNat (if old then [f.d.toNat] else []) .general (lanes.map fun (l, pa) => ⟨l, pa, [y l, cmp l]⟩) []
      else
      c.granuleCheck ps
      let groups := atomGroups c.s lanes
      let far := groups.filter fun g => c.s.isFar g.pa
      let near := groups.filter fun g => !c.s.isFar g.pa
      if far.any fun g => c.collides true g.pa n then .error .stall
      else
        let accs := groups.flatMap fun g => g.lanes.map fun l => LaneAcc.mk l g.pa (argsOf (g.lanes.filter (· < l)) y cmp)
        let acc (l : Nat) : List LaneAcc := accs.filter fun x => x.lane == l
        let outs := (near.flatMap (·.lanes)).flatMap fun l => (acc l).filterMap fun x =>
          match atomEval op t f.d.toNat (c.s.reader []) x with | .ok o => some (l, o) | .error _ => none
        let open_ := far.flatMap (·.lanes)
        let writes := if old then heldWrites [f.d.toNat] .general outs open_ else []
        let kind : OpKind := if far.isEmpty then (if old then .load else .store)
          else if old then .access i (accs.filter fun x => open_.contains x.lane) [] else .remoteStore
        let s := near.foldl (fun (s : State) g => s.atomHere op t g y cmp) used.s
        let (id, s) := s.addOp c.r classes kind f.la.toNat writes [] []
        match s.sendAtoms c.t.ctx c.core c.r id op t far y cmp with
        | some s => .ok (s, .advance)
        | none => .error .stall

def execAtom (sub : BitVec 4) (f : MF) (s : State) : Host.Outcome State Fault Refusal := atomInstr (.atom sub f) true sub f s
def execRed (sub : BitVec 4) (f : MF) (s : State) : Host.Outcome State Fault Refusal := atomInstr (.red sub f) false sub f s

/-! ## Replies of local accesses (R152) -/

/-- What a lane of a held access yields when it performs. -/
def heldEval (i : Instr) : LaneEval :=
  match i with
  | .ld ty f => loadEval ty f.d.toNat 1
  | .ld2 ty f => loadEval ty f.d.toNat 2
  | .ldn f => loadEval .b64 f.d.toNat 16
  | .atom sub f => atomEval sub.toNat (ETy.ofCode (fieldTy f)) f.d.toNat
  | _ => fun _ _ => .ok ⟨[], [], 0⟩

/-- The lanes of a held atomic with the data of the lower lanes of their address; of a held read as they stand. -/
def State.heldLanes (s : State) (i : Instr) (lanes : List LaneAcc) : List LaneAcc :=
  match heldAtom i lanes with
  | some (_, _, y, c) => (atomGroups s (lanes.map fun x => (x.lane, x.pa))).flatMap fun g => g.lanes.map fun l =>
      ⟨l, g.pa, argsOf (g.lanes.filter (· < l)) y c⟩
  | none => lanes

/-- Results of lanes that read now. -/
def State.evalLanes (s : State) (eval : LaneEval) (lanes : List LaneAcc) : List (Nat × LaneOut) :=
  lanes.filterMap fun x => match eval (s.reader []) x with | .ok o => some (x.lane, o) | .error _ => none

/-- A held access performs, in one step, and is complete (R291). -/
def State.releaseHeld (s : State) (r : FibreRef) (id : Nat) (i : Instr) (lanes : List LaneAcc) (items : List StoreItem) : State :=
  let outs := s.evalLanes (heldEval i) (s.heldLanes i lanes)
  ((s.performHeld i lanes items).modOp r id fun o => { o with kind := .load, writes := o.writes.map (HeldWrite.fill outs) }).complete1 r id

/-- Lanes whose place is settled at a reply: the lowest ones, as many as the free value says, with the lanes that share an address with
them (R151). -/
def State.replied (s : State) (lanes : List LaneAcc) : List LaneAcc :=
  let gone := lanes.take (1 + Config.choice s.tick % lanes.length)
  lanes.filter fun x => gone.any fun y => y.pa == x.pa

/-- A reply of a local load settles some of its lanes with the values that they read now, in ascending order; with the last ones the
load is complete (R151, R288; assumption 1). -/
def State.replyRead (s : State) (r : FibreRef) (id : Nat) (i : Instr) (lanes : List LaneAcc) : State :=
  let now := s.replied lanes
  let rest := lanes.filter fun x => !now.contains x
  let s1 := s.modOp r id fun o => { o with
    kind := if rest.isEmpty then .load else .read i rest
    writes := o.writes.map (HeldWrite.fill (s.evalLanes (heldEval i) now)) }
  if rest.isEmpty then s1.complete1 r id else s1

/-- LOAD_REPLY: values of a load are at the core (R152). -/
def execLoadReply (r : FibreRef) (op : Nat) (s : State) : Host.Outcome State Fault Refusal :=
  match (s.fibre? r).bind fun f => f.op? op with
  | some o => match o.kind with
    | .read i lanes => if o.done then .fault .notDue else .next (s.replyRead r op i lanes)
    | .held i lanes [] => if o.done || !o.classes.contains .ld || s.stillHeld i lanes [] then .fault .notDue else .next (s.releaseHeld r op i lanes [])
    | _ => s.completeKind r op fun k => match k with | .load => true | _ => false
  | none => .fault .notDue

/-- STORE_ACKNOWLEDGED: a local store, atomic or reduction completes (R152). -/
def execStoreAcknowledged (r : FibreRef) (op : Nat) (s : State) : Host.Outcome State Fault Refusal :=
  match (s.fibre? r).bind fun f => f.op? op with
  | some o => match o.kind with
    | .held i lanes items => if o.done || o.classes.contains .ld || s.stillHeld i lanes items then .fault .notDue else .next (s.releaseHeld r op i lanes items)
    | _ => s.completeKind r op fun k => match k with | .store => true | _ => false
  | none => .fault .notDue

/-! ## fence (R159) -/

/-- Accesses that a fence awaits: all but `cpy`, `ldt` and `stt` with L = 15. -/
def Op.fenced (o : Op) : Bool :=
  !o.done && (match o.kind with
    | .tile _ | .tileRemote _ | .copy _ _ | .access (.ldt _ _) _ _ => o.isWindow
    | .load | .read _ _ | .held _ _ _ | .store | .remoteStore | .access _ (_ :: _) _ | .queue _ => true
    | _ => false)

def fenceInstr (i : Instr) (f : SF) (s : State) : Host.Outcome State Fault Refusal :=
  issue i (sNames f false false) s fun c =>
    if !c.act.isEmpty && c.f.ops.any Op.fenced then .error .stall else .ok (c.s, .advance)

def execFence (f : SF) (s : State) : Host.Outcome State Fault Refusal := fenceInstr (.fence f) f s
/-- Every earlier access is complete, local stores included, so every later one follows it at domain scope too (R159, R296). -/
def execFenceDom (f : SF) (s : State) : Host.Outcome State Fault Refusal := fenceInstr (.fenceDom f) f s

/-! ## wait (R160, R161) -/

/-- `value cond operand` in the type's order; the loaded value stands on the left. -/
def waitTest (t : ETy) (cond : Nat) (v y : Nat) : Bool :=
  let a := intOf t v
  let b := intOf t y
  match cond with
  | 0 => v == y
  | 1 => v != y
  | 2 => decide (a < b)
  | 3 => decide (a ≤ b)
  | 4 => decide (b < a)
  | _ => decide (b ≤ a)

/-- The outcome of one read: the row to write when the test holds. -/
def waitRead (rd : Reader) (t : ETy) (cond : Nat) (pa : Nat) (y : Word) : Option Row :=
  match rd pa (accBytes t) with
  | none => none
  | some (bs, p) => if waitTest t cond (leNat bs) (y.toNat % 2 ^ t.bits) then some ⟨loadVal t bs, .raw, p⟩ else none

/-- Re-test intervals: 64 µs for a local address, 2 µs for a remote one (R161). -/
def waitInterval (far : Bool) : Word := if far then 2000 else 64000

/-- The remote read of a parked thread (R161). -/
def State.waitRequest (s : State) (ctx unit : Nat) (r : FibreRef) (i : Instr) (l pa n : Nat) (y : Word) : Option State :=
  let (id, s) := s.addOp r [] (.access i [⟨l, pa, [y]⟩] []) 15 [] [] []
  s.readRemote ctx unit r id [(pa, n)]

/-- The first reads are made before the bundle goes on, remote ones too; threads whose test fails are parked (R161). -/
def execWait (ty : ETy) (f : MF) (s : State) : Host.Outcome State Fault Refusal :=
  let cond := (fieldTy f).toNat
  issue (.wait ty f) (mNames f 1 false 1) s fun c => do
    c.ordered false
    let a := c.src 2 f.a 0 0
    let b := c.src 3 f.b 0 0
    let addr := addrOf a none (off16 f)
    let n := accBytes ty
    let lanes ← c.checkLanes ⟨[a], [(b, none)], addr, .read, n, 2⟩
    if lanes.isEmpty then .ok (c.s, .advance)
    else
      c.granuleCheck (lanes.map fun (_, pa) => (c.s.place pa, n))
      let far := lanes.filter fun (_, pa) => c.s.isFar pa
      let rd ← c.needBy (.wait ty f) (far.map fun (_, pa) => (pa, n)) far
      let pass := (lanes.map fun (l, pa) => (l, waitRead rd ty cond pa (b.val l))).filterMap fun (l, o) => o.map fun x => (l, x)
      let stay := c.act.filter fun l => !pass.any (·.1 == l)
      let s := c.write (c.s.cacheAll c.t.ctx (c.act.map addr)) f.d.toNat pass (if stay.isEmpty then oneAddress addr c.act else .general)
      if stay.isEmpty then .ok (s, .advance)
      else .ok ((c.unwalk s stay).modFibre c.r fun g =>
        (stay.foldl (fun (g : Fibre) l => g.modThread l fun t => t.stopAt c.is (.parked (.wait (BitVec.ofNat 64 (addr l)) (b.val l)
          (s.time + waitInterval (far.any (·.1 == l)))) (.wait ty f) s.time)) g).placeRest, .stopped)

/-- A parked `wait` that passes: the value is written and the thread goes on (R161). The write is uniform when it is full and one lane
is live (R151). -/
def State.waitPass (s : State) (r : FibreRef) (l : Nat) (f : MF) (x : Row) : State :=
  let alone := match s.fibre? r with | some g => g.live == [l] | none => false
  (s.putReg r f.d.toNat [(l, x)] (if alone then .uniform else .general)).modThreads r [l] (Thread.passOn (mNames f 1 false 1).codes)

/-- A re-test of one parked thread. A location that no longer passes the checks sends the thread back to its `wait`. -/
def State.retest (s : State) (r : FibreRef) (l : Nat) (timer : Bool) : Host.Outcome State Fault Refusal :=
  match s.team? r.team, s.fibre? r with
  | some t, some f =>
    match (f.thread l).st with
    | .parked (.wait addr y next) (.wait ty g) since =>
      let who : Who := ⟨t.ctx, t.coreOf r.fid, t.uid⟩
      let failed := f.pending.any fun p => (match p.due with | .wait _ _ => p.lanes.getLsbD l | _ => false)
      if f.frozen l || failed || (timer && s.time < next) then .fault .notDue
      else match s.check who .read addr.toNat with
        | .error _ => .next (s.modThreads r [l] fun th => { th with st := .waiting })
        | .ok pa =>
          if ((s.place pa).granules (accBytes ty)).any s.engineOwned then .fault .notDue
          else
            let again (s : State) : State := if timer then s.modThreads r [l] fun th => { th with
              st := .parked (.wait addr y (s.time + waitInterval (s.isFar pa))) (.wait ty g) since } else s
            if s.isFar pa then
              if !timer || (f.ops.any fun o => match o.kind with | .access _ [x] _ => o.classes.isEmpty && x.lane == l | _ => false) then .fault .notDue
              else match (again s).waitRequest t.ctx who.core r (.wait ty g) l pa (accBytes ty) y with
                | some s => .next s
                | none => .fault .notDue
            else match waitRead (s.reader []) ty (fieldTy g).toNat pa y with
              | some x => .next (s.waitPass r l g x)
              | none => .next (again s)
    | _ => .fault .notDue
  | _, _ => .fault .notDue

/-- WAIT_RETEST_WRITE: the line was written, and the thread tests again. A test without a write between changes nothing. -/
def execWaitRetestWrite (r : FibreRef) (lane : Nat) (s : State) : Host.Outcome State Fault Refusal := s.retest r lane false
/-- WAIT_RETEST_TIMER: 64 µs, or 2 µs for a remote page, have passed. -/
def execWaitRetestTimer (r : FibreRef) (lane : Nat) (s : State) : Host.Outcome State Fault Refusal := s.retest r lane true

/-! ## prefetch (R162) -/

/-- Brings lines or translations nearer; only the translation is state. Lanes that fail a check are dropped. -/
def execPrefetch (sub : BitVec 4) (f : MF) (s : State) : Host.Outcome State Fault Refusal :=
  issue (.prefetch sub f) (mNames f 0 true 0) s fun c =>
    let a := c.src 2 f.a 0 0
    let b := c.index f
    let addr := addrOf a b (off20 f)
    let good := c.act.filter fun l => match c.checkLane ⟨a :: b.toList, [], addr, .read, 1, 2⟩ l with | .ok _ => true | .error _ => false
    .ok (c.s.cacheAll c.t.ctx (good.map addr), .advance)

/-! ## lock (R169) -/

/-- Lanes with the granule of the core's own scratchpad that they name, if any. -/
def Ctx.lockLanes (c : Ctx) (f : MF) : Except Exc (List (Nat × Option Nat)) := do
  let a := c.src 2 f.a 0 0
  let b := c.index f
  let lanes ← c.checkLanes ⟨a :: b.toList, [], addrOf a b (off20 f), .lockQuery, 1, 2⟩
  .ok (lanes.map fun (l, pa) => (l, match c.s.place pa with
    | .bank k n off => if k == c.core then some (granuleId k n off) else none
    | _ => none))

def Ctx.lockOwned (c : Ctx) (g : Option Nat) : Bool := match g with | some g => c.s.engineOwned g | none => false

def execLockTest (f : MF) (s : State) : Host.Outcome State Fault Refusal :=
  issue (.lockTest f) (mNames f 1 true 0) s fun c => do
    let lanes ← c.lockLanes f
    let srcs := c.src 2 f.a 0 0 :: (c.index f).toList
    .ok (c.write c.s f.d.toNat (lanes.map fun (l, g) => (l, ⟨if c.lockOwned g then 1 else 0, .raw, false⟩)) (c.shapeOf .plain srcs), .advance)

def execLockWait (f : MF) (s : State) : Host.Outcome State Fault Refusal :=
  issue (.lockWait f) (mNames f 0 true 0) s fun c => do
    let lanes ← c.lockLanes f
    let stay := lanes.filterMap fun (l, g) => g.bind fun k => if c.s.engineOwned k then some (l, k) else none
    if stay.isEmpty then .ok (c.s, .advance)
    else .ok ((c.unwalk c.s (stay.map (·.1))).modFibre c.r fun g =>
      (stay.foldl (fun (g : Fibre) (l, k) => g.modThread l fun t => t.stopAt c.is (.parked (.lockWait k) (.lockWait f) c.s.time)) g).placeRest, .stopped)

/-- A parked thread wakes when its granules have returned: a granule park performs its instruction anew, `lock.wait` goes on. -/
def wakeGranule (s : State) (t : Thread) : Thread :=
  match t.st with
  | .parked (.granule gs) _ _ => if gs.any s.engineOwned then t else { t with st := .waiting }
  | .parked (.lockWait g) (.lockWait f) _ => if s.engineOwned g then t else t.passOn (mNames f 0 true 0).codes
  | _ => t

/-- A rendezvous of the fibre is complete, but its instruction waited (R120). -/
def State.joinDue (s : State) (r : FibreRef) : Bool :=
  match s.fibre? r with
  | some f => (s.ready? r f).isSome && (s.settle r 64).fibre? r != some f
  | none => false

/-- PARKED_ACCESS_RESUME: granules that threads of the fibre wait for have returned (R153, R169). A joined instruction whose access had
to wait goes on as well (R120). -/
def execParkedAccessResume (r : FibreRef) (s : State) : Host.Outcome State Fault Refusal :=
  match s.fibre? r with
  | some f =>
    if f.threads.all fun t => wakeGranule s t == t then (if s.joinDue r then .next (s.settle r 64) else .fault .notDue)
    else .next (s.modFibre r fun f => { f with threads := f.threads.map (wakeGranule s) })
  | none => .fault .notDue

/-! ## fpg (R172) -/

/-- The state word of the format page at a frame. -/
def State.fpgWord (s : State) (base : Nat) : Word :=
  let dw2 := s.ramWord (base + 16)
  BitVec.ofNat 64 (s.ramWord base % 2 ^ 32 * 2 ^ 32 + dw2 / 2 ^ 25 % 128 * 2 ^ 9 + 2 ^ 6 + (if s.convs.any (·.1 == base) then 32 else 0) +
    dw2 / 4 % 2 * 16 + dw2 / 16 % 16)

/-- Entries of the reclaim queue that no conversion has reserved (R326). -/
def State.reclaimFree (s : State) : Bool :=
  match s.reclaim with
  | none => false
  | some q => q.tail - s.ramWord q.headAddr + s.convs.length < q.cap

/-- An entry of the reclaim queue, then its tail (R326). -/
def State.writeReclaim (s : State) (base freed kind : Nat) : State :=
  match s.reclaim with
  | none => s
  | some q =>
    let w := (s.pkg.toNat * 2 ^ 46 + base) / 2 ^ 16 * 2 ^ 16 + freed + kind
    { s.writePlace (s.place (s.pkg.toNat * 2 ^ 46 + q.base + q.tail % q.cap * 16)) (leBytes 8 w ++ leBytes 8 s.time.toNat) false with
      reclaim := some { q with tail := q.tail + 1 } }

/-- A page with a bad header is met: an error record, and a KIND 1 entry once per generation when the queue has a free entry (R327). -/
def State.skipPage (s : State) (base : Nat) : State :=
  let gen := BitVec.ofNat 64 (s.ramWord base)
  let s1 := s.event 3 false (memRecord s.time 2 4 (s.pkg.toNat * 2 ^ 46 + base))
  if s.reclaimFree && !s.skipped.contains (base, gen) then
    { s1.writeReclaim base 0 1 with skipped := (base, gen) :: s1.skipped.filter fun x => x.1 != base }
  else s1

/-- PIN is written, with the check, and a conversion in progress is aborted by a pin (R172, R324). -/
def State.setPin (s : State) (base : Nat) (on : Bool) : State :=
  let dw2 := s.ramWord (base + 16)
  let dw2' := dw2 - dw2 / 4 % 2 * 4 + (if on then 4 else 0)
  let s := s.setHeader base (s.ramWord base) (s.ramWord (base + 8)) dw2'
  if on then { s with convs := s.convs.filter fun x => x.1 != base } else s

/-- A forced conversion starts, unless the page is pinned, converted or converting, or the requantiser has no entry or no valid header
to work with. -/
def State.forceConv (s : State) (base : Nat) : State :=
  if s.pagePin base || s.pageFmt base == 10 || (s.convs.any (·.1 == base)) || !s.headerOk base || !s.reclaimFree then s
  else { s with convs := s.convs ++ [(base, s.time)] }

def fpgStep (op : Nat) (base : Nat) (s : State) : State :=
  match op with
  | 1 => s.setPin base true
  | 2 => s.setPin base false
  | 3 => s.forceConv base
  | _ => s

/-- Lanes act in ascending order, each result being the state after its operation. -/
def fpgLanes (op : Nat) : State → List (Nat × Option Nat) → State × List (Nat × Word)
  | s, [] => (s, [])
  | s, (l, none) :: rest =>
    let (s', r) := fpgLanes op s rest
    (s', (l, 0) :: r)
  | s, (l, some base) :: rest =>
    let s1 := fpgStep op base s
    let (s', r) := fpgLanes op s1 rest
    (s', (l, s1.fpgWord base) :: r)

def fpgInstr (i : Instr) (op : Nat) (f : MF) (s : State) : Host.Outcome State Fault Refusal :=
  issue i (mNames f 1 true 0) s fun c => do
    c.ordered false
    let a := c.src 2 f.a 0 0
    let b := c.index f
    let addr := addrOf a b (off20 f)
    let lanes ← c.checkLanes ⟨a :: b.toList, [], addr, if op == 0 then .fpgQuery else .fpgWrite, 1, 2⟩
    if lanes.isEmpty then .ok (c.s, .advance)
    else
      let (s, res) := fpgLanes op c.s (lanes.map fun (l, _) => (l, c.s.fmtBase c.t.ctx (addr l)))
      let w : HeldWrite := ⟨f.d.toNat, res.map fun (l, v) => (l, ⟨v, .raw, false⟩), if c.full then c.shapeOf .plain (a :: b.toList) else .general⟩
      .ok ((s.addOp c.r [.ld] .load f.la.toNat [w] [] []).2, .advance)

def execFpgQuery (f : MF) (s : State) : Host.Outcome State Fault Refusal := fpgInstr (.fpgQuery f) 0 f s
def execFpgPin (f : MF) (s : State) : Host.Outcome State Fault Refusal := fpgInstr (.fpgPin f) 1 f s
def execFpgUnpin (f : MF) (s : State) : Host.Outcome State Fault Refusal := fpgInstr (.fpgUnpin f) 2 f s
def execFpgForce (f : MF) (s : State) : Host.Outcome State Fault Refusal := fpgInstr (.fpgForce f) 3 f s

end Sys2Proof.Machine
end

