-- ==== Sys2Proof/Machine/Tile.lean ====
section
/-! DEFINITION. Tiles: descriptors and their checks (R191 to R194), where elements stand (R55, R192, R193), their values and poison
(R54, R210), reads and writes of whole tiles, and `bmode` (R170, R171, R181, R184). -/

namespace Sys2Proof.Machine

/-! ## Descriptors (R191, R194) -/

/-- The fields of a tile descriptor. -/
structure Tile where
  kind : Nat
  tag : Nat
  acc : Bool
  base : Nat
  rows : Nat
  cols : Nat
  stride : Nat
  scale : Nat
  lgFirst : Nat
  lgCount : Nat
  inN : Nat
  ih : Nat
  iw : Nat
  ic : Nat
  kh : Nat
  kw : Nat
  sh : Nat
  sw : Nat
  dh : Nat
  dw : Nat
  ph : Nat
  pw : Nat
  row0 : Nat
deriving DecidableEq, Repr

/-- Bits [lo + n - 1 : lo] of doubleword k of a descriptor. -/
def dwField (d : List Word) (k lo n : Nat) : Nat := (d.getD k 0).field lo n

def tileOf (d : List Word) : Tile where
  kind := dwField d 0 52 4
  tag := dwField d 0 48 4
  acc := dwField d 0 46 2 == 1
  base := dwField d 0 0 32
  rows := dwField d 1 48 16
  cols := dwField d 1 32 16
  stride := dwField d 1 0 32
  scale := dwField d 2 0 32
  lgFirst := dwField d 3 0 32
  lgCount := dwField d 3 32 16
  inN := dwField d 4 48 16
  ih := dwField d 4 32 16
  iw := dwField d 4 16 16
  ic := dwField d 4 0 16
  kh := dwField d 5 56 8
  kw := dwField d 5 48 8
  sh := dwField d 5 44 4
  sw := dwField d 5 40 4
  dh := dwField d 5 36 4
  dw := dwField d 5 32 4
  ph := dwField d 5 24 8
  pw := dwField d 5 16 8
  row0 := dwField d 6 0 32

/-- Element width in bits (R192). -/
def tagBits (tag : Nat) (acc : Bool) : Nat :=
  match tag with
  | 0 => if acc then 32 else 8
  | 1 => 32
  | 2 | 3 => 16
  | 6 | 10 | 11 => 4
  | _ => 8

/-- Columns of a block; 0 for a tag that is no block tag (R54). -/
def blockCols (tag : Nat) : Nat := match tag with | 9 | 10 => 32 | 11 => 8 | _ => 0

def Tile.bits (t : Tile) : Nat := tagBits t.tag t.acc
def Tile.rowBytes (t : Tile) : Nat := (t.cols * t.bits + 7) / 8
/-- Start of the band-scale plane of FB4 (R55). -/
def Tile.band (t : Tile) : Nat := (t.scale + t.rows * (t.cols / 8) + 63) / 64 * 64

/-- Element and scale planes, as start and length (R55, R192, R193). -/
def Tile.planes (t : Tile) : List (Nat × Nat) :=
  let el := if t.kind == 3 then (t.base, (t.inN * t.ih * t.iw * t.ic * t.bits + 7) / 8)
    else (t.base, (t.rows - 1) * t.stride + t.rowBytes)
  if blockCols t.tag == 0 then [el]
  else if t.tag == 11 then [el, (t.scale, t.band + 2 * ((t.rows + 63) / 64) - t.scale)]
  else [el, (t.scale, t.rows * (t.cols / blockCols t.tag))]

def Tile.lowest (t : Tile) : Nat := t.planes.foldl (fun a p => min a p.1) t.base
def Tile.highest (t : Tile) : Nat := t.planes.foldl (fun a p => max a (p.1 + p.2 - 1)) 0

/-- Bits that are reserved in each doubleword; LGFIRST and LGCOUNT are not read (R191). -/
def reservedBits : List Nat :=
  [0xFF003FFF00000000, 0, 0xFFFFFFFF00000000, 0xFFFF000000000000, 0, 0xFFFF, 0xFFFFFFFF00000000, 0xFFFFFFFFFFFFFFFF]

def reservedSet (d : List Word) : Bool :=
  (List.range 8).any fun k => Nat.land (d.getD k 0).toNat (reservedBits.getD k 0) != 0

def nullDescriptor : List Word := List.replicate 8 0

/-- Every doubleword is zero. -/
def isNullTile (d : List Word) : Bool := (List.range 8).all fun k => d.getD k 0 == 0

/-- What the descriptor alone decides (R194): true when it fails. -/
def tileBad (d : List Word) : Bool :=
  let t := tileOf d
  if reservedSet d then true
  else if isNullTile d then false
  else
    let bs := blockCols t.tag
    t.kind == 0 || 3 < t.kind || 11 < t.tag || 1 < dwField d 0 46 2 || t.base % 16 != 0 || t.stride % 16 != 0 ||
    t.rows < 1 || 1024 < t.rows || t.cols < 1 || 1024 < t.cols ||
    (bs != 0 && t.cols % bs != 0) || (t.tag == 11 && t.rows % 64 != 0) ||
    t.scale % 64 != 0 || (t.scale != 0 && bs == 0) ||
    (if t.kind == 3 then
      t.inN == 0 || t.ih == 0 || t.iw == 0 || t.ic == 0 || t.kh == 0 || t.kw == 0 || t.sh == 0 || t.sw == 0 || t.dh == 0 || t.dw == 0 ||
        t.stride != 0 || t.acc || t.tag < 1 || 5 < t.tag
    else t.stride < t.rowBytes || d.getD 4 0 != 0 || d.getD 5 0 != 0 || d.getD 6 0 != 0)

/-- The descriptor as `tdesc` writes it: LGFIRST and LGCOUNT name the granules between the lowest and the highest byte (R192). -/
def finishTile (d : List Word) : List Word :=
  let t := tileOf d
  if t.kind == 0 || t.acc then d.set 3 0
  else
    let lo := t.lowest / 4096
    d.set 3 (BitVec.ofNat 64 ((t.highest / 4096 - lo + 1) % 65536 * 2 ^ 32 + lo % 2 ^ 32))

/-! ## Where bytes stand (R187, R192) -/

/-- The bank and offset of a byte of a region of a team on a core. -/
def State.tileBank (s : State) (t : Team) (core : Nat) (acc : Bool) (x : Nat) : Option (Nat × Nat) :=
  if acc then ((if core == t.core then t.accs else t.accs2)[x / 65536]?).map fun b => (b, x % 65536)
  else (s.scratchBanks t.uid core).findSome? fun (k, j, len) => if j == x / KiB32 && x % KiB32 < len then some (k, x % KiB32) else none

/-- A FIFO bank stands where a scratchpad bank of the team stood. -/
def State.fifoAt (s : State) (t : Team) (core j : Nat) : Bool :=
  (s.core core).banks.any fun b => match b.role with | .fifo u _ (some k) => u == t.uid && k == j | _ => false

/-- Bounds, then FIFO mode, for the bytes [lo, lo + n) of a region (R194). -/
def State.planeErr (s : State) (t : Team) (core : Nat) (acc : Bool) (lo n : Nat) : Option (Nat × Nat) :=
  let unit := if acc then 65536 else KiB32
  let js := (List.range ((lo + n - 1) / unit - lo / unit + 1)).map (lo / unit + ·)
  let bad := js.filter fun j => (s.tileBank t core acc (min (lo + n - 1) (j * unit + unit - 1))).isNone
  match bad with
  | [] => none
  | _ => if !acc && bad.all (s.fifoAt t core) then some (7, 3) else some (8, 0)

def Tile.err (t : Tile) (s : State) (tm : Team) (core : Nat) : Option (Nat × Nat) :=
  match t.planes.filterMap fun (lo, n) => s.planeErr tm core t.acc lo n with
  | [] => none
  | e :: es => if (e :: es).any (·.1 == 8) then some (8, 0) else some e

/-- Scratchpad granules that a tile names (R196). -/
def Tile.granules (t : Tile) (s : State) (tm : Team) (core : Nat) : List Nat :=
  if t.acc then [] else (List.range t.lgCount).filterMap fun i =>
    (s.tileBank tm core false ((t.lgFirst + i) * 4096)).map fun (b, off) => granuleId core b off

/-! ## Checks at use (R194) -/

/-- What an instruction accepts of one tile operand: its field and bit, its descriptor, kinds, region and tags. -/
structure TileUse where
  fld : Nat
  bit : Nat
  d : List Word
  kinds : List Nat
  acc : List Bool
  tags : List Nat

/-- Kinds, regions and shapes: illegal instruction. `shape` names the operand whose shape fails. -/
def Ctx.tileForms (c : Ctx) (us : List TileUse) (shape : Option (Nat × Nat)) : Except Exc Unit :=
  let ill (fld bit : Nat) : Except Exc Unit := c.fault 1 fld bit (c.is.word.toNat / 2 ^ 32)
  match us.find? fun u => tileBad u.d || !u.kinds.contains (tileOf u.d).kind with
  | some u => ill u.fld u.bit
  | none => match us.find? fun u => !u.acc.contains (tileOf u.d).acc with
    | some u => ill u.fld u.bit
    | none => match shape with
      | some (fld, bit) => ill fld bit
      | none => .ok ()

/-- Tags, then bounds, then banks in FIFO mode. -/
def Ctx.tileBanks (c : Ctx) (core : Nat) (us : List TileUse) : Except Exc Unit :=
  match us.find? fun u => !u.tags.contains (tileOf u.d).tag with
  | some u => c.fault 4 u.fld (tileOf u.d).tag (u.tags.getD (Config.choice c.s.tick % u.tags.length) 0)
  | none =>
    let errs := us.filterMap fun u => ((tileOf u.d).err c.s c.t core).map fun e => (u, e)
    match errs.find? fun (_, e) => e.1 == 8 with
    | some (u, _) => c.fault 8 u.fld 0 0
    | none => match errs with
      | (u, e) :: _ => c.fault e.1 u.fld e.2 0
      | [] => .ok ()

/-- The checks of R194 at use, by the rows of its table. -/
def Ctx.useTiles (c : Ctx) (core : Nat) (us : List TileUse) (shape : Option (Nat × Nat)) : Except Exc Unit := do
  c.tileForms us shape
  c.tileBanks core us

def Ctx.tile (c : Ctx) (k : BitVec 4) : List Word := c.f.tiles.getD k.toNat nullDescriptor

/-- Rows and columns of the view, with the transposition of an instruction's flag (R192). -/
def Tile.swaps (t : Tile) (flag : Bool) : Bool := (t.kind == 2) != flag
def Tile.view (t : Tile) (flag : Bool) : Nat × Nat := if t.swaps flag then (t.cols, t.rows) else (t.rows, t.cols)

/-! ## Elements -/

/-- A tile's storage as an operation reads it. `old` lists scratchpad bytes that outstanding `ldt`s replaced, of which an engine sees
either (R165). -/
structure Store where
  s : State
  t : Team
  core : Nat
  old : List (Nat × Byte × Bool)

def scratchKey (core bank off : Nat) : Nat := (core * 48 + bank) * KiB32 + off

/-- Bytes that outstanding tile loads replaced. The loads of an operation's own fibre count only without a lookahead window: it follows
every other one (R165, R196). -/
def State.oldBytes (s : State) (owner : FibreRef) : List (Nat × Byte × Bool) :=
  s.teams.flatMap fun t => t.fibres.flatMap fun f => f.ops.flatMap fun o => match o.kind with
    | .tile l => if o.done || (FibreRef.mk t.uid f.fid == owner && o.isWindow) then [] else l
    | _ => []

def noBank : Bank := ⟨.free, [], []⟩

/-- n bytes at x, and their poison; `k` tells the two nibbles of a byte apart. -/
def Store.get (m : Store) (acc : Bool) (x n k : Nat) : Nat × Bool :=
  match m.s.tileBank m.t m.core acc x with
  | none => (0, false)
  | some (b, off) =>
    if acc then
      let bank := (m.s.core m.core).acc.getD b .reset
      (leNat (cellsGet bank.data off n), (touched4 off n).any bank.poison.contains)
    else
      let bank := (m.s.core m.core).banks.getD b noBank
      let key := scratchKey m.core b off
      let new := (leNat (cellsGet bank.data off n), (List.range n).any fun i => bank.poison.contains ((off + i) / 8))
      if m.old.isEmpty then new
      else if m.old.any (fun x => x.1 == key) && Config.choice (m.s.tick * 2 ^ 32 + key * 2 + k) % 2 == 0 then
        let bs := (List.range n).map fun i => (m.old.find? (·.1 == key + i)).map (·.2)
        (leNat (bs.map fun b => (b.map (·.1)).getD 0), bs.any fun b => (b.map (·.2)).getD false)
      else new
where
  touched4 (off n : Nat) : List Nat := (List.range ((off + n - 1) / 4 - off / 4 + 1)).map (off / 4 + ·)

/-- The code of an element of `bits` bits, number i from x on. -/
def Store.elem (m : Store) (acc : Bool) (x bits i : Nat) : Nat × Bool :=
  if bits == 4 then
    let (v, p) := m.get acc (x + i / 2) 1 (i % 2)
    (if i % 2 == 0 then v % 16 else v / 16, p)
  else m.get acc (x + i * (bits / 8)) (bits / 8) 0

/-- The code of the stored element (r, c). -/
def Store.code (m : Store) (t : Tile) (r c : Nat) : Nat × Bool := m.elem t.acc (t.base + r * t.stride) t.bits c

/-- Value of an element code under a tag that is no block tag. -/
def tagFmt (tag : Nat) : Fmt :=
  match tag with | 1 => fmtF32 | 2 => fmtF16 | 3 => fmtBf16 | 4 => fmtE4m3 | 5 => fmtE5m2 | 9 => fmtE4m3 | _ => fmtE2m1

/-- An element with its scales (R54): a NaN element or scale, and a NaN or infinite band scale, give NaN. -/
def scaled (x : FV) (scale : FV) (band : Option FV) : FV :=
  let v := (x.mul scale).1
  match band with
  | none => v
  | some b => if b.isInf then .nan else (v.mul b).1

/-- The value of the stored element (r, c) with its poison; a poisoned scale poisons its block (R210). -/
def Store.value (m : Store) (t : Tile) (r c : Nat) : FV × Bool :=
  let (x, p) := m.code t r c
  let v := (tagFmt t.tag).value x
  match t.tag with
  | 9 | 10 =>
    let (k, q) := m.get t.acc (t.scale + r * (t.cols / 32) + c / 32) 1 0
    (scaled v (e8m0Value k) none, p || q)
  | 11 =>
    let (k, q) := m.get t.acc (t.scale + r * (t.cols / 8) + c / 8) 1 0
    let (b, o) := m.get t.acc (t.band + 2 * (r / 64)) 2 0
    (scaled v (e3m5Value k) (some (fmtBf16.value b)), p || q || o)
  | _ => (v, p)

/-- OH and OW of R193: an extent, padding, dilation, kernel size and stride. -/
def outExtent (n pad dil kern stride : Nat) : Int := Int.fdiv ((n + 2 * pad : Nat) - (dil * (kern - 1) + 1 : Nat) : Int) stride + 1
def Tile.oh (t : Tile) : Int := outExtent t.ih t.ph t.dh t.kh t.sh
def Tile.ow (t : Tile) : Int := outExtent t.iw t.pw t.dw t.kw t.sw

/-- Index of the element that an unfold view shows at (r, k), or none for padding (R193). -/
def Tile.unfold (t : Tile) (r k : Nat) : Option Nat :=
  let oh := t.oh
  let ow := t.ow
  let q : Int := (t.row0 + r : Nat)
  let ox := q.fmod ow
  let oy := (q.fdiv ow).fmod oh
  let nb := q.fdiv (ow * oh)
  let icx := k % t.ic
  let kx := k / t.ic % t.kw
  let ky := k / (t.ic * t.kw)
  let iy : Int := oy * t.sh - t.ph + (ky * t.dh : Nat)
  let ix : Int := ox * t.sw - t.pw + (kx * t.dw : Nat)
  if nb < 0 || (t.inN : Int) ≤ nb || t.kh * t.kw * t.ic ≤ k || iy < 0 || (t.ih : Int) ≤ iy || ix < 0 || (t.iw : Int) ≤ ix then none
  else some (((nb.toNat * t.ih + iy.toNat) * t.iw + ix.toNat) * t.ic + icx)

/-- The value of view element (i, j). A kernel that exceeds the padded input leaves OH or OW below 1, and the spec gives the elements
of such a view no value: they are free. -/
def Store.viewValue (m : Store) (t : Tile) (flag : Bool) (i j : Nat) : FV × Bool :=
  if t.kind == 3 && (t.oh < 1 || t.ow < 1) then
    ((tagFmt t.tag).value ((Config.freeWord (m.s.tick * 2 ^ 32 + i * 2 ^ 16 + j)).toNat % 2 ^ t.bits), false)
  else if t.kind == 3 then
    match t.unfold i j with
    | none => (.fin false 0 0, false)
    | some n => let (x, p) := m.elem t.acc t.base t.bits n; ((tagFmt t.tag).value x, p)
  else if t.swaps flag then m.value t j i else m.value t i j

/-- The code of view element (i, j) of a tile without scales. -/
def Store.viewCode (m : Store) (t : Tile) (flag : Bool) (i j : Nat) : Nat × Bool :=
  if t.swaps flag then m.code t j i else m.code t i j

/-! ## Writes -/

/-- The slice of bytes [lo, hi) of a list that starts at x. -/
def sliceAt {α : Type} (l : List α) (x lo hi : Nat) : List α := (l.drop (lo - x)).take (hi - lo)

/-- Bytes with their poison written to a region, poison by 8-byte words of scratchpad and 4-byte elements of accumulator memory. -/
def State.tileStore (s : State) (t : Team) (core : Nat) (acc : Bool) (x : Nat) (bs : List (Byte × Bool)) : State :=
  let u := if acc then 4 else 8
  let n := bs.length
  let units := if n == 0 then [] else (List.range ((x + n - 1) / u - x / u + 1)).map (x / u + ·)
  units.foldl (fun (s : State) k =>
    let lo := max x (k * u)
    let part := sliceAt bs x lo (min (x + n) (k * u + u))
    match s.tileBank t core acc lo with
    | none => s
    | some (b, off) =>
      let pois := part.any (·.2)
      if acc then s.modCore core fun co => { co with acc := co.acc.modify b fun (a : AccBank) => { a with
        data := cellsSet a.data off (part.map (·.1))
        poison := if pois then markSet a.poison (off / 4) else if part.length == 4 then markClear a.poison (off / 4) else a.poison } }
      else s.modCore core fun co => { co with banks := co.banks.modify b fun bk => bankWrite bk off (part.map (·.1)) pois }) s

/-- Element codes of a row as bytes; `last` is the byte whose high nibble an odd row keeps. -/
def packRow (bits last : Nat) : List (Nat × Bool) → List (Byte × Bool)
  | [] => []
  | [(a, p)] => if bits == 4 then [(BitVec.ofNat 8 (a % 16 + last / 16 * 16), p)] else (leBytes (bits / 8) a).map fun b => (b, p)
  | (a, p) :: (b, q) :: rest =>
    if bits == 4 then (BitVec.ofNat 8 (a % 16 + b % 16 * 16), p || q) :: packRow bits last rest
    else ((leBytes (bits / 8) a).map fun x => (x, p)) ++ packRow bits last ((b, q) :: rest)

/-- One stored row of a tile, from column 0 on. -/
def State.tileRow (s : State) (t : Team) (core : Nat) (tl : Tile) (r : Nat) (els : List (Nat × Bool)) : State :=
  let x := tl.base + r * tl.stride
  let last := (Store.get ⟨s, t, core, []⟩ tl.acc (x + tl.rowBytes - 1) 1 0).1
  s.tileStore t core tl.acc x (packRow tl.bits last els)

/-- Every stored row of a tile. -/
def State.tileRows (s : State) (t : Team) (core : Nat) (tl : Tile) (rows : List (List (Nat × Bool))) : State :=
  rows.zipIdx.foldl (fun (s : State) (els, r) => s.tileRow t core tl r els) s

/-! ## tdesc and tget (R195) -/

/-- Eight registers from v on, named at [39:34]. -/
def xNames (f : XF) (n : Nat) : Names := ⟨group 34 f.v.toNat n, [], f.g⟩

/-- A poisoned row of the lowest active thread among the v registers stops the instruction with SRC v. -/
def Ctx.checkV (c : Ctx) (xs : List Src) : Except Exc Unit :=
  match xs.findSome? fun x => poisErr x c.low with
  | some (code, fld, d, i) => .error (.fault ⟨code, fld, d, i, 0, maskOf [c.low]⟩)
  | none => .ok ()

def execTdesc (f : XF) (s : State) : Host.Outcome State Fault Refusal :=
  issue (.tdesc f) (xNames f 8) s fun c =>
    if c.act.isEmpty then .ok (c.s, .advance)
    else do
      let xs := (List.range 8).map fun j => c.plain 8 (f.v.toNat + j)
      c.checkV xs
      let d := xs.map fun x => x.val c.low
      if tileBad d then c.fault 1 8 34 (c.is.word.toNat / 2 ^ 32)
      else .ok (c.s.modFibre c.r fun g => { g with tiles := g.tiles.set f.td.toNat (finishTile d) }, .advance)

def execTget (f : XF) (s : State) : Host.Outcome State Fault Refusal :=
  issue (.tget f) (xNames f 8) s fun c =>
    .ok ((List.range 8).foldl (fun (s : State) j =>
      c.write s (f.v.toNat + j) (c.act.map fun l => (l, ⟨(c.tile f.ta).getD j 0, .raw, false⟩)) .uniform) c.s, .advance)

/-! ## bmode (R170, R171, R181) -/

def Role.isL1 : Role → Bool | .l1 => true | _ => false
def Role.isFifo : Role → Bool | .fifo _ _ _ => true | _ => false

def countRole (c : Core) (p : Role → Bool) : Nat := (c.banks.filter fun b => p b.role).length

/-- Scratchpad banks that a team may own on one core: SS / 32 KiB, or SS / 64 KiB of a pair (R181, R267). -/
def scratchMax (lr : LaunchRec) : Nat := if lr.pair then lr.ss / 65536 else lr.ss / KiB32

/-- The lowest free j of a team on a core (R186). -/
def State.freeJ (s : State) (lr : LaunchRec) (uid core : Nat) : Option Nat :=
  (List.range (scratchMax lr)).find? fun j => !(s.scratchBanks uid core).any fun x => x.2.1 == j

/-- A bank leaves its role, with the write-back of a scratchpad bank. -/
def State.leaveRole (s : State) (t : Team) (core bank : Nat) : State :=
  match ((s.core core).banks.getD bank ⟨.free, [], []⟩).role with
  | .scratch _ j len => s.writeBackBank t core bank j len
  | _ => s

/-- What `bmode` checks: whether the bank may leave its role, and why not (R171, R181). -/
def Ctx.bmodeCheck (c : Ctx) (bank : Nat) : Option Nat :=
  let co := c.s.core c.core
  match (co.banks.getD bank ⟨.free, [], []⟩).role with
  | .regShare _ => some 9
  | .scratch u _ _ => if u == c.t.uid then none else some 4
  | .fifo _ ring _ => if ring then some 3 else none
  | .l1 => if countRole co Role.isL1 ≤ 2 then some 9 else none
  | .free => none

/-- Accesses in flight that name a bank: a tile load or store with remote parts whose tile lies in it, and an access that is held there
(R171, R184). -/
def State.inFlight (s : State) (core bank : Nat) : Bool :=
  s.teams.any fun t => t.fibres.any fun f => f.ops.any fun o => !o.done && (match o.kind with
    | .access (.ldt _ _) (d :: _) _ => t.coreOf f.fid == core && names t d.args
    | .tileRemote d => t.coreOf f.fid == core && names t d
    | .held _ lanes items => (lanes.any fun x => hits (s.place x.pa)) || items.any fun x => hits (s.place x.pa)
    | _ => false)
where
  names (t : Team) (d : List Word) : Bool := ((tileOf d).granules s t core).any fun g => g / 8 == core * 48 + bank
  hits : Place → Bool
    | .bank c k _ => c == core && k == bank
    | _ => false

/-- The common course of `bmode`: `same` tells that the bank is in the mode, `room` that the limits allow it. -/
def bmodeInstr (i : Instr) (f : SF) (same : Ctx → Role → Bool) (room : Ctx → Option Role) (s : State) : Host.Outcome State Fault Refusal :=
  let bank := f.imm.toNat % 64
  issue i (sNames f false false) s fun c =>
    let role := ((c.s.core c.core).banks.getD bank ⟨.free, [], []⟩).role
    if c.act.isEmpty || same c role then .ok (c.s, .advance)
    else match c.bmodeCheck bank with
      | some d => c.fault 7 0 d 0
      | none =>
        match room c with
        | none => c.fault 7 0 9 0
        | some new =>
          if ((List.range 8).any fun k => c.s.engineOwned ((c.core * 48 + bank) * 8 + k)) || c.s.inFlight c.core bank then .error .stall
          else .ok ((c.s.leaveRole c.t c.core bank).setRole c.core bank new, .advance)

def execBmodeL1 (f : SF) (s : State) : Host.Outcome State Fault Refusal :=
  bmodeInstr (.bmodeL1 f) f (fun _ r => r.isL1) (fun c => if countRole (c.s.core c.core) Role.isL1 < 16 then some .l1 else none) s

def execBmodeScr (f : SF) (s : State) : Host.Outcome State Fault Refusal :=
  bmodeInstr (.bmodeScr f) f (fun c r => match r with | .scratch u _ _ => u == c.t.uid | _ => false)
    (fun c => (c.s.freeJ c.lr c.t.uid c.core).map fun j => .scratch c.t.uid j KiB32) s

/-- The index of a scratchpad bank of the team that becomes a FIFO. -/
def Ctx.formerJ (c : Ctx) (bank : Nat) : Option Nat :=
  match ((c.s.core c.core).banks.getD bank ⟨.free, [], []⟩).role with
  | .scratch _ j _ => some j
  | _ => none

def execBmodeFifo (f : SF) (s : State) : Host.Outcome State Fault Refusal :=
  bmodeInstr (.bmodeFifo f) f (fun _ r => match r with | .fifo _ ring _ => !ring | _ => false)
    (fun c => if countRole (c.s.core c.core) Role.isFifo < 8 then some (.fifo c.t.uid false (c.formerJ (f.imm.toNat % 64))) else none) s

end Sys2Proof.Machine
end

