-- ==== Sys2Proof/Machine/Scatter.lean ====
section
/-! DEFINITION. Gradient scatter: targets and their checks (R229), accumulators and spill records (R225 to R227), `gscat` (R228, R230)
and finalisation (R231). -/

namespace Sys2Proof.Machine

/-! ## Accumulators (R225) -/

/-- FP32 bits as an addition to a 320-bit sum of unit 2^-149. -/
def fixed320 (neg : Bool) (m : Nat) (e : Int) : BitVec 320 :=
  let v : Int := (m * pow2 (e + 149) : Nat)
  BitVec.ofInt 320 (if neg then -v else v)

def ScatAcc.fresh (launch target : Nat) : ScatAcc := ⟨launch, target, 0, false, false, false, true, false, 0⟩

/-- One addition of FP32 bits: order does not matter. -/
def ScatAcc.add (a : ScatAcc) (y : BitVec 32) (pois : Bool) : ScatAcc :=
  let a := { a with
    count := a.count + 1
    negz := a.negz && y == 0x80000000#32
    pois := a.pois || pois }
  match fmtF32.value y.toNat with
  | .nan => { a with nan := true }
  | .inf s => if s then { a with ninf := true } else { a with pinf := true }
  | .fin s m e => { a with sum := a.sum + fixed320 s m e }

/-- Two sums of one target together (R227, R231). -/
def ScatAcc.merge (a b : ScatAcc) : ScatAcc :=
  { a with
    sum := a.sum + b.sum
    nan := a.nan || b.nan
    pinf := a.pinf || b.pinf
    ninf := a.ninf || b.ninf
    negz := a.negz && b.negz
    pois := a.pois || b.pois
    count := a.count + b.count }

/-- The unit of a target: the home slice of its die (R280). -/
def unitOf (pa : Nat) : Nat := (if localOf pa < 0x4000000000 then 0 else 64) + homeSlice (localOf pa)

/-! ## Spill records (R227) -/

/-- The eight doublewords of a record. -/
def ScatAcc.record (a : ScatAcc) (time : Word) : List Word :=
  let b (x : Bool) (k : Nat) : Nat := if x then 2 ^ k else 0
  [time, BitVec.ofNat 64 (2 ^ 63 + b a.nan 62 + b a.pinf 61 + b a.ninf 60 + b a.pois 59 + b a.negz 58 + a.target % 2 ^ 52)] ++
    (List.range 5).map (fun k => a.sum.extractLsb' (64 * k) 64) ++ [a.count]

/-- A record as it stands in memory. -/
def recordAcc (launch : Nat) (bs : List Byte) (pois : Bool) : ScatAcc :=
  let w (k : Nat) : Nat := leNat ((bs.drop (8 * k)).take 8)
  let f (k : Nat) : Bool := w 1 / 2 ^ k % 2 == 1
  ⟨launch, w 1 % 2 ^ 52, BitVec.ofNat 320 (leNat ((bs.drop 16).take 40)), f 62, f 61, f 60, f 58, f 59 || pois, BitVec.ofNat 64 (w 7)⟩

def recordVa (l : Launch) (k : Nat) : Nat := l.lrec.ovfBase.toNat + 64 * k

/-- A record is read and written with the launch's translation and protection. -/
def State.recordOk (s : State) (l : Launch) (k : Nat) : Bool :=
  match s.check ⟨l.lrec.ctx, 999, 0⟩ .read (recordVa l k), s.check ⟨l.lrec.ctx, 999, 0⟩ .write (recordVa l k) with
  | .ok pa, .ok _ => !(pkgOf pa != s.pkg.toNat)
  | _, _ => false

def State.readRecord (s : State) (l : Launch) (k : Nat) : ScatAcc :=
  let (bs, p) := s.load l.lrec.ctx (recordVa l k) 64
  recordAcc l.id bs p

def State.writeRecord (s : State) (l : Launch) (k : Nat) (a : ScatAcc) : State :=
  s.store l.lrec.ctx (recordVa l k) (wordBytes (a.record s.time)) false

/-- VALID is cleared when the record is freed. -/
def State.freeRecord (s : State) (l : Launch) (k : Nat) : State :=
  let (bs, _) := s.load l.lrec.ctx (recordVa l k + 8) 8
  (s.store l.lrec.ctx (recordVa l k + 8) (leBytes 8 (leNat bs % 2 ^ 63)) false).modLaunch l.id fun l =>
    { l with spills := l.spills.filter fun x => x.2 != k }

def Launch.recordOf (l : Launch) (target : Nat) : Option Nat := (l.spills.find? (·.1 == target)).map (·.2)
def Launch.freeRecordNo (l : Launch) : Option Nat := (List.range l.lrec.ovfN).find? fun k => !l.spills.any (·.2 == k)

/-- The launch's context ends: its overflow area is unreachable (R227). -/
def State.ovfUnreachable (s : State) (l : Launch) : State := s.terminate l.lrec.ctx 10 0 0

/-- SCATTER_SPILL: an accumulator goes to its launch's overflow area; none when no record is free. -/
def State.spillAcc (s : State) (a : ScatAcc) : Option State :=
  let drop (s : State) : State := { s with accs := s.accs.filter fun (x : ScatAcc) => !(x.launch == a.launch && x.target == a.target) }
  match s.launch? a.launch with
  | none => some (drop s)
  | some l =>
    match l.recordOf a.target with
    | some k =>
      if s.recordOk l k then some (drop (s.writeRecord l k ((s.readRecord l k).merge a)))
      else if s.canPost then some (s.ovfUnreachable l) else none
    | none => match l.freeRecordNo with
      | none => none
      | some k =>
        if s.recordOk l k then
          some ((drop (s.writeRecord l k a)).modLaunch l.id fun l => { l with spills := (a.target, k) :: l.spills })
        else if s.canPost then some (s.ovfUnreachable l) else none

/-! ## SCATTER_ADDITION -/

/-- The addition goes to the accumulator of its target, or a new one; a full unit first spills its oldest (R225, R227). -/
def State.addTo (s : State) (a : Addition) : Option State :=
  let put (s : State) : State := { s with accs := s.accs ++ [(ScatAcc.fresh a.launch a.target).add a.value a.pois] }
  if s.accs.any fun (x : ScatAcc) => x.launch == a.launch && x.target == a.target then
    some { s with accs := s.accs.map fun (x : ScatAcc) => if x.launch == a.launch && x.target == a.target then x.add a.value a.pois else x }
  else
    let mine := s.accs.filter fun (x : ScatAcc) => unitOf x.target == unitOf a.target
    if mine.length < 4096 then some (put s)
    else match mine.head? with
      | none => some (put s)
      | some old => (s.spillAcc old).map fun s' => if s'.adds.contains a then put s' else s'

/-- The operation of a fibre is complete when its last addition has been applied (R230). -/
def State.additionsDone (s : State) (o : Option (FibreRef × Nat)) : State :=
  match o with
  | none => s
  | some (r, id) => if s.adds.any fun (x : Addition) => x.owner == some (r, id) then s else s.complete1 r id

def execScatterAddition (idx : Nat) (s : State) : Host.Outcome State Fault Refusal :=
  match s.adds[idx]? with
  | none => .fault .notDue
  | some a => match s.addTo a with
    | none => .fault .notDue
    | some s' =>
      if s'.adds.contains a then .next ({ s' with adds := s'.adds.eraseIdx idx }.additionsDone a.owner)
      else .next s'

/-! ## Targets (R229) -/

/-- Every target byte lies in one of the launch's scatter ranges. -/
def inRanges (lr : LaunchRec) (va n : Nat) : Bool :=
  (List.range n).all fun k => lr.ranges.any fun (b, len) => b.toNat ≤ va + k && va + k < b.toNat + len

/-- The checks of a target from the address width on: bounds before translation, then the protection of R229. -/
def State.scatCheck (s : State) (w : Who) (lr : LaunchRec) (va n : Nat) : Except LaneErr Nat :=
  if 2 ^ 56 ≤ va then .error (lerr 7 11)
  else if !inRanges lr va n then .error (lerr 8 0)
  else match s.translate w.ctx va with
    | .absent lvl host => .error ⟨6, lvl, if host then some lvl else none⟩
    | .bad => .error (lerr 7 7)
    | .leaf l =>
      let pa := l.frame + va % l.size
      if !l.w then .error (lerr 7 1)
      else if pkgOf pa != s.pkg.toNat then .error (lerr 7 (if s.present (pkgOf pa) then 9 else 10))
      else if !isHbm (localOf pa) then .error (lerr 7 9)
      else if l.fmtp then .error (lerr 7 5)
      else match s.bankOf (localOf pa) with
        | some (uid, c, _, _) => .error (lerr 7 (if c == w.core && uid != w.team then 4 else 9))
        | none => if s.namesFifo w.core (localOf pa) then .error (lerr 7 3) else if s.inCode w.ctx va then .error (lerr 7 6) else .ok pa

/-- One lane of a scatter: poison, tag, alignment, then the target's checks. -/
def Ctx.scatLane (c : Ctx) (a : Src) (data : List (Src × Option Tag)) (addr : Nat) (n fld l : Nat) : Except LaneFail Nat :=
  match poisErr a l with
  | some (code, k, d, i) => .error ⟨l, code, d, i, k, 0, none⟩
  | none => match laneRowErr data l with
    | some (code, k, d, i) => .error ⟨l, code, d, i, k, addr, none⟩
    | none =>
      if addr % n != 0 then .error ⟨l, 5, n, 0, fld, addr, none⟩
      else match c.s.scatCheck c.who c.lr addr n with
        | .error e => .error ⟨l, e.code, e.detail, 0, fld, addr, e.host⟩
        | .ok pa => .ok pa

/-! ## gscat (R228, R230) -/

def execGscat (sub : BitVec 4) (f : MF) (s : State) : Host.Outcome State Fault Refusal :=
  let n := if sub == 0 then 4 else 8
  issue (.gscat sub f) (mNames f 0 false 1) s fun c => do
    c.ordered false
    let a := c.src 2 f.a 0 0
    let b := c.src 3 f.b 0 0
    let addr := addrOf a none (off20 f)
    let res := c.act.map fun l => (l, c.scatLane a [(b, some .f32)] (addr l) n 2 l)
    failLanes kindWrite (res.filterMap fun x => match x.2 with | .error e => some e | .ok _ => none)
    let lanes := res.filterMap fun x => match x.2 with | .ok pa => some (x.1, pa) | .error _ => none
    if lanes.isEmpty then .ok (c.s, .advance)
    else
      let (id, s) := (c.s.cacheAll c.t.ctx (c.act.map addr)).addOp c.r [.tape] .scatter f.la.toNat [] [] []
      let adds := lanes.flatMap fun (l, pa) => (List.range (n / 4)).map fun k =>
        Addition.mk c.t.launch c.t.ctx (pa + 4 * k) ((b.val l).extractLsb' (32 * k) 32) false (some (c.r, id))
      .ok ({ s with adds := s.adds ++ adds }, .advance)

/-! ## Finalisation (R231) -/

/-- The final FP32 word of a sum added to the memory word m. -/
def ScatAcc.final (a : ScatAcc) (m : Nat) : Nat :=
  let v := fmtF32.value m
  if a.nan || v.isNan || (a.pinf && a.ninf) then fmtF32.nan
  else if a.pinf || a.ninf then
    (if v == .inf (!a.ninf) then fmtF32.nan else fmtF32.withSign a.ninf fmtF32.infCode)
  else
    let t : FV := if a.sum.toInt == 0 then .fin a.negz 0 0 else .fin (a.sum.toInt < 0) a.sum.toInt.natAbs (-149)
    rne fmtF32 false (sumFV [v, t]).1

/-- One target is finalised in one event: accumulator and record are freed. None when its record cannot be read. -/
def State.finalTarget (s : State) (l : Launch) (target : Nat) : Option State :=
  let acc := s.accs.find? fun (x : ScatAcc) => x.launch == l.id && x.target == target
  let rec? := ((s.launch? l.id).getD l).recordOf target
  let ok := match rec? with | some k => s.recordOk l k | none => true
  if !ok then none
  else
    let sum := match acc, rec? with
      | some a, some k => some ((s.readRecord l k).merge a)
      | some a, none => some a
      | none, some k => some (s.readRecord l k)
      | none, none => none
    match sum with
    | none => some s
    | some a =>
      let p := s.place target
      let (bs, _) := s.readPlace p 4
      let s1 := s.writePlace p (leBytes 4 (a.final (leNat bs))) a.pois
      let s2 := { s1 with accs := s1.accs.filter fun (x : ScatAcc) => !(x.launch == l.id && x.target == target) }
      some (match rec? with | some k => s2.freeRecord l k | none => s2)

/-- Targets of a launch that hold an accumulator or a record. -/
def State.targets (s : State) (l : Launch) : List Nat :=
  ((s.accs.filter fun (x : ScatAcc) => x.launch == l.id).map (·.target) ++ l.spills.map (·.1)).eraseDups

/-- Finalisation of the targets that satisfy a test; an unreachable record ends the launch's context (R227). -/
def State.finalise (s : State) (l : Launch) (test : Nat → Bool) : State :=
  let go := ((s.targets l).filter test).foldl (fun (acc : Option State) t => acc.bind fun s => s.finalTarget l t) (some s)
  match go with
  | some s' => s'
  | none => s.ovfUnreachable l

/-- Physical pieces of a virtual range, page by page; pages that do not translate are passed over. -/
def State.physRange (s : State) (ctx va n : Nat) : List (Nat × Nat) :=
  (pagesOf va (min n (2 ^ 56 - va))).filterMap fun p => match s.translate ctx p with
    | .leaf l => some (l.frame + p % l.size, min (va + n) ((p / 4096 + 1) * 4096) - p)
    | _ => none

/-- A scatter addition of the fibre is not yet applied, or a scatter-mode request not yet complete. -/
def Ctx.scattering (c : Ctx) : Bool :=
  c.f.ops.any (fun o => !o.done && (match o.kind with | .scatter => true | _ => false)) ||
    (c.s.clusters.any fun cl => cl.table.any fun g => g.owner == c.r && g.scat.isSome) ||
    c.s.adds.any fun a => (a.owner.map (·.1)) == some c.r

/-- Finalisation waits for the fibre's earlier additions; it stalls while the event of a termination could not be held. -/
def Ctx.flush (c : Ctx) (test : Nat → Bool) : Act :=
  if c.act.isEmpty then .ok (c.s, .advance)
  else if c.scattering || !c.s.canPost then .error .stall
  else match c.s.launch? c.t.launch with
    | none => .ok (c.s, .advance)
    | some l =>
      let s := c.s.finalise l test
      .ok (s, if (s.ctx c.t.ctx).dying then .placed else .advance)

def execGflush (f : SF) (s : State) : Host.Outcome State Fault Refusal :=
  issue (.gflush f) ⟨group 40 f.a.toNat 2, [], f.g⟩ s fun c =>
    if c.act.isEmpty then .ok (c.s, .advance)
    else do
      let x := c.plain 2 f.a.toNat
      let y := c.plain 2 (f.a.toNat + 1)
      c.checkLow [x, y]
      let va := (x.val c.low).toNat
      let n := (y.val c.low).toNat
      let pieces := c.s.physRange c.t.ctx va n
      c.flush fun t => pieces.any fun (pa, k) => pa ≤ t && t < pa + k

def execGflushAll (f : SF) (s : State) : Host.Outcome State Fault Refusal :=
  issue (.gflushAll f) (sNames f false false) s fun c => c.flush fun _ => true

end Sys2Proof.Machine
end

