-- ==== Sys2Proof/Machine/Matrix.lean ====
section
/-! DEFINITION. The forward array and the gradient engine: `mma`, `mdist`, `gmma`, `mzero`, `mld`, `mst`, `mcancel`, accumulator grants,
acceptance and completion (R66, R187, R196 to R210). -/

namespace Sys2Proof.Machine

/-! ## What the instructions accept -/

def floatTags : List Nat := [1, 2, 3, 4, 5, 6, 9, 10, 11]
def anyTags : List Nat := List.range 12

def kindsA (f : XF) : List Nat := if f.tA then [1, 2] else [1, 2, 3]

def useTd (c : Ctx) (f : XF) (tags : List Nat) : TileUse := ⟨5, 48, c.tile f.td, [1], [true], tags⟩
def useTa (c : Ctx) (f : XF) (tags : List Nat) : TileUse := ⟨6, 44, c.tile f.ta, kindsA f, [false], tags⟩
def useTb (c : Ctx) (f : XF) (tags : List Nat) : TileUse := ⟨7, 40, c.tile f.tb, [1, 2], [false], tags⟩

/-- M and N: multiples of 64 from 64 to 256. -/
def sideOk (n : Nat) : Bool := n % 64 == 0 && 64 ≤ n && n ≤ 256
/-- K: multiples of 32 from 32 to 1,024. -/
def depthOk (n : Nat) : Bool := n % 32 == 0 && 32 ≤ n && n ≤ 1024

/-- The limits on the views of A and B; the operand whose limit fails. -/
def viewsBad (f : XF) (ta tb : Tile) : Option (Nat × Nat) :=
  let (m, k) := ta.view f.tA
  let (k', n) := tb.view f.tB
  if !sideOk m || !depthOk k then some (6, 44)
  else if k' != k || !sideOk n then some (7, 40)
  else none

/-- `mma` and `gmma`: td holds M rows and N columns; the pair form needs M, or N, to be a multiple of 128 (R197, R198). -/
def mmaShape (f : XF) (pair : Bool) (td ta tb : Tile) : Option (Nat × Nat) :=
  match viewsBad f ta tb with
  | some e => some e
  | none =>
    let m := (ta.view f.tA).1
    let n := (tb.view f.tB).2
    if td.rows != m || td.cols != n then some (5, 48)
    else if pair && !f.bit22 && m % 128 != 0 then some (6, 44)
    else if pair && f.bit22 && n % 128 != 0 then some (7, 40)
    else none

/-! ## Acceptance (R196) -/

/-- The tag of a tile register is set at acceptance. -/
def setTag (k : BitVec 4) (tag : Nat) (f : Fibre) : Fibre := { f with tiles := f.tiles.modify k.toNat fun d => setTileTag d tag }

/-- An operation enters the queue of the forward array; a full queue stalls. `post` changes the fibre at acceptance. -/
def Ctx.accept (c : Ctx) (i : Instr) (f : XF) (x : Word) (tiles : List (List Word)) (post : Fibre → Fibre) : Act :=
  if 8 ≤ (c.s.core c.core).array.length then .error .stall
  else
    let gs := (tiles.flatMap fun d => (tileOf d).granules c.s c.t c.core).eraseDups
    let (id, s) := c.s.addOp c.r [.fwd] (.array c.s.fresh) f.la.toNat [] [] gs
    let op : ArrayOp := ⟨id, c.r, i, c.tile f.td, c.tile f.ta, c.tile f.tb, x, c.f.dphase⟩
    .ok ((s.modCore c.core fun co => { co with array := co.array ++ [op] }).modFibre c.r post, .advance)

def execMma (sub : BitVec 4) (f : XF) (s : State) : Host.Outcome State Fault Refusal :=
  let tags := if sub == 0 then floatTags else [0]
  issue (.mma sub f) ⟨[], [], f.g⟩ s fun c =>
    if c.act.isEmpty then .ok (c.s, .advance)
    else if f.pr && (!c.lr.pair || 64 ≤ c.r.fid) then c.illegal 30
    else do
      c.useTiles c.core [useTd c f (if sub == 0 then [0, 1] else [0]), useTa c f tags, useTb c f tags]
        (mmaShape f f.pr (tileOf (c.tile f.td)) (tileOf (c.tile f.ta)) (tileOf (c.tile f.tb)))
      c.accept (.mma sub f) f 0 [c.tile f.ta, c.tile f.tb] (setTag f.td (if sub == 0 then 1 else 0))

/-- `mdist`: td has M rows and at least 2k columns (R199). -/
def mdistShape (f : XF) (td ta tb : Tile) : Option (Nat × Nat) :=
  match viewsBad f ta tb with
  | some e => some e
  | none => if td.rows != (ta.view f.tA).1 || td.cols < 2 * f.k.toNat then some (5, 48) else none

/-- `mdist` (R199). The rows of its vector operand are checked before the tiles, here and in `gmma` (DEDUCED, assumption 130). -/
def execMdist (f : XF) (s : State) : Host.Outcome State Fault Refusal :=
  issue (.mdist f) ⟨regName 34 f.v, [], f.g⟩ s fun c =>
    if c.act.isEmpty then .ok (c.s, .advance)
    else do
      let x := if f.v == 63 then [] else [c.plain 8 f.v.toNat]
      c.checkV x
      c.useTiles c.core [useTd c f [0], useTa c f floatTags, useTb c f floatTags]
        (mdistShape f (tileOf (c.tile f.td)) (tileOf (c.tile f.ta)) (tileOf (c.tile f.tb)))
      c.accept (.mdist f) f ((x.head?.map fun y => y.val c.low).getD 0) [c.tile f.ta, c.tile f.tb] id

def execMzero (f : XF) (s : State) : Host.Outcome State Fault Refusal :=
  issue (.mzero f) ⟨[], [], f.g⟩ s fun c =>
    if c.act.isEmpty then .ok (c.s, .advance)
    else do
      c.useTiles c.core [useTd c f anyTags] none
      c.accept (.mzero f) f 0 [] id

/-- Two tiles of one shape; `fld` and `bit` name the second. -/
def sameShape (fld bit : Nat) (a b : Tile) : Option (Nat × Nat) := if a.rows == b.rows && a.cols == b.cols then none else some (fld, bit)

def execMld (sub : BitVec 4) (f : XF) (s : State) : Host.Outcome State Fault Refusal :=
  issue (.mld sub f) ⟨[], [], f.g⟩ s fun c =>
    if c.act.isEmpty then .ok (c.s, .advance)
    else do
      c.useTiles c.core [useTd c f [1], ⟨6, 44, c.tile f.ta, [1], [false], floatTags⟩]
        (sameShape 6 44 (tileOf (c.tile f.td)) (tileOf (c.tile f.ta)))
      c.accept (.mld sub f) f 0 [c.tile f.ta] id

/-- A store of one path advances the dither phase (R58). -/
def nextPhase (f : Fibre) : Fibre := { f with dphase := f.dphase + 11 }

def execMst (sub : BitVec 4) (f : XF) (s : State) : Host.Outcome State Fault Refusal :=
  issue (.mst sub f) ⟨[], [], f.g⟩ s fun c =>
    if c.act.isEmpty then .ok (c.s, .advance)
    else do
      let td := tileOf (c.tile f.td)
      c.useTiles c.core [⟨5, 48, c.tile f.td, [1], [false], floatTags⟩, ⟨6, 44, c.tile f.ta, [1], [true], [1]⟩]
        (sameShape 6 44 td (tileOf (c.tile f.ta)))
      if sub == 5 && 16 ≤ td.bits then c.fault 1 5 52 (c.is.word.toNat / 2 ^ 32)
      else c.accept (.mst sub f) f 0 [c.tile f.td] (if td.tag == 1 then id else nextPhase)

/-! ## The sums of R66 and R199 -/

/-- Lists of 32. -/
def blocks32 {α : Type} : Nat → List α → List (List α)
  | 0, _ => []
  | n + 1, l => match l with
    | [] => []
    | _ => l.take 32 :: blocks32 n (l.drop 32)

/-- Block sums in order: each rounded once, then added (R66). `term` gives the exact product or square of one pair. -/
def accumulate (ov : Bool) (term : FV → FV → FV) (acc : Nat) (a b : List FV) : Nat :=
  (blocks32 32 (List.zipWith term a b)).foldl (fun acc ts =>
    let s := (sumFV ts).1
    let b := rne fmtF32 (!ov) s
    rne fmtF32 (!ov) (sumFV [fmtF32.value acc, fmtF32.value b]).1) acc

def product (a b : FV) : FV := (a.mul b).1
/-- The exact square of the exact difference. -/
def sqDiff (a b : FV) : FV := let d := (sumFV [a, b.neg]).1; (d.mul d).1

/-- Rows of A and columns of B as values, with poison for each row and column (R210). -/
def Store.rowsOf (m : Store) (t : Tile) (flag : Bool) (rows cols : Nat) : List (List FV × Bool) :=
  (List.range rows).map fun i =>
    let l := (List.range cols).map fun k => m.viewValue t flag i k
    (l.map (·.1), l.any (·.2))

def Store.colsOf (m : Store) (t : Tile) (flag : Bool) (rows cols : Nat) : List (List FV × Bool) :=
  (List.range cols).map fun j =>
    let l := (List.range rows).map fun k => m.viewValue t flag k j
    (l.map (·.1), l.any (·.2))

/-- Signed 8-bit rows and columns of the `.i8` mode. -/
def Store.intLine (m : Store) (t : Tile) (flag : Bool) (row : Bool) (n i : Nat) : List Int × Bool :=
  let l := (List.range n).map fun k => if row then m.viewCode t flag i k else m.viewCode t flag k i
  (l.map fun x => sext 8 x.1, l.any (·.2))

/-- D of `mma` and `gmma`, row by row (R197, R202, R210). -/
def Store.product (m : Store) (i8 : Bool) (f : XF) (zc : Bool) (td ta tb : Tile) : List (List (Nat × Bool)) :=
  let (rows, k) := ta.view f.tA
  let cols := (tb.view f.tB).2
  let cOf (i j : Nat) : Nat × Bool := if zc then (0, false) else m.code td i j
  if i8 then
    let as_ := (List.range rows).map fun i => m.intLine ta f.tA true k i
    let bs := (List.range cols).map fun j => m.intLine tb f.tB false k j
    as_.zipIdx.map fun (a, i) => bs.zipIdx.map fun (b, j) =>
      let (c, p) := cOf i j
      (wrap 32 ((List.zipWith (· * ·) a.1 b.1).foldl (· + ·) (c : Int)), p || a.2 || b.2)
  else
    let as_ := m.rowsOf ta f.tA rows k
    let bs := m.colsOf tb f.tB k cols
    as_.zipIdx.map fun (a, i) => bs.zipIdx.map fun (b, j) =>
      let (c, p) := cOf i j
      (accumulate f.ov Sys2Proof.Machine.product c a.1 b.1, p || a.2 || b.2)

/-! ## mdist (R199) -/

/-- A candidate: FP32 bits of the distance, index, poison. -/
abbrev Cand := Nat × Nat × Bool

/-- Order of distances: NaN above +∞, zeros equal; ties by index. -/
def candBefore (x y : Cand) : Bool :=
  let a := fmtF32.value x.1
  let b := fmtF32.value y.1
  match a.isNan, b.isNan with
  | true, true => x.2.1 < y.2.1
  | true, false => false
  | false, true => true
  | false, false => a.lt b || (!b.lt a && x.2.1 < y.2.1)

/-- A candidate goes behind those that the order of R199 does not place after it: at equal distance and index the pair kept in td stays
first (DEDUCED, assumption 129). -/
def candInsert (x : Cand) : List Cand → List Cand
  | [] => [x]
  | y :: ys => if candBefore x y then x :: y :: ys else y :: candInsert x ys

def candSort (l : List Cand) : List Cand := l.foldl (fun a x => candInsert x a) []

/-- One row of the result: k distances, k indices, and the other columns as they were. -/
def mdistRow (k cols : Nat) (best : List Cand) (old : Nat → Nat × Bool) : List (Nat × Bool) :=
  (List.range cols).map fun c =>
    if c < k then let x := best.getD c (0, 0, false); (x.1, x.2.2)
    else if c < 2 * k then let x := best.getD (c - k) (0, 0, false); (x.2.1, x.2.2)
    else old c

def Store.distances (m : Store) (f : XF) (x : Word) (td ta tb : Tile) : List (List (Nat × Bool)) :=
  let (rows, k) := ta.view f.tA
  let cols := (tb.view f.tB).2
  let n := f.k.toNat
  let as_ := m.rowsOf ta f.tA rows k
  let bs := m.colsOf tb f.tB k cols
  as_.zipIdx.map fun (a, i) =>
    let new := bs.zipIdx.map fun (b, j) => (accumulate f.ov sqDiff 0 a.1 b.1, (x.toNat + j) % 2 ^ 32, a.2 || b.2)
    let kept := if f.bit23 then (List.range n).map fun q =>
      ((m.code td i q).1, (m.code td i (n + q)).1, (m.code td i q).2 || (m.code td i (n + q)).2) else []
    -- every pair of the row is chosen among all candidates, so a poisoned one poisons them all (R210)
    let pois := (kept ++ new).any (·.2.2)
    mdistRow n td.cols (((candSort (kept ++ new)).take n).map fun x => (x.1, x.2.1, pois)) (m.code td i)

/-! ## mld and mst (R206) -/

def mode3 (sub : BitVec 4) : Rnd := Rnd.ofCode (sub.toNat % 8)

def Store.toF32 (m : Store) (sub : BitVec 4) (f : XF) (ta : Tile) : List (List (Nat × Bool)) :=
  (List.range ta.rows).map fun r => (List.range ta.cols).map fun c =>
    let (v, p) := m.value ta r c
    ((roundFV fmtF32 (mode3 sub) 0 (!f.ov) 0 v).1, p)

/-- Largest magnitude of a list, and whether an element is NaN, or infinite. -/
def largest (l : List FV) : FV × Bool × Bool :=
  (l.foldl (fun a x => match x with | .fin _ m e => if a.lt (.fin false m e) then .fin false m e else a | _ => a) (.fin false 0 0),
    l.any FV.isNan, l.any FV.isInf)

/-- The block scale of R117 for a block of values. -/
def blockScale (tag : Nat) (l : List FV) : Nat :=
  let (m, nan, inf) := largest l
  match m with
  | .fin _ m e =>
    if tag == 11 then (if inf then 255 else if m == 0 then 0 else fb4Scale m e)
    else mxScale (nan || inf) m e (if tag == 9 then 8 else 2)
  | _ => 255

/-- x / scale, exact up to rounding. -/
def scaledBy (x scale : FV) : FV := (fdivV x scale).1

/-- One block of an `mst` into a block tag: its scale and its element codes. -/
def mstBlock (tag : Nat) (mode : Rnd) (sat : Bool) (phase c0 : Nat) (els : List (FV × Bool)) : Nat × List (Nat × Bool) × Bool :=
  let pois := els.any (·.2)
  let sc := blockScale tag (els.map (·.1))
  let sv := if tag == 11 then e3m5Value sc else e8m0Value sc
  let f := tagFmt tag
  (sc, els.zipIdx.map fun ((v, _), k) =>
    (if sv.isNan then (if tag == 9 then f.nan else 0) else (roundFV f mode (dither (c0 + k) phase) sat 0 (scaledBy v sv)).1, pois), pois)

/-- The row of an `mst`: element codes, and the scales of its blocks. -/
def Store.mstRow (m : Store) (sub : BitVec 4) (f : XF) (phase : Nat) (td ta : Tile) (r : Nat) : List (Nat × Bool) × List (Nat × Bool) :=
  let els := (List.range ta.cols).map fun c => m.value ta r c
  let bs := blockCols td.tag
  if bs == 0 then
    (els.zipIdx.map fun ((v, p), c) => ((roundFV (tagFmt td.tag) (mode3 sub) (dither c phase) (!f.ov) 0 v).1, p), [])
  else
    let blks := (List.range (ta.cols / bs)).map fun b => mstBlock td.tag (mode3 sub) (!f.ov) phase (b * bs) ((els.drop (b * bs)).take bs)
    (blks.flatMap fun x => x.2.1, blks.map fun x => (x.1, x.2.2))

def State.storeRows (s : State) (t : Team) (core : Nat) (td : Tile) (rows : List (List (Nat × Bool) × List (Nat × Bool))) : State :=
  let s := s.tileRows t core td (rows.map (·.1))
  let bs := blockCols td.tag
  if bs == 0 then s
  else
    let s := rows.zipIdx.foldl (fun (s : State) (x, r) =>
      s.tileStore t core td.acc (td.scale + r * (td.cols / bs)) (packRow 8 0 x.2)) s
    if td.tag == 11 then s.tileStore t core td.acc td.band ((List.replicate (td.rows / 64) [(0x80#8, false), (0x3F#8, false)]).flatten) else s

/-! ## FORWARD_ARRAY_COMPLETE -/

/-- The effects of one operation, in one piece (R196). -/
def State.arrayRun (s : State) (t : Team) (core : Nat) (o : ArrayOp) : State :=
  let m : Store := ⟨s, t, core, s.oldBytes o.owner⟩
  let td := tileOf o.td
  let ta := tileOf o.ta
  let tb := tileOf o.tb
  match o.i with
  | .mma sub f => s.tileRows t core td (m.product (sub == 1) f f.bit23 td ta tb)
  | .mdist f => s.tileRows t core td (m.distances f o.x td ta tb)
  | .mzero _ => s.tileRows t core td (List.replicate td.rows (List.replicate td.cols (0, false)))
  | .mld sub f => s.tileRows t core td (m.toF32 sub f ta)
  | .mst sub f => s.storeRows t core td ((List.range td.rows).map fun r => m.mstRow sub f o.phase.toNat td ta r)
  | _ => s

/-- The bytes of accumulator memory between a tile's lowest and highest. -/
def accHull (d : List Word) : Option (Nat × Nat) := let t := tileOf d; if t.acc then some (t.lowest, t.highest - t.lowest + 1) else none

def hullsMeet (a b : Option (Nat × Nat)) : Bool := match a, b with | some (x, n), some (y, m) => overlaps x n y m | _, _ => false

/-- Accumulator tiles of an operation meet. -/
def tilesMeet (xs ys : List (List Word)) : Bool := xs.any fun a => ys.any fun b => hullsMeet (accHull a) (accHull b)

def ArrayOp.accTiles (o : ArrayOp) : List (List Word) :=
  match o.i with
  | .mst _ _ => [o.ta]
  | _ => [o.td]

/-- A request writes accumulator memory. -/
def GReq.intoAcc (g : GReq) : Bool := g.scat.isNone && !g.orphan

def State.reqsOf (s : State) (core : Nat) : List GReq := (s.cluster (core / 4)).table.filter fun (g : GReq) => g.core == core

/-- Earlier accepted requests that meet accumulator tiles of a team (R196). -/
def State.reqBefore (s : State) (core id team : Nat) (tiles : List (List Word)) : Bool :=
  (s.reqsOf core).any fun g => g.intoAcc && g.id < id && g.owner.team == team && tilesMeet [g.td] tiles

def State.arrayBefore (s : State) (core id team : Nat) (tiles : List (List Word)) : Bool :=
  (s.core core).array.any fun o => o.id < id && o.owner.team == team && tilesMeet o.accTiles tiles

def Instr.isPair : Instr → Bool
  | .mma _ f => f.pr
  | _ => false

/-- The array of a follower core is slaved while its leader's queue holds a pair operation (R198). -/
def State.slaved (s : State) (core : Nat) : Bool := core % 2 == 1 && (s.core (core - 1)).array.any fun o => Instr.isPair o.i

/-- An access that the fibre issued before an engine operation, and that must precede it (R196): any but a tile transfer without a
window. Accesses that are performed when they issue do not count. -/
def Op.released (o : Op) : Bool :=
  !o.done && (match o.kind with
    | .access (.ldt _ _) _ _ | .tileRemote _ => o.isWindow
    | .access _ (_ :: _) _ | .held _ _ _ | .remoteStore | .queue _ => true
    | _ => false)

def State.releaseBefore (s : State) (owner : FibreRef) (id : Nat) : Bool :=
  match s.fibre? owner with
  | some f => f.ops.any fun o => o.id < id && o.released
  | none => false

/-- An earlier tile load from another package into accumulator tiles of the team is still to be written (R196). -/
def State.loadBefore (s : State) (core id team : Nat) (tiles : List (List Word)) : Bool :=
  match s.team? team with
  | some t => t.fibres.any fun f => t.coreOf f.fid == core && f.ops.any fun o => o.id < id && !o.done && (match o.kind with
    | .access (.ldt _ _) (d :: _) _ => tilesMeet [d.args] tiles
    | _ => false)
  | none => false

def State.arrayDue (s : State) (core : Nat) (o : ArrayOp) : Bool :=
  !s.slaved core && !s.releaseBefore o.owner o.id && !s.reqBefore core o.id o.owner.team o.accTiles &&
    !s.loadBefore core o.id o.owner.team o.accTiles

/-- FORWARD_ARRAY_COMPLETE: the oldest operation of the queue has its effects, its granules return, and it is complete. Results of a
terminated context are dropped (R358). -/
def execForwardArrayComplete (core : Nat) (s : State) : Host.Outcome State Fault Refusal :=
  match (s.core core).array with
  | [] => .fault .notDue
  | o :: rest =>
    if !s.arrayDue core o then .fault .notDue
    else
      let s1 := match s.team? o.owner.team with
        | some t => if (s.ctx t.ctx).dying then s else s.arrayRun t core o
        | none => s
      .next ((s1.modCore core fun co => { co with array := rest }).complete1 o.owner o.id)

/-! ## gmma and the gradient engine (R200 to R203) -/

/-- The failing rows of a scatter target, each with its first failure: N words from G + i × S on (R200). -/
def Ctx.scatRows (c : Ctx) (g stride : Word) (rows cols : Nat) : List LaneFail :=
  (List.range rows).filterMap fun i =>
    let a := (g + BitVec.ofNat 64 i * stride).toNat
    if a % 4 != 0 then some ⟨i, 5, 4, 0, 8, a, none⟩
    else (pagesOf a (4 * cols)).findSome? fun p =>
      let n := min (a + 4 * cols) ((p / 4096 + 1) * 4096) - p
      match c.s.scatCheck c.who c.lr p n with
      | .error e => some ⟨i, e.code, e.detail, 0, 8, p, e.host⟩
      | .ok _ => none

/-- LANES of a scatter-mode bounds fault names the failing rows; rows from 64 on have no bit in it, and the spec does not say what it
then holds. -/
def rowMask (tick : Nat) (rows : List Nat) : Word := if rows.all (· < 64) then maskOf rows else Config.freeWord tick

/-- The bounds fault replaces the lane mask by the failing rows; any other names the lane whose v registers give the target (R209). -/
def Ctx.failRows (c : Ctx) (errs : List LaneFail) : Except Exc Unit :=
  match errs with
  | [] => .ok ()
  | e :: _ =>
    let x : Flt := ⟨e.code, 8, e.detail, 0, BitVec.ofNat 64 e.addr,
      if e.code == 8 then rowMask c.s.tick (errs.map (·.lane)) else maskOf [c.low]⟩
    if e.host.isSome then .error (.pages (errs.filterMap fun x => x.host.map fun l => (x.addr, l)) kindWrite x) else .error (.fault x)

/-- The request enters the table; a full table, or 16 entries of the core, stalls (R275). -/
def Ctx.post (c : Ctx) (f : XF) (scat : Option (Word × Word)) (post : Fibre → Fibre) : Act :=
  if 32 ≤ (c.s.cluster (c.core / 4)).table.length || 16 ≤ (c.s.reqsOf c.core).length then .error .stall
  else
    let gs := ([c.tile f.ta, c.tile f.tb].flatMap fun d => (tileOf d).granules c.s c.t c.core).eraseDups
    let (id, s) := c.s.addOp c.r [.grad] (.gradient c.s.fresh) 15 [] [] gs
    let q : GReq := ⟨id, c.r, c.core, s.clock, f.k.toNat, .queued, f, c.tile f.td, c.tile f.ta, c.tile f.tb, scat, false, false, none⟩
    .ok ((s.modCluster (c.core / 4) fun cl => { cl with table := cl.table ++ [q] }).modFibre c.r post, .advance)

def execGmma (f : XF) (s : State) : Host.Outcome State Fault Refusal :=
  issue (.gmma f) (if f.bit23 then xNames f 2 else ⟨[], [], f.g⟩) s fun c =>
    if c.act.isEmpty then .ok (c.s, .advance)
    else if !f.bit23 then do
      c.useTiles c.core [useTd c f [0, 1], useTa c f floatTags, useTb c f floatTags]
        (mmaShape f false (tileOf (c.tile f.td)) (tileOf (c.tile f.ta)) (tileOf (c.tile f.tb)))
      c.post f none (setTag f.td 1)
    else do
      let g := c.plain 8 f.v.toNat
      let st := c.plain 8 (f.v.toNat + 1)
      c.checkV [g, st]
      c.useTiles c.core [useTa c f floatTags, useTb c f floatTags] (viewsBad f (tileOf (c.tile f.ta)) (tileOf (c.tile f.tb)))
      let rows := ((tileOf (c.tile f.ta)).view f.tA).1
      let cols := ((tileOf (c.tile f.tb)).view f.tB).2
      if (g.val c.low).toNat % 4 != 0 || (st.val c.low).toNat % 4 != 0 then
        .error (.fault ⟨5, 8, 4, 0, g.val c.low, maskOf [c.low]⟩)
      else
        c.failRows (c.scatRows (g.val c.low) (st.val c.low) rows cols)
        c.post f (some (g.val c.low, st.val c.low)) id

/-- Age of a request in clocks. -/
def GReq.age (g : GReq) (now : Nat) : Nat := now - g.posted

/-- The arbiter's choice (R201): requests older than 65,536 clocks, oldest first; then the highest priority, oldest first. -/
def startBefore (now : Nat) (a b : GReq) : Bool :=
  let older := a.posted < b.posted || (a.posted == b.posted && a.id < b.id)
  if 65536 < a.age now then !decide (65536 < b.age now) || older
  else if 65536 < b.age now then false
  else b.prio < a.prio || (a.prio == b.prio && older)

def nextRequest (now : Nat) (l : List GReq) : Option GReq :=
  match l.filter fun g => g.state == .queued with
  | [] => none
  | g :: gs => some (gs.foldl (fun a x => if startBefore now x a then x else a) g)

/-- A started request can read its operands, and complete: its fibre's earlier accesses and, on its accumulator elements, all earlier
accepted operations are complete (R196). -/
def State.requestDue (s : State) (g : GReq) : Bool :=
  g.state == .started && !s.releaseBefore g.owner g.id && (!g.intoAcc ||
    !(s.arrayBefore g.core g.id g.owner.team [g.td] || s.reqBefore g.core g.id g.owner.team [g.td] ||
      s.loadBefore g.core g.id g.owner.team [g.td]))

/-- The result of a request, from its operands as they are (R202), or as it has read them. -/
def State.requestRun (s : State) (t : Team) (g : GReq) : List (List (Nat × Bool)) :=
  g.result.getD ((Store.mk s t g.core (s.oldBytes g.owner)).product false g.f (g.f.bit22 || g.scat.isSome) (tileOf g.td) (tileOf g.ta) (tileOf g.tb))

/-- A request that started earlier has read its operands; it keeps its result until it completes. One whose results are dropped reads
none. -/
def State.readOperands (s : State) (g : GReq) : GReq :=
  match s.team? g.owner.team with
  | some t => if g.state == .started && !g.orphan && !(s.ctx t.ctx).dying then { g with result := some (s.requestRun t g) } else g
  | none => g

/-- The engine may start another request: the one it runs can have read its operands (R201). -/
def State.engineFree (s : State) (g : GReq) : Bool :=
  g.state == .queued || g.orphan || g.result.isSome || (s.team? g.owner.team).isNone || s.requestDue g

/-- GRADIENT_ENGINE_START: the arbiter starts a queued request, once the current one has read its operands (R201). -/
def execGradientEngineStart (cluster : Nat) (s : State) : Host.Outcome State Fault Refusal :=
  match nextRequest s.clock (s.cluster cluster).table with
  | none => .fault .notDue
  | some g =>
    if (s.cluster cluster).table.all s.engineFree then
      .next (s.modCluster cluster fun cl => { cl with
        table := cl.table.map fun (x : GReq) => if x.id == g.id then { x with state := .started } else s.readOperands x })
    else .fault .notDue

/-- The additions of a scatter-mode result. -/
def scatterResults (s : State) (t : Team) (owner : FibreRef × Nat) (g stride : Word) (rows : List (List (Nat × Bool))) : List Addition :=
  rows.zipIdx.flatMap fun (row, i) => row.zipIdx.map fun ((v, p), j) =>
    ⟨t.launch, t.ctx, s.pa t.ctx (g + BitVec.ofNat 64 i * stride + BitVec.ofNat 64 (4 * j)).toNat, BitVec.ofNat 32 v, p, some owner⟩

/-- GRADIENT_ENGINE_COMPLETE: a started request lands in accumulator memory, or goes to the scatter units, where its fibre's
operation completes with the last addition. An orphaned request, and one of a terminated context, writes nothing (R207, R358). Among
several requests the order is free. -/
def execGradientEngineComplete (cluster : Nat) (s : State) : Host.Outcome State Fault Refusal :=
  let due := (s.cluster cluster).table.filter s.requestDue
  match due[Config.choice s.tick % due.length]? with
  | none => .fault .notDue
  | some g =>
    let s1 := s.modCluster cluster fun cl => { cl with table := cl.table.filter fun (x : GReq) => x.id != g.id }
    match s.team? g.owner.team with
    | none => .next (s1.complete1 g.owner g.id)
    | some t =>
      if g.orphan || (s.ctx t.ctx).dying then .next (s1.complete1 g.owner g.id)
      else
        let d := (s.requestRun t g).map fun row => row.map fun (v, p) => (v, p || g.poison)
        match g.scat with
        | none => .next ((s1.tileRows t g.core (tileOf g.td) d).complete1 g.owner g.id)
        | some (base, stride) => .next { s1 with adds := s1.adds ++ scatterResults s t (g.owner, g.id) base stride d }

/-! ## mcancel (R204) -/

/-- Queued requests leave the table; their operations end and their granules return. -/
def State.cancel (s : State) (cluster : Nat) (mine : GReq → Bool) : State :=
  let gone := (s.cluster cluster).table.filter fun g => g.state == .queued && mine g
  gone.foldl (fun (s : State) g => (s.modCluster cluster fun cl => { cl with
    table := cl.table.filter fun (x : GReq) => x.id != g.id }).complete1 g.owner g.id) s

def cancelInstr (i : Instr) (f : XF) (mine : Ctx → GReq → Bool) (s : State) : Host.Outcome State Fault Refusal :=
  issue i (xNames f 1) s fun c =>
    if c.act.isEmpty then .ok (c.s, .advance)
    else
      let n := ((c.s.cluster (c.core / 4)).table.filter fun g => g.state == .queued && mine c g).length
      .ok (c.write (c.s.cancel (c.core / 4) (mine c)) f.v.toNat (c.act.map fun l => (l, ⟨BitVec.ofNat 64 n, .raw, false⟩)) .uniform, .advance)

def execMcancel (f : XF) (s : State) : Host.Outcome State Fault Refusal := cancelInstr (.mcancel f) f (fun c g => g.owner == c.r) s
def execMcancelTeam (f : XF) (s : State) : Host.Outcome State Fault Refusal :=
  cancelInstr (.mcancelTeam f) f (fun c g => g.owner.team == c.t.uid) s

/-! ## Accumulator grants (R187, R205) -/

/-- Banks that static teams hold on a core. -/
def State.staticBanks (s : State) (core : Nat) : Nat :=
  ((s.core core).acc.filter fun b => match b.owner with
    | some u => (match s.team? u with | some t => !(s.recOf t).accDyn | none => false)
    | none => false).length

def freeAccs (c : Core) : List Nat := (List.range c.acc.length).filter fun k => (c.acc.getD k .reset).owner.isNone

def execAcqa (f : XF) (s : State) : Host.Outcome State Fault Refusal :=
  let n := f.k.toNat
  issue (.acqa f) ⟨[], [], f.g⟩ s fun c =>
    if !c.lr.accDyn then c.illegal 56
    else if c.act.isEmpty then .ok (c.s, .advance)
    else
      let cores := c.t.cores c.lr
      let room := cores.foldl (fun a k => min a (8 - c.s.staticBanks k)) 8
      if room < n || c.t.accDyn || cores.any (fun k => (c.s.core k).accWait.any fun q => q.team == c.t.uid) then c.fault 0x0C 0 room n
      else
        let s := cores.foldl (fun (s : State) k => s.modCore k fun co => { co with accWait := co.accWait ++ [⟨c.t.uid, n, c.r⟩] }) c.s
        .ok (s.modFibre c.r fun g => ((g.modThreads c.act fun t => t.stopAt c.is (.parked .acqa (.acqa f) s.time)).placeRest).leave, .stopped)

/-- Granted banks read zero. -/
def grantBanks (uid : Nat) (ks : List Nat) (c : Core) : Core :=
  { c with acc := c.acc.zipIdx.map fun ((b : AccBank), k) => if ks.contains k then ⟨some uid, [], []⟩ else b }

/-- Threads parked in `acqa` go on. -/
def wakeAcqa (t : Thread) : Thread := match t.st with | .parked .acqa _ _ => t.goOn | _ => t

/-- ACCUMULATOR_GRANT: the oldest request of a core is granted all at once; a pair team's on both cores (R187). -/
def execAccumulatorGrant (core : Nat) (s : State) : Host.Outcome State Fault Refusal :=
  match (s.core core).accWait with
  | [] => .fault .notDue
  | q :: _ => match s.team? q.team with
    | none => .next (s.modCore core fun c => { c with accWait := c.accWait.drop 1 })
    | some t =>
      let cores := t.cores (s.recOf t)
      if t.core != core || cores.any fun k => (s.core k).accWait.head? != some q || (freeAccs (s.core k)).length < q.n then .fault .notDue
      else
        let take (k : Nat) : List Nat := (freeAccs (s.core k)).take q.n
        let s1 := cores.foldl (fun (s : State) k => s.modCore k fun c => { grantBanks t.uid (take k) c with accWait := c.accWait.drop 1 }) s
        let s2 := s1.modTeam t.uid fun t => { t with
          accs := t.accs ++ take t.core
          accs2 := if cores.length == 2 then t.accs2 ++ take (t.core + 1) else t.accs2
          accDyn := true }
        .next (s2.modFibre q.fibre fun f => { f with threads := f.threads.map wakeAcqa })

/-- An operation of the team that names accumulator tiles is accepted and incomplete. -/
def State.accsBusy (s : State) (t : Team) : Bool :=
  (t.cores (s.recOf t)).any fun k =>
    (s.core k).array.any (fun o => o.owner.team == t.uid) || (s.reqsOf k).any (fun g => g.owner.team == t.uid && g.scat.isNone) ||
    t.fibres.any fun f => f.ops.any fun o => !o.done && (match o.kind with
      | .tile _ => true
      | .access (.ldt _ _) (d :: _) _ => (tileOf d.args).acc
      | .tileRemote d => (tileOf d).acc
      | _ => false)

def execRela (f : XF) (s : State) : Host.Outcome State Fault Refusal :=
  issue (.rela f) ⟨[], [], f.g⟩ s fun c =>
    if !c.lr.accDyn then c.illegal 56
    else if c.act.isEmpty || !c.t.accDyn then .ok (c.s, .advance)
    else if c.s.accsBusy c.t then .error .stall
    else .ok ((c.s.releaseAccs c.t).modTeam c.t.uid fun t => { t with
      accs := []
      accs2 := []
      accDyn := false }, .advance)

end Sys2Proof.Machine
end

