-- ==== Sys2Proof/Machine/TileMove.lean ====
section
/-! DEFINITION. Tile loads and stores (R163 to R166), with format pages (R319, R320, R327). -/

namespace Sys2Proof.Machine

/-! ## Memory side -/

/-- Part of a row that lies in one page: row, byte offset in the row, physical address, length, element width in bits, and the frame of a
format page. -/
structure Piece where
  row : Nat
  off : Nat
  pa : Nat
  n : Nat
  bits : Nat
  page : Option Nat
deriving DecidableEq, Repr

/-- A piece as an outstanding access keeps it. -/
def Piece.acc (p : Piece) : LaneAcc := ⟨p.row, p.pa, [p.off, p.n, p.bits, (match p.page with | some b => b + 1 | none => 0)].map (BitVec.ofNat 64 ·)⟩
def pieceOf (x : LaneAcc) : Piece :=
  let a (k : Nat) : Nat := (x.args.getD k 0).toNat
  ⟨x.lane, a 0, x.pa, a 1, a 2, if a 3 == 0 then none else some (a 3 - 1)⟩

/-- Memory element width of row bytes that start at an address: the named format; for raw the tile's width, and one byte on a format page
(R164, R166). -/
def Ctx.memBits (c : Ctx) (mf : Nat) (t : Tile) (va : Nat) : Nat :=
  if mf != 0 then tagBits mf false
  else match c.s.translate c.t.ctx va with
    | .leaf l => if va < 2 ^ 56 && l.fmtp then 8 else t.bits
    | _ => t.bits

/-- Address of each row. -/
def rowVa (g stride : Word) (r : Nat) : Nat := (g + BitVec.ofNat 64 r * stride).toNat

/-- The pieces of every row, page by page in row order; each page passes R149, every page one step of it before any page the next
(R164). -/
def Ctx.rowPieces (c : Ctx) (acc : Acc) (mf : Nat) (t : Tile) (g stride : Word) (rows cols : Nat) : Except Exc (List Piece) := do
  let res := ((List.range rows).flatMap fun r =>
    let va := rowVa g stride r
    let bits := c.memBits mf t va
    (pagesOf va ((cols * bits + 7) / 8)).map fun p => (r, va, bits, p)).map fun (r, va, bits, p) =>
      match c.s.check c.who acc p with
      | .error e => Except.error (8, p, e)
      | .ok pa => .ok (Piece.mk r (p - va) pa (min (va + (cols * bits + 7) / 8) ((p / 4096 + 1) * 4096) - p) bits
          (match c.s.translate c.t.ctx p with
          | .leaf l => if l.fmtp then some (localOf l.frame) else none
          | _ => none))
  c.raiseRange acc.pageKind (res.filterMap fun x => match x with | .error e => some e | .ok _ => none)
  .ok (res.filterMap fun x => match x with | .ok p => some p | .error _ => none)

/-- Misalignment of G or S, or an odd number of 4-bit columns (R164). -/
def tileAlign (bits cols : Nat) (g stride : Word) : Bool :=
  let w := if bits < 8 then 1 else bits / 8
  g.toNat % w != 0 || stride.toNat % w != 0 || (bits == 4 && cols % 2 != 0)

/-- Granules that the stored bytes of a tile touch. -/
def Tile.touched (t : Tile) (s : State) (tm : Team) (core : Nat) : List Nat :=
  if t.acc then [] else (t.planes.flatMap fun (lo, n) => (List.range ((lo + n - 1) / 4096 - lo / 4096 + 1)).filterMap fun k =>
    (s.tileBank tm core false ((lo / 4096 + k) * 4096)).map fun (b, off) => granuleId core b off).eraseDups

/-! ## Format pages as a reader sees them -/

def rdByte (rd : Reader) (pa : Nat) : Nat × Bool := match rd pa 1 with | some (b, p) => (leNat b, p) | none => (0, false)

/-- FMT of a format page whose header is good (R318, R327). -/
def pageFmtOf (rd : Reader) (base : Nat) : Option Nat :=
  match rd base 32 with
  | none => none
  | some (h, _) =>
    let fmt := leNat ((h.drop 16).take 8) / 16 % 16
    if crc32c (h.take 24) == leNat ((h.drop 24).take 4) && (fmt == 4 || fmt == 5 || fmt == 10) then some fmt else none

/-- Element n of a format page: its format, code and value (R166, R319). -/
def pageElem (rd : Reader) (base fmt n : Nat) : Nat × FV × Bool :=
  if fmt == 10 then
    let (b, p) := rdByte rd (base + 0x100 + n / 2)
    let (k, q) := rdByte rd (base + 0x8080 + n / 32)
    let code := if n % 2 == 0 then b % 16 else b / 16
    (code, scaled (fmtE2m1.value code) (e8m0Value k) none, p || q)
  else
    let (b, p) := rdByte rd (base + 0x100 + n)
    (b, (tagFmt fmt).value b, p)

/-! ## ldt -/

/-- What an element becomes in the tile: bits copied, or one rounding (R164). -/
def intoTile (mode : Rnd) (ov : Bool) (src tag code : Nat) (v : FV) : Nat :=
  if src == 0 || src == tag then code else (roundFV (tagFmt tag) mode 0 (!ov) 0 v).1

/-- Element of column c of a row, from its pieces. -/
def ldtElem (rd : Reader) (mode : Rnd) (ov : Bool) (mf tag : Nat) (ps : List Piece) (c : Nat) : Nat × Bool :=
  match ps.find? fun p => p.off ≤ c * p.bits / 8 && c * p.bits / 8 < p.off + p.n with
  | none => (0, false)
  | some p =>
    let pa := p.pa + (c * p.bits / 8 - p.off)
    match p.page with
    | some base => match pageFmtOf rd base with
      | none => (0, true)
      | some fmt =>
        let (code, v, q) := pageElem rd base fmt (pa % 65536 - 0x100)
        (intoTile mode ov fmt tag code v, q)
    | none => match rd pa (if p.bits < 8 then 1 else p.bits / 8) with
      | none => (0, true)
      | some (bs, q) =>
        let code := if p.bits < 8 then (if c % 2 == 0 then leNat bs % 16 else leNat bs / 16) else leNat bs
        (intoTile mode ov mf tag code ((tagFmt mf).value code), q)

/-- The stored rows of the tile from its memory (R164): view element (r, c) is memory row r, column c. -/
def ldtRows (rd : Reader) (sub : BitVec 4) (f : XF) (t : Tile) (ps : List Piece) : List (List (Nat × Bool)) :=
  let (rows, cols) := t.view false
  let byRow := (List.range rows).map fun r =>
    let mine := ps.filter fun p => p.row == r
    (List.range cols).map (ldtElem rd (mode3 sub) f.ov f.mfmt t.tag mine)
  if t.swaps false then (List.range t.rows).map fun i => byRow.map fun row => row.getD i (0, false) else byRow

/-- Bytes of a scratchpad tile as they stand, for the engines of R165; accumulator tiles follow acceptance order (R196). -/
def Tile.current (t : Tile) (s : State) (tm : Team) (core : Nat) : List (Nat × Byte × Bool) :=
  if t.acc then [] else (List.range t.rows).flatMap fun r => (List.range t.rowBytes).filterMap fun i =>
    let x := t.base + r * t.stride + i
    (s.tileBank tm core false x).map fun (b, off) =>
      let (v, p) := Store.get ⟨s, tm, core, []⟩ false x 1 0
      (scratchKey core b off, BitVec.ofNat 8 v, p)

/-- Local bytes that an evaluation will read, kept while remote ones are on their way. -/
def Piece.keep (rd : Reader) (p : Piece) : List (Nat × Byte × Bool) :=
  let take (pa n : Nat) : List (Nat × Byte × Bool) := match rd pa n with
    | some (bs, q) => bs.zipIdx.map fun (b, i) => (pa + i, b, q)
    | none => []
  match p.page with
  | none => take p.pa p.n
  | some base =>
    let n0 := p.pa % 65536 - 0x100
    take base 32 ++ (match pageFmtOf rd base with
      | some 10 => take (base + 0x100 + n0 / 2) (p.n / 2 + 1) ++ take (base + 0x8080 + n0 / 32) (p.n / 32 + 2)
      | _ => take p.pa p.n)

/-- Ranges of a tile load whose bytes are not at hand. -/
def missingPieces (rd : Reader) (ps : List Piece) : List (Nat × Nat) :=
  ps.filterMap fun p => if p.page.isNone && (rd p.pa p.n).isNone then some (p.pa, p.n) else none

/-- Pages of a tile transfer name one format: [23:20] and the tag (R166). DETAIL and INFO: the tag found and the tag expected. -/
def Ctx.pageFormats (c : Ctx) (store : Bool) (mf tag fld : Nat) (ps : List Piece) : Except Exc Unit :=
  let bad := ps.findSome? fun p => p.page.bind fun base =>
    let fmt := c.s.pageFmt base
    if !store && !c.s.headerOk base then none
    else if (store && mf != fmt) || (!store && mf != 0 && mf != fmt) then some (8, mf, fmt)
    else if tag < 1 || 6 < tag then some (fld, tag, 1 + Config.choice c.s.tick % 6)
    else none
  match bad with
  | some (k, found, want) => .error (.fault ⟨4, k, found, want, 0, maskOf [c.low]⟩)
  | none => .ok ()

/-- The checks of a tile transfer: what makes it illegal, the v rows, the tile's banks, alignment, pages and formats (R149, R164). -/
def Ctx.tileMove (c : Ctx) (store : Bool) (f : XF) (d : List Word) (fld bit : Nat) (acc : Acc) : Except Exc (Tile × List Piece) := do
  let g := c.plain 8 f.v.toNat
  let st := c.plain 8 (f.v.toNat + 1)
  let t := tileOf d
  let use : List TileUse := [⟨fld, bit, d, [1, 2], [true, false], anyTags⟩]
  c.tileForms use (if t.kind == 2 && blockCols t.tag != 0 then some (fld, bit) else none)
  if f.mfmt != 0 && (t.tag < 1 || 6 < t.tag) then c.illegal 20
  else
    c.checkV [g, st]
    c.tileBanks c.core use
    let (rows, cols) := t.view false
    let base := g.val c.low
    let stride := st.val c.low
    let widths := ((List.range rows).map fun r => c.memBits f.mfmt t (rowVa base stride r)).eraseDups
    match widths.find? fun b => tileAlign b cols base stride with
    | some b => .error (.fault ⟨5, 8, if b < 8 then 1 else b / 8, 0, base, maskOf [c.low]⟩)
    | none =>
      let ps ← c.rowPieces acc f.mfmt t base stride rows cols
      c.pageFormats store f.mfmt t.tag fld ps
      let owned := (t.touched c.s c.t c.core).filter c.s.engineOwned
      if !owned.isEmpty then .error (.park (.granule owned))
      else
        c.granuleCheck (ps.map fun p => (c.s.place p.pa, p.n))
        if t.acc && (c.s.arrayBefore c.core c.s.fresh c.t.uid [d] || c.s.reqBefore c.core c.s.fresh c.t.uid [d] ||
          c.s.loadBefore c.core c.s.fresh c.t.uid [d]) then .error .stall
        else .ok (t, ps)

/-- Format pages with a bad header among the pieces of a load (R327). -/
def State.badPages (s : State) (ps : List Piece) : List Nat := ((ps.filterMap (·.page)).filter fun b => !s.headerOk b).eraseDups

def execLdt (sub : BitVec 4) (f : XF) (s : State) : Host.Outcome State Fault Refusal :=
  issue (.ldt sub f) (xNames f 2) s fun c =>
    if c.act.isEmpty then .ok (c.s, .advance)
    else do
      c.ordered false
      let d := c.tile f.td
      let (t, ps) ← c.tileMove false f d 5 48 .tileRead
      let rd := c.s.reader []
      let far := missingPieces rd ps
      let bad := c.s.badPages ps
      if (far.any fun (a, n) => c.collides true a n) || (!bad.isEmpty && !c.s.canPost) then .error .stall
      else if far.isEmpty then
        let (_, s) := (bad.foldl (fun (s : State) b => s.skipPage b) c.s).addOp c.r [.ld] (.tile (t.current c.s c.t c.core)) f.la.toNat [] [] []
        .ok (s.tileRows c.t c.core t (ldtRows rd sub f t ps), .advance)
      else
        let (id, s) := (bad.foldl (fun (s : State) b => s.skipPage b) c.s).addOp c.r [.ld] (.access (.ldt sub f) (⟨0, 0, d⟩ :: ps.map Piece.acc) (ps.flatMap (Piece.keep rd))) f.la.toNat [] [] []
        match s.readRemote c.t.ctx c.core c.r id far with
        | some s => .ok (s, .advance)
        | none => .error .stall

/-- A tile load whose bytes have all come: the tile is written, and the transfer is about to complete. -/
def State.ldtArrived (s : State) (t : Team) (core : Nat) (sub : BitVec 4) (f : XF) (lanes : List LaneAcc) (rd : Reader) : State × OpKind :=
  let tl := tileOf ((lanes.head?.map (·.args)).getD nullDescriptor)
  (s.tileRows t core tl (ldtRows rd sub f tl ((lanes.drop 1).map pieceOf)), .tile (tl.current s t core))

/-! ## stt -/

/-- What an element of the tile becomes in memory (R164); `c` gives the dither position. -/
def outOfTile (mode : Rnd) (ov : Bool) (phase mf tag c : Nat) (code : Nat) : Nat :=
  if mf == 0 || mf == tag then code
  else (roundFV (tagFmt mf) mode (dither c phase) (!ov) 0 ((tagFmt tag).value code)).1

/-- The bytes of memory row r, with poison. -/
def Store.sttRow (m : Store) (sub : BitVec 4) (f : XF) (phase : Nat) (t : Tile) (r cols : Nat) : List (Byte × Bool) :=
  let bits := if f.mfmt == 0 then t.bits else tagBits f.mfmt false
  packRow bits 0 ((List.range cols).map fun c =>
    let (code, p) := m.viewCode t false r c
    (outOfTile (mode3 sub) f.ov phase f.mfmt t.tag c code, p))

/-- A list cut at boundaries of a unit: (offset, part). -/
def cutAt {α : Type} (u x : Nat) (l : List α) : List (Nat × List α) :=
  let n := l.length
  if n == 0 then [] else (List.range ((x + n - 1) / u - x / u + 1)).map fun k =>
    let lo := max x ((x / u + k) * u)
    (lo - x, sliceAt l x lo (min (x + n) ((x / u + k + 1) * u)))

/-- Bytes with poison stored at a place: memory keeps poison by sector, a bank by word. -/
def State.storeMarked (s : State) (p : Place) (bs : List (Byte × Bool)) : State :=
  let (u, x) := match p with | .ram la => (64, la) | .bank _ _ off => (8, off) | .far pa => (64, pa)
  (cutAt u x bs).foldl (fun (s : State) (k, part) => s.writePlace (p.add k) (part.map (·.1)) (part.any (·.2))) s

def execStt (sub : BitVec 4) (f : XF) (s : State) : Host.Outcome State Fault Refusal :=
  issue (.stt sub f) (xNames f 2) s fun c =>
    if c.act.isEmpty then .ok (c.s, .advance)
    else do
      c.ordered false
      let (t, ps) ← c.tileMove true f (c.tile f.ta) 6 44 .write
      let m : Store := ⟨c.s, c.t, c.core, []⟩
      let (rows, cols) := t.view false
      let data := (List.range rows).map fun r => m.sttRow sub f c.f.dphase.toNat t r cols
      let parts := ps.map fun p => (p, ((data.getD p.row []).drop p.off).take p.n)
      let far := parts.filter fun x => c.s.isFar x.1.pa
      if far.any fun x => c.collides false x.1.pa x.1.n then .error .stall
      else
        let s := (parts.filter fun x => !c.s.isFar x.1.pa).foldl (fun (s : State) x => s.storeMarked (s.place x.1.pa) x.2) c.s
        let s := ((ps.filterMap (·.page)).eraseDups).foldl (fun (s : State) b => s.pageStored b) s
        let (id, s) := s.addOp c.r [.st] (if far.isEmpty then .tile [] else .tileRemote (c.tile f.ta)) f.la.toNat [] [] []
        let s := if f.mfmt != 0 && f.mfmt != t.tag then s.modFibre c.r nextPhase else s
        let items := far.flatMap fun x => (splitLines x.1.pa x.1.n).map fun (a, n) =>
          StoreItem.mk c.low a none (((x.2.drop (a - x.1.pa)).take n).map (·.1))
        match s.sendStores c.t.ctx c.core c.r id items with
        | some s => .ok (s, .advance)
        | none => .error .stall

/-- TILE_TRANSFER_COMPLETE: every element of a tile transfer is written (R152). -/
def execTileTransferComplete (r : FibreRef) (op : Nat) (s : State) : Host.Outcome State Fault Refusal :=
  s.completeKind r op fun k => match k with | .tile _ => true | _ => false

end Sys2Proof.Machine
end

