-- ==== Sys2Proof/Machine/Tape.lean ====
section
/-! DEFINITION. Tapes: charges (R214, R216), recording (R219, R220, R223), popping and replay (R221, R222), queries (R224), and the
ring of a team (R213). -/

namespace Sys2Proof.Machine

/-! ## Areas, charges and tapes -/

def TapeArea.used (a : TapeArea) : Nat := (a.charges.map (·.bytes)).foldl (· + ·) 0

/-- One member frees its part of an entry; the last one frees the bytes (R214). -/
def dropMember (entry : Nat) : List Charge → List Charge
  | [] => []
  | c :: cs => if c.entry == entry then (if c.members ≤ 1 then cs else { c with members := c.members - 1 } :: cs) else c :: dropMember entry cs

def TapeArea.free (a : TapeArea) (entries : List Nat) : TapeArea :=
  { a with charges := entries.foldl (fun l e => dropMember e l) a.charges }

def emptyTape (team tid : BitVec 32) : Tape := ⟨team, tid, [], false, [], false⟩

def TapeArea.tape (a : TapeArea) (team tid : BitVec 32) : Tape := (a.tape? team tid).getD (emptyTape team tid)

/-- The tape of one thread is replaced. -/
def TapeArea.put (a : TapeArea) (t : Tape) : TapeArea :=
  if a.tapes.any fun x => x.team == t.team && x.tid == t.tid then
    { a with tapes := a.tapes.map fun x => if x.team == t.team && x.tid == t.tid then t else x }
  else { a with tapes := a.tapes ++ [t] }

def State.putArea (s : State) (a : TapeArea) : State :=
  { s with areas := s.areas.map fun x => if x.ctx == a.ctx && x.base == a.base then a else x }

def Tape.isOpen (t : Tape) : Bool := match t.spans.head? with | some sp => sp.isOpen | none => false
def Tape.isRc (t : Tape) : Bool := match t.spans.head? with | some sp => sp.isOpen && sp.rc | none => false
/-- No checkpoint stands under the thread's next record: its span is implicit, or would be (R219). -/
def Tape.isImplicit (t : Tape) : Bool := match t.spans.head? with | some sp => !sp.isOpen || sp.ckpt.isNone | none => true

/-- Close(t): a recorded span frees its checkpoint's charge (R219). -/
def Tape.close (t : Tape) : Tape × List Nat :=
  match t.spans with
  | sp :: rest =>
    if !sp.isOpen then (t, [])
    else if sp.rc then ({ t with spans := { sp with isOpen := false } :: rest }, [])
    else ({ t with spans := { sp with isOpen := false, ckpt := none } :: rest }, (sp.ckpt.map (·.entry)).toList)
  | [] => (t, [])

/-! ## The charge of an entry (R216) -/

def roundUp (u n : Nat) : Nat := (n + u - 1) / u * u

/-- Rows that are neither zero nor equal to the previous member's row. -/
def literals : Option Word → List Word → Nat
  | _, [] => 0
  | prev, v :: vs => (if v == 0 || prev == some v then 0 else 1) + literals (some v) vs

def regCharge (v : VReg) (members : List Nat) : Nat :=
  let rows := members.map v.row
  (match v.shape with
    | .uniform => 16
    | .affine _ _ => 24
    | .general => 24 + 8 * literals none (rows.map (·.val))) +
  (if (rows.map (·.tag)).eraseDups.length ≤ 1 then 0 else 8 * ((members.length + 15) / 16)) +
  (if rows.any (·.poison) then 8 else 0)

/-- $tid values rise by one in lane order. -/
def consecutive : List Nat → Bool
  | a :: b :: rest => b == a + 1 && consecutive (b :: rest)
  | _ => true

def Ctx.entryCharge (c : Ctx) (members regs preds : List Nat) (span : Bool) : Nat :=
  let tids := members.map fun l => (c.f.thread l).tid.toNat
  roundUp 16 (16 + (if consecutive tids then 8 else roundUp 8 (4 * members.length)) + (if span then 16 else 0) +
    (regs.map fun n => regCharge (c.reg n) members).foldl (· + ·) 0 + 8 * preds.length)

/-- Registers and predicates that a mask names (R218). -/
def Ctx.maskRegs (c : Ctx) (m : Word) : List Nat := (List.range (min 56 (c.t.nregs c.f))).filter fun n => m.getLsbD n
def maskPreds (m : Word) : List Nat := (List.range 7).filter fun n => m.getLsbD (56 + n)

/-- The record of one member: its rows, and its predicates as captured at issue (R219, R220). -/
def Ctx.capture (c : Ctx) (entry l : Nat) (regs preds : List Nat) : TapeRec :=
  ⟨entry, BitVec.ofNat 64 (maskNat regs + maskNat (preds.map (56 + ·))),
    regs.map (fun n => (n, c.row n l, (c.reg n).shape == .uniform)), preds.map fun n => (n, (c.f.thread l).pred (BitVec.ofNat 3 n))⟩

/-! ## The ring (R213) -/

/-- Entries that the engine has accepted and not yet written. -/
def Team.entriesDue (t : Team) : List Nat := t.fibres.flatMap fun f => f.ops.filterMap fun o => match o.kind with
  | .tapeEntry e => if o.done then none else some e
  | _ => none

def chargeOf (a : TapeArea) (e : Nat) : Nat := ((a.charges.filter fun c => c.entry == e || c.entry == e + 1).map (·.bytes)).foldl (· + ·) 0

/-- Bytes that the ring holds or is about to. -/
def Team.ringUsed (t : Team) (a : TapeArea) : Nat :=
  (t.ring.map (·.bytes)).foldl (· + ·) 0 + (t.entriesDue.map (chargeOf a)).foldl (· + ·) 0

/-- The ring has no room for an entry (R213); an entry larger than the ring passes through an empty one. -/
def Ctx.ringFull (c : Ctx) (a : TapeArea) (size : Nat) : Bool :=
  0 < c.t.ringUsed a && c.lr.ringB * KiB32 < c.t.ringUsed a + size

/-- Entries whose bytes are freed leave the ring. -/
def State.trimRing (s : State) (uid : Nat) (a : TapeArea) : State :=
  s.modTeam uid fun t => { t with ring := t.ring.filter fun x => a.charges.any fun c => c.entry == x.entry }

/-- The values of a record are in the ring, or on their way into it. -/
def Team.inRing (t : Team) (entry : Nat) : Bool := t.ring.any (·.entry == entry) || t.entriesDue.contains entry

/-- TAPE_ENTRY_IN_RING: the engine has written an entry into the team's ring. -/
def execTapeEntryInRing (r : FibreRef) (op : Nat) (s : State) : Host.Outcome State Fault Refusal :=
  match s.team? r.team, (s.fibre? r).bind fun f => f.op? op with
  | some t, some o => match o.kind with
    | .tapeEntry e =>
      if o.done then .fault .notDue
      else
        let cs := ((s.area? (s.recOf t)).map (·.charges)).getD []
        let new := (cs.filter fun c => c.entry == e || c.entry == e + 1).map fun c => RingItem.mk c.entry c.bytes
        .next ((s.modTeam t.uid fun t => { t with ring := t.ring ++ new }).complete1 r op)
    | _ => .fault .notDue
  | _, _ => .fault .notDue

/-- The oldest entries, at least 4 KiB of them, leave the ring. -/
def spillRing : Nat → List RingItem → List RingItem
  | n, x :: xs => if 4096 ≤ n then x :: xs else spillRing (n + x.bytes) xs
  | _, [] => []

/-- TAPE_SPILL: the oldest 4 KiB go to the tape area, or all of a ring that holds less. -/
def execTapeSpill (team : Nat) (s : State) : Host.Outcome State Fault Refusal :=
  match s.team? team with
  | some t => if t.ring.isEmpty then .fault .notDue
    else .next (s.modTeam team fun t => { t with ring := spillRing 0 t.ring })
  | none => .fault .notDue

/-- TAPE_REFILL: spilled records of a `tpop` have come back from the area. -/
def execTapeRefill (r : FibreRef) (op : Nat) (s : State) : Host.Outcome State Fault Refusal :=
  s.completeKind r op fun k => match k with | .tapeRefill _ => true | _ => false

/-! ## trec, tmark, tend (R219, R223) -/

def Ctx.tapeOf (c : Ctx) (a : TapeArea) (l : Nat) : Tape := a.tape c.t.index (c.f.thread l).tid

/-- In pop mode the three instructions need replay (R212). -/
def Ctx.recForbidden (c : Ctx) (a : TapeArea) : Bool := c.lr.tmode == 1 && c.act.any fun l => !(c.tapeOf a l).replay

/-- The registers that a mask names are read, so their outstanding writes must have landed (R87, R20). -/
def Ctx.regsPending (c : Ctx) (regs : List Nat) : Bool := regs.any c.f.heldRegs.contains || c.t.sharedHeld c.f regs

/-- The common course of tape instructions: the launch's area, for an active bundle. -/
def Ctx.withArea (c : Ctx) (k : TapeArea → Act) : Act :=
  match c.s.area? c.lr with
  | none => c.illegal 56
  | some a => if c.act.isEmpty then .ok (c.s, .advance) else k a

def Ctx.exhausted (c : Ctx) {α : Type} (size : Nat) : Except Exc α := c.fault 0x0A 0 0 (min size (2 ^ 32 - 1))

/-- A charge and the fibre operation that counts until the entry is in the ring. -/
def Ctx.entryOp (c : Ctx) (s : State) (a : TapeArea) (entry : Nat) : State :=
  ((s.putArea a).trimRing c.r.team a).addOp c.r [.tape] (.tapeEntry entry) 15 [] [] [] |>.2

/-- A record is appended: to the local tape in replay, otherwise to the open span, which is made for a thread without one. -/
def Tape.append (t : Tape) (time : Word) (x : TapeRec) : Tape :=
  if t.replay then { t with localRecs := x :: t.localRecs }
  else match t.spans with
    | sp :: rest => if sp.isOpen then { t with spans := { sp with recs := x :: sp.recs } :: rest }
      else { t with spans := ⟨false, 0, time, none, none, true, [x]⟩ :: sp :: rest }
    | [] => { t with spans := [⟨false, 0, time, none, none, true, [x]⟩] }

/-- The open recorded span becomes a recompute span, and its records are freed (R223). -/
def Tape.convert (t : Tape) : Tape × List Nat :=
  match t.spans with
  | sp :: rest => if sp.isOpen && !sp.rc then ({ t with conv := true, spans := { sp with rc := true, recs := [] } :: rest }, sp.recs.map (·.entry))
    else (t, [])
  | [] => (t, [])

/-- A change of the tapes of some lanes, freeing entries. -/
def Ctx.eachTape (c : Ctx) (a : TapeArea) (lanes : List Nat) (g : Tape → Tape × List Nat) : TapeArea :=
  lanes.foldl (fun (a : TapeArea) l => let (t, es) := g (c.tapeOf a l); (a.put t).free es) a

/-- Every active thread is a member of the entry, and its rows are charged; those in a recompute span record nothing (R216, R219), so the
entry is freed when the others have. -/
def execTrec (f : SF) (s : State) : Host.Outcome State Fault Refusal :=
  issue (.trec f) (sNames f false true) s fun c => c.withArea fun a =>
    if c.recForbidden a then c.illegal 56
    else do
      let m := c.plain 2 f.a.toNat
      c.checkLow [m]
      let regs := c.maskRegs (m.val c.low)
      let preds := maskPreds (m.val c.low)
      let size := c.entryCharge c.act regs preds false
      let members := c.act.filter fun l => (c.tapeOf a l).replay || !(c.tapeOf a l).isRc
      if c.regsPending regs then .error .stall
      else if a.quota < a.used + size then
        if c.lr.tpolFault || c.act.any fun l => (c.tapeOf a l).replay || (c.tapeOf a l).isImplicit then c.exhausted size
        else
          let a' := { c.eachTape a c.act Tape.convert with exhausted := true }
          .ok ((c.s.putArea a').trimRing c.r.team a', .advance)
      else if members.isEmpty then .ok (c.s, .advance)
      else if c.ringFull a size then .error .stall
      else
        let (e, s1) := c.s.newId
        let a1 := c.eachTape a members fun t => (t, [])
        let a2 := members.foldl (fun (a : TapeArea) l => a.put ((c.tapeOf a l).append c.s.time (c.capture e l regs preds))) a1
        .ok (c.entryOp s1 { a2 with charges := a2.charges ++ [⟨e, size, members.length⟩] } e, .advance)

/-- Both forms of `tmark`. The span header keeps 16 bytes of the charge when the checkpoint's part is freed. -/
def tmarkInstr (i : Instr) (rc : Bool) (f : SF) (s : State) : Host.Outcome State Fault Refusal :=
  issue i (sNames f false true) s fun c => c.withArea fun a =>
    if c.recForbidden a then c.illegal 56
    else do
      let m := c.plain 2 f.a.toNat
      c.checkLow [m]
      let target := c.is.addr + f.imm.signExtend 64 * 8
      let regs := c.maskRegs (m.val c.low)
      let preds := maskPreds (m.val c.low)
      let members := c.act.filter fun l => !(c.tapeOf a l).replay
      let size := c.entryCharge members regs preds true
      if !targetOk c.lr target then c.faultLanes 3 0 0 target c.act
      else if c.regsPending regs then .error .stall
      else if members.isEmpty then .ok (c.s, .advance)
      else
        let a1 := c.eachTape a members Tape.close
        if a.quota < a1.used + size then c.exhausted size
        else if c.ringFull a size then .error .stall
        else
          let (e, s1) := c.s.newId
          let (h, s2) := s1.newId
          let sp (l : Nat) : Span := ⟨rc || a.exhausted, target, c.s.time, some (c.capture e l regs preds), some h, true, []⟩
          let a2 := members.foldl (fun (a : TapeArea) l =>
            let t := c.tapeOf a l
            a.put { t with spans := sp l :: t.spans }) a1
          .ok (c.entryOp s2 { a2 with charges := a2.charges ++ [⟨e, size - 16, members.length⟩, ⟨h, 16, members.length⟩] } e, .advance)

def execTmarkRec (f : SF) (s : State) : Host.Outcome State Fault Refusal := tmarkInstr (.tmarkRec f) false f s
def execTmarkRc (f : SF) (s : State) : Host.Outcome State Fault Refusal := tmarkInstr (.tmarkRc f) true f s

/-- `tend` of one thread: the local tape closes, or the open span does. -/
def Tape.finish (t : Tape) : Tape × List Nat := if t.replay then ({ t with replay := false }, []) else t.close

def execTend (f : SF) (s : State) : Host.Outcome State Fault Refusal :=
  issue (.tend f) (sNames f false false) s fun c => c.withArea fun a =>
    if c.recForbidden a then c.illegal 56
    else
      let a' := c.eachTape a c.act Tape.finish
      .ok ((c.s.putArea a').trimRing c.r.team a', .advance)

/-! ## tpop (R221) -/

/-- What a pop takes: a record, or the checkpoint of a recompute span with its entry PC. -/
abbrev Popped := TapeRec × Option Word

/-- The newest item of the spans, the spans that remain, and the entries that are freed. -/
def popSpans : List Span → List Span × Option Popped × List Nat
  | [] => ([], none, [])
  | sp :: rest =>
    match sp.recs with
    | r :: rs => ({ sp with recs := rs } :: rest, some (r, none), [r.entry])
    | [] =>
      let mine := sp.hdrEntry.toList ++ (sp.ckpt.map (·.entry)).toList
      match sp.rc, sp.ckpt with
      | true, some k => (rest, some (k, some sp.pc), mine)
      | _, _ => let (l, i, es) := popSpans rest; (l, i, mine ++ es)

def Tape.pop (t : Tape) : Tape × Option Popped × List Nat :=
  match t.localRecs with
  | r :: rs => ({ t with localRecs := rs }, some (r, none), [r.entry])
  | [] =>
    let (sp, i, es) := popSpans t.spans
    ({ t with
      spans := sp
      replay := t.replay || (match i with | some (_, some _) => true | _ => false) }, i, es)

/-- Rows that the items restore into register n, by lane. -/
def restored (items : List (Nat × Popped)) (n : Nat) : List (Nat × Row) :=
  items.filterMap fun (l, i, _) => (i.regs.find? (·.1 == n)).map fun x => (l, x.2.1)

/-- Shape uniform: a full restoring write of one record of shape uniform (R221). -/
def restoredUniform (live : List Nat) (items : List (Nat × Popped)) (n : Nat) : Bool :=
  let e := (items.head?.map fun x => x.2.1.entry).getD 0
  live.all fun l => items.any fun (k, i, _) => k == l && i.entry == e && i.regs.any fun x => x.1 == n && x.2.2

def execTpop (f : SF) (s : State) : Host.Outcome State Fault Refusal :=
  let pd : BitVec 3 := f.d.extractLsb' 0 3
  issue (.tpop f) (sNames f false false) s fun c =>
    if c.lr.tmode == 0 then c.illegal 56
    else c.withArea fun a =>
      let pops := c.act.map fun l => (l, (c.tapeOf a l).pop)
      let items : List (Nat × Popped) := pops.filterMap fun (l, _, i, _) => i.map fun x => (l, x)
      let regs := ((items.flatMap fun x => x.2.1.regs.map (·.1)).eraseDups).filter (· < c.t.nregs c.f)
      if c.regsPending regs then .error .stall
      else
        let a' := pops.foldl (fun (a : TapeArea) (_, t, _, es) => (a.put t).free es) a
        let writes := regs.map fun n => HeldWrite.mk n (restored items n) (if restoredUniform c.live items n then .uniform else .general)
        let preds := (items.flatMap fun (l, i, _) => i.preds.map fun (n, v) => HeldPred.mk l (BitVec.ofNat 3 n) v) ++
          pops.map fun (l, _, i, _) => HeldPred.mk l pd (match i with | some (_, some _) => true | _ => false)
        let s1 := (c.s.putArea a').modFibre c.r fun g => items.foldl (fun (g : Fibre) (l, _, pc) => match pc with
          | some pc => g.modThread l fun t => { t with rcpc := pc }
          | none => g) g
        let gone := items.find? fun x => !c.t.inRing x.2.1.entry
        let s2 := s1.trimRing c.r.team a'
        match gone with
        | some (_, i, _) => .ok ((s2.addOp c.r [.tape] (.tapeRefill i.entry) 15 writes preds []).2, .advance)
        | none =>
          let s3 := writes.foldl (fun (s : State) w => s.putReg c.r w.reg w.rows w.shape) s2
          .ok (preds.foldl (fun (s : State) p => s.setPreds c.r p.pred [(p.lane, p.val)]) s3, .advance)

/-! ## tquery (R224) -/

def queryInstr (i : Instr) (f : SF) (sh : Shape) (val : Ctx → TapeArea → Nat → Word) (s : State) : Host.Outcome State Fault Refusal :=
  issue i (sNames f true false) s fun c => c.withArea fun a =>
    .ok (c.write c.s f.d.toNat (c.act.map fun l => (l, ⟨val c a l, .raw, false⟩)) sh, .advance)

def execTqueryNext (f : SF) (s : State) : Host.Outcome State Fault Refusal :=
  queryInstr (.tqueryNext f) f .general (fun c a l => match (c.tapeOf a l).peek with
    | none => 0
    | some (r, ck) => r.mask ||| (if ck then 0x8000000000000000#64 else 0)) s

def execTqueryUsed (f : SF) (s : State) : Host.Outcome State Fault Refusal :=
  queryInstr (.tqueryUsed f) f .uniform (fun _ a _ => BitVec.ofNat 64 a.used) s

def execTqueryQuota (f : SF) (s : State) : Host.Outcome State Fault Refusal :=
  queryInstr (.tqueryQuota f) f .uniform (fun _ a _ => BitVec.ofNat 64 a.quota) s

end Sys2Proof.Machine
end

