-- ==== Sys2Proof/Machine/Geometry.lean ====
section
/-! DEFINITION. Exact rational geometry for the rendering units: fractions, vectors, the ray and triangle functions of R233, and screen
positions (R251). -/

namespace Sys2Proof.Machine

/-! ## Fractions -/

/-- An exact rational; the denominator is positive wherever one is used. -/
structure Frac where
  num : Int
  den : Nat
deriving DecidableEq, Repr

def Frac.ofInt (x : Int) : Frac := ⟨x, 1⟩
def Frac.add (x y : Frac) : Frac := if x.den == y.den then ⟨x.num + y.num, x.den⟩ else ⟨x.num * y.den + y.num * x.den, x.den * y.den⟩
def Frac.neg (x : Frac) : Frac := ⟨-x.num, x.den⟩
def Frac.sub (x y : Frac) : Frac := x.add y.neg
def Frac.mul (x y : Frac) : Frac := ⟨x.num * y.num, x.den * y.den⟩
/-- Division by a nonzero number. -/
def Frac.div (x y : Frac) : Frac := ⟨x.num * y.den * y.num.sign, x.den * y.num.natAbs⟩
def Frac.lt (x y : Frac) : Bool := x.num * y.den < y.num * x.den
def Frac.le (x y : Frac) : Bool := !y.lt x
def Frac.isZero (x : Frac) : Bool := x.num == 0
def Frac.min (x y : Frac) : Frac := if y.lt x then y else x
def Frac.max (x y : Frac) : Frac := if x.lt y then y else x
def Frac.floor (x : Frac) : Int := Int.fdiv x.num x.den
def Frac.sum (l : List Frac) : Frac := l.foldl Frac.add ⟨0, 1⟩

/-- A finite value as a fraction. -/
def FV.frac? (x : FV) : Option Frac :=
  match x with
  | .fin s m e => some ⟨if s then -((m * pow2 e : Nat) : Int) else (m * pow2 e : Nat), pow2 (-e)⟩
  | _ => none

/-- RoundTo(f32, x, RNE): bits and flags. An exact zero is +0. -/
def Frac.toF32 (x : Frac) : Nat × Fl := roundQ fmtF32 .rne 0 false (x.num < 0) x.num.natAbs x.den 0

/-- Rounding by RNE to a multiple of 1/n, in units of 1/n. -/
def Frac.toUnits (x : Frac) (n : Nat) : Int :=
  let (q, _) := quanta .rne false 0 (x.num.natAbs * n) x.den 0 0
  if x.num < 0 then -(q : Int) else q

/-- The square root of a nonnegative fraction, with a sign, rounded to FP32. -/
def Frac.sqrtF32 (neg : Bool) (x : Frac) : Nat × Fl :=
  if x.num ≤ 0 then (0, 0)
  else
    let r := isqrt (x.num.toNat * 2 ^ 1024 / x.den)
    roundFV fmtF32 .rne 0 false 0 (sticky neg (r * r * x.den == x.num.toNat * 2 ^ 1024) r (-512))

/-! ## FP32 pairs in registers -/

def f32At (w : Word) (k : Nat) : FV := fmtF32.value (elem 32 k w)
/-- The values of consecutive FP32 pairs. -/
def f32s (ws : List Word) : List FV := ws.flatMap fun w => [f32At w 0, f32At w 1]
/-- All of them as fractions, when every one is finite. -/
def fracs? (l : List FV) : Option (List Frac) := l.mapM FV.frac?
def pairWord (lo hi : Nat) : Word := BitVec.ofNat 64 (lo + hi * 2 ^ 32)
def f32Row (w : Word) : Row := ⟨w, .f32, false⟩
def rawRow (w : Word) : Row := ⟨w, .raw, false⟩
def poisRow : Row := ⟨0, .raw, true⟩

/-! ## Vectors -/

structure V3 where
  x : Frac
  y : Frac
  z : Frac
deriving DecidableEq, Repr

def V3.add (a b : V3) : V3 := ⟨a.x.add b.x, a.y.add b.y, a.z.add b.z⟩
def V3.sub (a b : V3) : V3 := ⟨a.x.sub b.x, a.y.sub b.y, a.z.sub b.z⟩
def V3.neg (a : V3) : V3 := ⟨a.x.neg, a.y.neg, a.z.neg⟩
def V3.smul (k : Frac) (a : V3) : V3 := ⟨k.mul a.x, k.mul a.y, k.mul a.z⟩
def V3.dot (a b : V3) : Frac := ((a.x.mul b.x).add (a.y.mul b.y)).add (a.z.mul b.z)
def V3.cross (a b : V3) : V3 :=
  ⟨(a.y.mul b.z).sub (a.z.mul b.y), (a.z.mul b.x).sub (a.x.mul b.z), (a.x.mul b.y).sub (a.y.mul b.x)⟩
def v3At (l : List Frac) (k : Nat) : V3 := ⟨l.getD k ⟨0, 1⟩, l.getD (k + 1) ⟨0, 1⟩, l.getD (k + 2) ⟨0, 1⟩⟩
def V3.list (a : V3) : List Frac := [a.x, a.y, a.z]

/-! ## Ray and triangle (R233) -/

/-- The intermediate vectors of R233 for a ray (o, d) and vertices p0, p1, p2. -/
structure Meet where
  e1 : V3
  e2 : V3
  s : V3
  d : V3
  p : V3
  q : V3
  det : Frac
deriving DecidableEq, Repr

def meet (o d p0 p1 p2 : V3) : Meet :=
  let e1 := p1.sub p0
  let e2 := p2.sub p0
  let s := o.sub p0
  let p := d.cross e2
  ⟨e1, e2, s, d, p, s.cross e1, e1.dot p⟩

def Meet.t (m : Meet) : Frac := (m.e2.dot m.q).div m.det
def Meet.u (m : Meet) : Frac := (m.s.dot m.p).div m.det
def Meet.v (m : Meet) : Frac := (m.d.dot m.q).div m.det

/-- The gradient of gt·t + gu·u + gv·v with respect to o, d, p0, p1 and p2, in this order; det is not zero. -/
def Meet.grad (m : Meet) (gt gu gv : Frac) : List Frac :=
  let k (g : Frac) : Frac := g.div m.det
  let kd := (((gt.mul m.t).add (gu.mul m.u)).add (gv.mul m.v)).div m.det |>.neg
  let gp := (m.s.smul (k gu)).add (m.e1.smul kd)
  let gq := (m.e2.smul (k gt)).add (m.d.smul (k gv))
  let gd := (m.q.smul (k gv)).add (m.e2.cross gp)
  let ge2 := (m.q.smul (k gt)).add (gp.cross m.d)
  let gs := (m.p.smul (k gu)).add (m.e1.cross gq)
  let ge1 := (m.p.smul kd).add (gq.cross m.s)
  gs.list ++ gd.list ++ ((gs.add ge1).add ge2).neg.list ++ ge1.list ++ ge2.list

/-! ## Clip space and screen (R248, R251) -/

/-- A clip-space vertex. -/
structure V4 where
  x : Frac
  y : Frac
  z : Frac
  w : Frac
deriving DecidableEq, Repr

/-- Three vertices from twelve finite coordinates. -/
def v4s (l : List Frac) : List V4 :=
  (List.range 3).map fun k => ⟨l.getD (4 * k) ⟨0, 1⟩, l.getD (4 * k + 1) ⟨0, 1⟩, l.getD (4 * k + 2) ⟨0, 1⟩, l.getD (4 * k + 3) ⟨0, 1⟩⟩

/-- Screen positions in units of 1/256 pixel; none at w = 0. -/
def V4.screen (p : V4) (vpw vph : Nat) : Option (Int × Int) :=
  if p.w.isZero then none
  else
    let f (c : Frac) (n : Nat) : Int := ((((c.div p.w).add ⟨1, 1⟩).mul ⟨n, 2⟩)).toUnits 256
    some (f p.x vpw, f p.y vph)

/-- (X1 − X0)(Y2 − Y0) − (X2 − X0)(Y1 − Y0). -/
def area2 (a b c : Int × Int) : Int := (b.1 - a.1) * (c.2 - a.2) - (c.1 - a.1) * (b.2 - a.2)

end Sys2Proof.Machine
end

