-- ==== Sys2Proof/Machine/Traversal.lean ====
section
/-! DEFINITION. Traversal and culling: tree nodes and triangle records, `boxt` and `trit` (R240 to R244), the traversal stacks (R245,
R246) and `cull` (R247, R248). -/

namespace Sys2Proof.Machine

/-- Format V of the rendering instructions: counts of registers in the groups at d, a, b and c (R238, R239). -/
def rNames (f : VF) (dn an bn cn : Nat) : Names :=
  ⟨group 46 f.d.toNat dn ++ group 40 f.a.toNat an ++ group 34 f.b.toNat bn ++ group 28 f.c.toNat cn, [], f.g⟩

/-- A group of registers as sources of one field. -/
def Ctx.grp (c : Ctx) (fld n k : Nat) : List Src := (List.range k).map fun j => c.plain fld (n + j)

/-- Sources that are checked against f32. -/
def asF32 (xs : List Src) : List (Src × Option Tag) := xs.map fun x => (x, some .f32)
def untagged (xs : List Src) : List (Src × Option Tag) := xs.map fun x => (x, none)

def valsAt (xs : List Src) (l : Nat) : List Word := xs.map fun x => x.val l

/-! ## Nodes and records -/

def dwAt (bs : List Byte) (k : Nat) : Nat := leNat ((bs.drop (8 * k)).take 8)
def byteAt (bs : List Byte) (k : Nat) : Nat := (bs.getD k 0).toNat

/-- The closed bounds of child i on axis k; none when the child never hits (R241). -/
def childBounds (nd : List Byte) (i k : Nat) : Option (Frac × Frac) :=
  let lo := byteAt nd (48 + 8 * k + i)
  let hi := byteAt nd (72 + 8 * k + i)
  let ex := byteAt nd (12 + k)
  match (fmtF32.value (leNat ((nd.drop (4 * k)).take 4))).frac? with
  | none => none
  | some o =>
    if hi < lo || ex == 255 then none
    else
      let s : Frac := ⟨pow2 ((ex : Int) - 127), pow2 (127 - (ex : Int))⟩
      some (o.add ((Frac.ofInt lo).mul s), o.add ((Frac.ofInt hi).mul s))

/-- An interval cut by one axis; none when empty. -/
def cutAxis (o d : Frac) (b : Frac × Frac) (i : Frac × Frac) : Option (Frac × Frac) :=
  if d.isZero then (if b.1.le o && o.le b.2 then some i else none)
  else
    let q0 := (b.1.sub o).div d
    let q1 := (b.2.sub o).div d
    let lo := i.1.max (q0.min q1)
    let hi := i.2.min (q0.max q1)
    if lo.le hi then some (lo, hi) else none

/-- Entry distance of a ray into child i (R243). -/
def childEntry (nd : List Byte) (ray : List Frac) (i : Nat) : Option Frac :=
  if byteAt nd 15 / 2 ^ i % 2 == 0 then none
  else
    let t0 := ray.getD 6 ⟨0, 1⟩
    let t1 := ray.getD 7 ⟨0, 1⟩
    if t1.lt t0 then none
    else ([0, 1, 2].foldl (fun (a : Option (Frac × Frac)) k => a.bind fun iv => (childBounds nd i k).bind fun b =>
      cutAxis (ray.getD k ⟨0, 1⟩) (ray.getD (3 + k) ⟨0, 1⟩) b iv) (some (t0, t1))).map (·.1)

/-- The reference to child i (R241). -/
def childRef (nd : List Byte) (i : Nat) : Nat :=
  let m := byteAt nd (40 + i)
  if byteAt nd 32 / 2 ^ i % 2 == 1 then (dwAt nd 2 + 128 * (m % 8)) % 2 ^ 56
  else 2 ^ 63 + m / 32 * 2 ^ 60 + (dwAt nd 3 + 64 * (m % 32)) % 2 ^ 56

def insertHit (x : Frac × Nat) : List (Frac × Nat) → List (Frac × Nat)
  | [] => [x]
  | y :: ys => if x.1.lt y.1 then x :: y :: ys else y :: insertHit x ys

/-- The children that a ray hits, by entry distance and then by number. -/
def nodeHits (nd : List Byte) (ray : List FV) : List Nat :=
  match fracs? ray with
  | none => []
  | some r => (((List.range 8).filterMap fun i => (childEntry nd r i).map fun e => (e, i)).foldl (fun a x => insertHit x a) []).map (·.2)

/-- The eight destination rows of `boxt`. -/
def nodeRows (d : Nat) (nd : List Byte) (ray : List FV) : List (Nat × Row) :=
  let refs := (nodeHits nd ray).map (childRef nd)
  (List.range 8).map fun k => (d + k, rawRow (BitVec.ofNat 64 (refs.getD k 0)))

def boxEval (d : Nat) : LaneEval := fun rd x =>
  match rd x.pa 128 with
  | none => .error [(x.pa, 128)]
  | some (_, true) => .ok ⟨(List.range 8).map fun k => (d + k, poisRow), [], 0⟩
  | some (nd, false) => .ok ⟨nodeRows d nd (f32s x.args), [], 0⟩

/-- The hit of a ray with a triangle record: t, u, v (R243). -/
def recordHit (rc : List Byte) (ray : List FV) : Option (Frac × Frac × Frac) :=
  match fracs? ray, fracs? ((List.range 9).map fun k => fmtF32.value (leNat ((rc.drop (4 * k)).take 4))) with
  | some r, some p =>
    let m := meet (v3At r 0) (v3At r 3) (v3At p 0) (v3At p 3) (v3At p 6)
    let cull := dwAt rc 5 / 2 ^ 32 % 4
    if m.det.isZero || m.u.num < 0 || m.v.num < 0 || (Frac.ofInt 1).lt (m.u.add m.v) || m.t.lt (r.getD 6 ⟨0, 1⟩) || (r.getD 7 ⟨0, 1⟩).lt m.t ||
      (cull == 1 && m.det.num < 0) || (cull == 2 && 0 < m.det.num) then none
    else some (m.t, m.u, m.v)
  | _, _ => none

/-- A poisoned record takes the hit path, so that its use consumes the poison (R244). -/
def triEval (d : Nat) (p : BitVec 3) : LaneEval := fun rd x =>
  match rd x.pa 64 with
  | none => .error [(x.pa, 64)]
  | some (_, true) => .ok ⟨[(d, poisRow), (d + 1, poisRow), (d + 2, poisRow)], [(p, true)], 0⟩
  | some (rc, false) =>
    match recordHit rc (f32s x.args) with
    | none => .ok ⟨[], [(p, false)], 0⟩
    | some (t, u, v) => .ok ⟨[(d, f32Row (pairWord t.toF32.1 u.toF32.1)), (d + 1, f32Row (pairWord v.toF32.1 0)),
        (d + 2, rawRow (pairWord (dwAt rc 4 / 2 ^ 32) (dwAt rc 5 % 2 ^ 32)))], [(p, true)], 0⟩

/-- The common course of `boxt` and `trit`. -/
def testerInstr (i : Instr) (f : VF) (dn size : Nat) (eval : LaneEval) (s : State) : Host.Outcome State Fault Refusal :=
  issue i (rNames f dn 1 3 1) s fun c => do
    c.ordered false
    let a := c.plain 2 f.a.toNat
    let ray := c.grp 3 f.b.toNat 3
    let iv := c.grp 4 f.c.toNat 1
    let addr := addrOf a none 0
    let lanes ← c.checkLanes ⟨[a], asF32 (ray ++ iv), addr, .read, size, 2⟩
    if lanes.isEmpty then .ok (c.s, .advance)
    else
      c.granuleCheck (lanes.map fun (_, pa) => (c.s.place pa, size))
      let c := c.withState (c.s.cacheAll c.t.ctx (c.act.map addr))
      c.readLanes i [.trav] 15 ((List.range dn).map (f.d.toNat + ·)) .general (lanes.map fun (l, pa) => ⟨l, pa, valsAt (ray ++ iv) l⟩) eval

def execBoxt (f : VF) (s : State) : Host.Outcome State Fault Refusal := testerInstr (.boxt f) f 8 128 (boxEval f.d.toNat) s
def execTrit (sub : BitVec 4) (f : VF) (s : State) : Host.Outcome State Fault Refusal :=
  testerInstr (.trit sub f) f 3 64 (triEval f.d.toNat (sub.extractLsb' 0 3)) s

/-! ## Traversal stacks -/

/-- Address of entry k of a thread's stack (R245). -/
def Ctx.stackVa (c : Ctx) (l k : Nat) : Nat :=
  let tid := (c.f.thread l).tid.toNat
  let t := if c.core == c.t.core then tid else tid - 64 * c.lr.width
  (aliasStart c.lr c.t c.core 0 + c.lr.stkOff + 256 * t + 8 * k) % 2 ^ 64

def Ctx.depth (c : Ctx) (l : Nat) : Nat := (c.f.thread l).depth

def Fibre.setDepths (f : Fibre) (ds : List (Nat × Nat)) : Fibre :=
  ds.foldl (fun (f : Fibre) (l, k) => f.modThread l fun t => { t with depth := k }) f

def execSpush (f : VF) (s : State) : Host.Outcome State Fault Refusal :=
  issue (.spush f) (rNames f 0 1 0 0) s fun c =>
    if c.lr.stkOff == 0 then c.illegal 56
    else do
      c.ordered false
      let a := c.plain 2 f.a.toNat
      c.checkRows [(a, none)]
      let full := c.act.filter fun l => 32 ≤ c.depth l
      if !full.isEmpty then c.faultLanes 0x0B 0 0 0 full
      else
        let addr (l : Nat) : Nat := c.stackVa l (c.depth l)
        let lanes ← c.checkLanes ⟨[], [], addr, .write, 8, 0⟩
        if lanes.isEmpty then .ok (c.s, .advance)
        else
          c.granuleCheck (lanes.map fun (_, pa) => (c.s.place pa, 8))
          let items := lanes.map fun (l, pa) => StoreItem.mk l pa (c.s.fmtBase c.t.ctx (addr l)) (leBytes 8 (a.val l).toNat)
          let s1 := (c.s.cacheAll c.t.ctx (c.act.map addr)).modFibre c.r fun g => g.setDepths (c.act.map fun l => (l, c.depth l + 1))
          (c.withState s1).storeLanes [.st] 15 items

/-- A stack entry into d. -/
def popEval (d : Nat) (p : BitVec 3) : LaneEval := fun rd x =>
  match rd x.pa 8 with
  | none => .error [(x.pa, 8)]
  | some (bs, q) => .ok ⟨[(d, ⟨BitVec.ofNat 64 (leNat bs), .raw, q⟩)], [(p, true)], 0⟩

def execSpop (f : VF) (s : State) : Host.Outcome State Fault Refusal :=
  let p : BitVec 3 := f.c.extractLsb' 0 3
  issue (.spop f) (rNames f 1 0 0 0) s fun c =>
    if c.lr.stkOff == 0 then c.illegal 56
    else do
      c.ordered false
      let empty := c.act.filter fun l => c.depth l == 0
      let c1 : Ctx := { c with act := c.act.filter fun l => c.depth l != 0 }
      let addr (l : Nat) : Nat := c.stackVa l (c.depth l - 1)
      let lanes ← c1.checkLanes ⟨[], [], addr, .read, 8, 0⟩
      let none (s : State) : State := s.setPreds c.r p (empty.map fun l => (l, false))
      if lanes.isEmpty then .ok (none c.s, .advance)
      else
        c.granuleCheck (lanes.map fun (_, pa) => (c.s.place pa, 8))
        let s1 := (c.s.cacheAll c.t.ctx (c1.act.map addr)).modFibre c.r fun g => g.setDepths (c1.act.map fun l => (l, c.depth l - 1))
        (c1.withState (none s1)).readLanes (.spop f) [.ld] 15 [f.d.toNat] .general (lanes.map fun (l, pa) => ⟨l, pa, []⟩) (popEval f.d.toNat p)

def execSpopDepth (f : VF) (s : State) : Host.Outcome State Fault Refusal :=
  issue (.spopDepth f) (rNames f 1 0 0 0) s fun c =>
    .ok (c.write c.s f.d.toNat (c.act.map fun l => (l, rawRow (BitVec.ofNat 64 (c.depth l)))) .general, .advance)

def execSpopClear (f : VF) (s : State) : Host.Outcome State Fault Refusal :=
  issue (.spopClear f) (rNames f 0 0 0 0) s fun c =>
    .ok (c.s.modFibre c.r fun g => g.setDepths (c.act.map fun l => (l, 0)), .advance)

/-! ## cull -/

/-- All three vertices fail one of the frustum's tests. -/
def outside (vs : List V4) : Bool :=
  let tests : List (V4 → Bool) := [fun p => p.x.le p.w, fun p => p.w.neg.le p.x, fun p => p.y.le p.w, fun p => p.w.neg.le p.y,
    fun p => 0 ≤ p.z.num, fun p => p.z.le p.w]
  tests.any fun t => vs.all fun p => !t p

/-- A pixel centre of the viewport lies between two positions of one axis, in 1/256 pixel. -/
def holdsCentre (lo hi : Int) (n : Nat) : Bool :=
  let first := max 0 (Int.fdiv (lo - 128 + 255) 256)
  let last := min ((n : Int) - 1) (Int.fdiv (hi - 128) 256)
  first ≤ last

/-- The reason code of `cull`; 0 keeps the triangle (R248). -/
def cullCode (ctl : Word) (vs : List FV) : Nat :=
  match fracs? vs with
  | none => 5
  | some l =>
    let ps := v4s l
    let vpw := ctl.field 16 16
    let vph := ctl.field 32 16
    if ctl.getLsbD 2 && outside ps then 2
    else match ps.mapM fun p => if 0 < p.w.num then p.screen vpw vph else none with
      | some [a, b, c] =>
        let ar := area2 a b c
        if ctl.getLsbD 3 && ar == 0 then 3
        else if ctl.getLsbD 1 && (if ctl.getLsbD 5 then 0 < ar else ar < 0) then 1
        else if ctl.getLsbD 4 && !(holdsCentre (min a.1 (min b.1 c.1)) (max a.1 (max b.1 c.1)) vpw &&
            holdsCentre (min a.2 (min b.2 c.2)) (max a.2 (max b.2 c.2)) vph) then 4
        else 0
      | _ => 0

def execCull (f : VF) (s : State) : Host.Outcome State Fault Refusal :=
  let p : BitVec 3 := f.c.extractLsb' 0 3
  issue (.cull f) (rNames f 1 6 1 0) s fun c => do
    let vs := c.grp 2 f.a.toNat 6
    let b := c.plain 3 f.b.toNat
    c.checkRows (asF32 vs ++ untagged [b])
    let res := c.act.map fun l => (l, cullCode (b.val l) (f32s (valsAt vs l)))
    let s1 := c.write c.s f.d.toNat (res.map fun (l, k) => (l, rawRow (BitVec.ofNat 64 k))) .general
    .ok (s1.setPreds c.r p (res.map fun (l, k) => (l, k == 0)), .advance)

end Sys2Proof.Machine
end

