-- ==== Sys2Proof/Machine/Texture.lean ====
section
/-! DEFINITION. The texture sampler: descriptors and layout (R256, R257), level and texel selection (R258), `tex` and `texq` (R258 to
R260). -/

namespace Sys2Proof.Machine

/-! ## Descriptors (R256, R257) -/

structure TexDesc where
  base : Nat
  w : Nat
  h : Nat
  levels : Nat
  fmt : Nat
  filter : Nat
  addrU : Nat
  addrV : Nat
deriving DecidableEq, Repr

def texDesc (dw0 dw1 : Nat) : TexDesc :=
  ⟨dw0, dw1 % 2 ^ 16, dw1 / 2 ^ 16 % 2 ^ 16, dw1 / 2 ^ 32 % 16, dw1 / 2 ^ 36 % 16, dw1 / 2 ^ 40 % 4, dw1 / 2 ^ 42 % 4, dw1 / 2 ^ 44 % 4⟩

/-- The checks at each use (R256). -/
def texDescOk (bs : List Byte) : Bool :=
  let d := texDesc (dwAt bs 0) (dwAt bs 1)
  d.base < 2 ^ 56 && dwAt bs 1 < 2 ^ 46 && dwAt bs 2 == 0 && dwAt bs 3 == 0 && 1 ≤ d.w && d.w ≤ 16384 && 1 ≤ d.h && d.h ≤ 16384 &&
    1 ≤ d.levels && d.levels ≤ (max d.w d.h).log2 + 1 && d.fmt < 4 && d.filter < 3 && d.addrU < 3 && d.addrV < 3

def texelSize (fmt : Nat) : Nat := match fmt with | 0 => 4 | 1 => 8 | 2 => 16 | _ => 4

def TexDesc.wl (d : TexDesc) (l : Nat) : Nat := max 1 (d.w / 2 ^ l)
def TexDesc.hl (d : TexDesc) (l : Nat) : Nat := max 1 (d.h / 2 ^ l)
def TexDesc.pitch (d : TexDesc) (l : Nat) : Nat := roundUp 64 (d.wl l * texelSize d.fmt)
/-- Offset of level l from the base. -/
def TexDesc.levelOff (d : TexDesc) : Nat → Nat
  | 0 => 0
  | l + 1 => roundUp 256 (d.levelOff l + d.pitch l * d.hl l)
/-- Offset of texel (i, j) of level l. -/
def TexDesc.texelOff (d : TexDesc) (l i j : Nat) : Nat := d.levelOff l + j * d.pitch l + i * texelSize d.fmt

/-! ## Level of detail (R258) -/

/-- Fraction bits kept of an irrational level of detail: more than any rounding decision of a sample needs. -/
def lodP : Nat := 2048

def wideSeries (z2 : Nat) : Nat → Nat → Nat → Nat → Nat
  | 0, _, _, acc => acc
  | fuel + 1, k, p, acc => wideSeries z2 fuel (k + 2) (p * z2 / 2 ^ lodP) (acc + p / k)

/-- ln of (1 + z) / (1 − z), z = n / d at most 1/3, in units of 2^-lodP. -/
def wideLn (n d : Nat) : Nat :=
  let z := n * 2 ^ lodP / d
  2 * wideSeries (z * z / 2 ^ lodP) 660 1 z 0

/-- Half the binary logarithm of m × 2^e, m nonzero. -/
def halfLog2 (m : Nat) (e : Int) : FV :=
  let l := m.log2
  let k : Int := e + l
  if m == 2 ^ l then .fin (k < 0) k.natAbs (-1)
  else
    let t : Int := k * (2 ^ lodP : Nat) + (wideLn (m - 2 ^ l) (m + 2 ^ l) * 2 ^ lodP / wideLn 1 3 : Nat)
    .fin (t < 0) (2 * t + 1).natAbs (-(lodP : Int) - 2)

/-- λ of `.grad` from (dudx, dvdx, dudy, dvdy). -/
def gradLod (d : TexDesc) (g : List FV) : FV :=
  if g.any FV.isNan then .nan
  else if g.any FV.isInf then .inf false
  else
    let sq (x : FV) (n : Nat) : FV := let y := (x.mul (.fin false n 0)).1; (y.mul y).1
    let r (k : Nat) : FV := (sumFV [sq (g.getD k .nan) d.w, sq (g.getD (k + 1) .nan) d.h]).1
    match (r 0).maxNum (r 2) with
    | .fin _ m e => if m == 0 then .inf true else halfLog2 m e
    | _ => .nan

/-- λ from the words of b + 1 and b + 2. -/
def lodOf (grad : Bool) (d : TexDesc) (ws : List Word) : FV :=
  if grad then gradLod d (f32s ws) else f32At (ws.getD 0 0) 0

/-- λc: λ held to the levels. -/
def clampLod (d : TexDesc) (x : FV) : FV :=
  match x with
  | .nan => .nan
  | _ => (x.maxNum (.fin false 0 0)).minNum (.fin false (d.levels - 1) 0)

/-! ## Texels (R258) -/

/-- A texel of the selected cells: level, indices after the address mode, weight, and the derivatives of the weight (R234). -/
structure Tap where
  level : Nat
  i : Nat
  j : Nat
  wt : Frac
  du : Frac
  dv : Frac
deriving DecidableEq, Repr

def wrapIdx (mode : Nat) (i : Int) (n : Nat) : Nat :=
  match mode with
  | 0 => (i % (n : Int)).toNat
  | 1 => (min (max i 0) ((n : Int) - 1)).toNat
  | _ => let m := (i % (2 * n : Int)).toNat; if m < n then m else 2 * n - 1 - m

/-- Levels and their weights. -/
def lodLevels (d : TexDesc) (lc : Frac) : List (Nat × Frac) :=
  if d.filter != 2 then [((lc.add ⟨1, 2⟩).floor.toNat, ⟨1, 1⟩)]
  else
    let l := lc.floor
    let f := lc.sub (Frac.ofInt l)
    if f.isZero then [(l.toNat, ⟨1, 1⟩)] else [(l.toNat, (Frac.ofInt 1).sub f), (l.toNat + 1, f)]

/-- The texels of one level's cell. -/
def cellTaps (d : TexDesc) (u v : Frac) (l : Nat) (lw : Frac) : List Tap :=
  let n := d.wl l
  let m := d.hl l
  let tap (i j : Int) (w a b : Frac) : Tap := ⟨l, wrapIdx d.addrU i n, wrapIdx d.addrV j m, w.mul lw, a.mul lw, b.mul lw⟩
  if d.filter == 0 then [tap (u.mul (Frac.ofInt n)).floor (v.mul (Frac.ofInt m)).floor ⟨1, 1⟩ ⟨0, 1⟩ ⟨0, 1⟩]
  else
    let x := (u.mul (Frac.ofInt n)).sub ⟨1, 2⟩
    let y := (v.mul (Frac.ofInt m)).sub ⟨1, 2⟩
    let i := x.floor
    let j := y.floor
    let a := x.sub (Frac.ofInt i)
    let b := y.sub (Frac.ofInt j)
    let a' := (Frac.ofInt 1).sub a
    let b' := (Frac.ofInt 1).sub b
    let sn := Frac.ofInt n
    let sm := Frac.ofInt m
    [tap i j (a'.mul b') (sn.mul b').neg (a'.mul sm).neg, tap (i + 1) j (a.mul b') (sn.mul b') (a.mul sm).neg,
      tap i (j + 1) (a'.mul b) (sn.mul b).neg (a'.mul sm), tap (i + 1) (j + 1) (a.mul b) (sn.mul b) (a.mul sm)]

/-- Every texel of the selected cells; none when a coordinate or λ has no sample. -/
def texTaps (grad : Bool) (d : TexDesc) (coord : List Word) : Option (List Tap) :=
  match (f32At (coord.getD 0 0) 0).frac?, (f32At (coord.getD 0 0) 1).frac?, (clampLod d (lodOf grad d (coord.drop 1))).frac? with
  | some u, some v, some lc => some ((lodLevels d lc).flatMap fun (l, w) => cellTaps d u v l w)
  | _, _, _ => none

/-- A dyadic fraction as an exact value. -/
def Frac.dyadic (x : Frac) : FV := .fin (x.num < 0) x.num.natAbs (-(x.den.log2 : Int))

/-- The four channels of a texel; those of FORMAT 0 in units of 1/255. -/
def texelChannels (fmt : Nat) (bs : List Byte) : List FV :=
  match fmt with
  | 0 => (List.range 4).map fun k => .fin false (byteAt bs k) 0
  | 1 => (List.range 4).map fun k => fmtF16.value (leNat ((bs.drop (2 * k)).take 2))
  | 2 => (List.range 4).map fun k => fmtF32.value (leNat ((bs.drop (4 * k)).take 4))
  | _ => [fmtF32.value (leNat bs), .fin false 0 0, .fin false 0 0, .fin false 1 0]

/-- RoundTo(f32, x, RNE) of a sum over channel values of a format. -/
def roundChannel (fmt : Nat) (x : FV) : Nat × Fl :=
  match x with
  | .fin s m e => roundQ fmtF32 .rne 0 false s m (if fmt == 0 then 255 else 1) e
  | _ => roundFV fmtF32 .rne 0 false 0 x

/-! ## One lane -/

/-- What a lane's sample needs, as the arguments of its access: the descriptor's first two words, the coordinates, and the physical
addresses of its texels. A poisoned descriptor leaves no arguments. -/
def texArgs (dw0 dw1 : Nat) (coord : List Word) (pas : List Nat) : List Word :=
  [BitVec.ofNat 64 dw0, BitVec.ofNat 64 dw1] ++ coord ++ pas.map (BitVec.ofNat 64 ·)

/-- Taps that `tex` reads. -/
def contributing (ts : List Tap) : List Tap := ts.filter fun t => !t.wt.isZero

/-- Texels from a reader: each tap with its channels, and whether one is poisoned; or the ranges that are missing. -/
def fetchTexels (rd : Reader) (fmt : Nat) (taps : List Tap) (pas : List Nat) : Except (List (Nat × Nat)) (List (Tap × List FV) × Bool) :=
  let got := (List.zip taps pas).map fun (t, pa) => (t, pa, rd pa (texelSize fmt))
  let miss := got.filterMap fun (_, pa, o) => if o.isNone then some (pa, texelSize fmt) else none
  if miss.isEmpty then
    .ok (got.filterMap fun (t, _, o) => o.map fun x => (t, texelChannels fmt x.1), got.any fun (_, _, o) => (o.map (·.2)).getD false)
  else .error miss

def nanPair : Word := pairWord fmtF32.nan fmtF32.nan

/-- Both result rows of `tex`. -/
def texEval (grad : Bool) (d0 : Nat) : LaneEval := fun rd x =>
  match x.args with
  | dw0 :: dw1 :: rest =>
    let d := texDesc dw0.toNat dw1.toNat
    let n := if grad then 3 else 2
    match texTaps grad d (rest.take n) with
    | none => .ok ⟨[(d0, f32Row nanPair), (d0 + 1, f32Row nanPair)], [], 0⟩
    | some ts =>
      match fetchTexels rd d.fmt (contributing ts) ((rest.drop n).map BitVec.toNat) with
      | .error r => .error r
      | .ok (txs, pois) =>
        let ch (k : Nat) : Nat := (roundChannel d.fmt (sumFV (txs.map fun (t, cs) => (t.wt.dyadic.mul (cs.getD k .nan)).1)).1).1
        let row (k : Nat) : Row := ⟨pairWord (ch k) (ch (k + 1)), .f32, pois⟩
        .ok ⟨[(d0, row 0), (d0 + 1, row 2)], [], 0⟩
  | _ => .ok ⟨[(d0, poisRow), (d0 + 1, poisRow)], [], 0⟩

/-! ## Checks (R256, R259) -/

/-- A descriptor as a lane found it: its bytes, or none when they are poisoned. -/
def Ctx.descLane (c : Ctx) (rd : Reader) (l va pa : Nat) : Except LaneFail (Option (List Byte)) :=
  match rd pa 32 with
  | none => .ok none
  | some (_, true) => .ok none
  | some (bs, false) =>
    if !texDescOk bs then .error ⟨l, 1, 40, c.is.word.toNat / 2 ^ 32, 2, va, none⟩
    else if dwAt bs 0 % 256 != 0 then .error ⟨l, 5, 256, 0, 2, dwAt bs 0, none⟩
    else .ok (some bs)

/-- The texel addresses of a lane pass R149. -/
def Ctx.texelLane (c : Ctx) (l : Nat) (vas : List Nat) : List (Except LaneFail Nat) :=
  vas.map fun va => match c.s.check c.who .read va with
    | .error e => .error ⟨l, e.code, e.detail, 0, 2, va, e.host⟩
    | .ok pa => .ok pa

/-- Every lane's result, or the fault of the lowest failing lane. -/
def gatherLanes {α : Type} (kind : Nat) (res : List (Nat × Except LaneFail α)) : Except Exc (List (Nat × α)) := do
  failLanes kind (res.filterMap fun x => match x.2 with | .error e => some e | .ok _ => none)
  .ok (res.filterMap fun x => match x.2 with | .ok a => some (x.1, a) | .error _ => none)

/-- Descriptors of the active lanes, read at issue. -/
def Ctx.descriptors (c : Ctx) (i : Instr) (a : Src) (data : List (Src × Option Tag)) : Except Exc (List (Nat × Nat × Option (List Byte))) := do
  let lanes ← c.checkLanes ⟨[a], data, addrOf a none 0, .read, 32, 2⟩
  c.granuleCheck (lanes.map fun (_, pa) => (c.s.place pa, 32))
  let rd ← c.needNow i (lanes.map fun (_, pa) => (pa, 32))
  let ds ← gatherLanes kindRead (lanes.map fun (l, pa) => (l, c.descLane rd l (a.val l).toNat pa))
  .ok (lanes.filterMap fun (l, pa) => (ds.find? (·.1 == l)).map fun x => (l, pa, x.2))

/-- The local bytes among ranges. -/
def State.localBytes (s : State) (ranges : List (Nat × Nat)) : List (Nat × Byte × Bool) :=
  ranges.flatMap fun (pa, n) => match s.place pa with
    | .far _ => []
    | p => let (bs, q) := s.readPlace p n; bs.zipIdx.map fun (b, k) => (pa + k, b, q)

/-- Local bytes, read at issue, are kept for lanes that also wait for remote ones. -/
def State.keepBytes (s : State) (r : FibreRef) (id : Nat) (bytes : List (Nat × Byte × Bool)) : State :=
  s.modFibre r fun f => { f with ops := f.ops.map fun (o : Op) => if o.id != id then o else match o.kind with
    | .access i ls bs => { o with kind := .access i ls (bs ++ bytes) }
    | _ => o }

/-- `readLanes`, keeping the local bytes of the ranges given. -/
def Ctx.readKeep (c : Ctx) (i : Instr) (classes : List WClass) (regs : List Nat) (sh : Shape) (lanes : List LaneAcc) (ranges : List (Nat × Nat))
    (eval : LaneEval) : Act := do
  let (s, fl) ← c.readLanes i classes 15 regs sh lanes eval
  if ranges.any fun (pa, _) => c.s.isFar pa then .ok (s.keepBytes c.r c.s.fresh (c.s.localBytes ranges), fl) else .ok (s, fl)

/-! ## tex, texq -/

def texInstr (i : Instr) (grad : Bool) (f : VF) (s : State) : Host.Outcome State Fault Refusal :=
  let n := if grad then 3 else 2
  issue i (rNames f 2 1 n 0) s fun c => do
    c.ordered false
    let a := c.plain 2 f.a.toNat
    let b := c.grp 3 f.b.toNat n
    let ds ← c.descriptors i a (asF32 b)
    if ds.isEmpty then .ok (c.s, .advance)
    else
      let taps (l : Nat) (bs : List Byte) : List Tap := contributing ((texTaps grad (texDesc (dwAt bs 0) (dwAt bs 1)) (valsAt b l)).getD [])
      let vas (l : Nat) (o : Option (List Byte)) : List Nat := match o with
        | none => []
        | some bs => let d := texDesc (dwAt bs 0) (dwAt bs 1); (taps l bs).map fun t => d.base + d.texelOff t.level t.i t.j
      let pas ← gatherLanes kindRead (ds.map fun (l, _, o) => (l, laneAll (c.texelLane l (vas l o))))
      let size (o : Option (List Byte)) : Nat := match o with | none => 4 | some bs => texelSize (dwAt bs 1 / 2 ^ 36 % 16)
      let accs := ds.map fun (l, pa, o) => (LaneAcc.mk l pa (match o with
        | none => []
        | some bs => texArgs (dwAt bs 0) (dwAt bs 1) (valsAt b l) (((pas.find? (·.1 == l)).map (·.2)).getD [])))
      let ranges := ds.flatMap fun (l, _, o) => (((pas.find? (·.1 == l)).map (·.2)).getD []).map fun pa => (pa, size o)
      c.granuleCheck (ranges.map fun (pa, n) => (c.s.place pa, n))
      let s1 := c.s.cacheAll c.t.ctx (c.act.map (addrOf a none 0) ++ ds.flatMap fun (l, _, o) => vas l o)
      (c.withState s1).readKeep i [.trav] [f.d.toNat, f.d.toNat + 1] .general accs ranges (texEval grad f.d.toNat)

def execTexLod (f : VF) (s : State) : Host.Outcome State Fault Refusal := texInstr (.texLod f) false f s
def execTexGrad (f : VF) (s : State) : Host.Outcome State Fault Refusal := texInstr (.texGrad f) true f s

/-- A result row of `texq`: from the descriptor and the words of b. -/
def texqEval (d0 : Nat) (row : TexDesc → List Word → Row) : LaneEval := fun _ x =>
  match x.args with
  | dw0 :: dw1 :: ws => .ok ⟨[(d0, row (texDesc dw0.toNat dw1.toNat) ws)], [], 0⟩
  | _ => .ok ⟨[(d0, poisRow)], [], 0⟩

/-- Dimensions of level L; 0 for a level that the texture lacks. -/
def sizeRow (d : TexDesc) (ws : List Word) : Row :=
  let l := elem 32 0 (ws.getD 0 0)
  rawRow (if l < d.levels then pairWord (d.wl l) (d.hl l) else 0)

/-- (λc, λ). -/
def lodRow (d : TexDesc) (ws : List Word) : Row :=
  let lam := gradLod d (f32s (ws.drop 1))
  f32Row (pairWord (rne fmtF32 false (clampLod d lam)) (rne fmtF32 false lam))

def texqInstr (i : Instr) (n : Nat) (tag : Option Tag) (row : TexDesc → List Word → Row) (f : VF) (s : State) :
    Host.Outcome State Fault Refusal :=
  issue i (rNames f 1 1 n 0) s fun c => do
    c.ordered false
    let a := c.plain 2 f.a.toNat
    let b := c.grp 3 f.b.toNat n
    let ds ← c.descriptors i a (b.map fun x => (x, tag))
    if ds.isEmpty then .ok (c.s, .advance)
    else
      let accs := ds.map fun (l, pa, o) => LaneAcc.mk l pa (match o with | none => [] | some bs => texArgs (dwAt bs 0) (dwAt bs 1) (valsAt b l) [])
      let c := c.withState (c.s.cacheAll c.t.ctx (c.act.map (addrOf a none 0)))
      c.readLanes i [.trav] 15 [f.d.toNat] .general accs (texqEval f.d.toNat row)

def execTexqSize (f : VF) (s : State) : Host.Outcome State Fault Refusal := texqInstr (.texqSize f) 1 none sizeRow f s
def execTexqLod (f : VF) (s : State) : Host.Outcome State Fault Refusal := texqInstr (.texqLod f) 3 (some .f32) lodRow f s

end Sys2Proof.Machine
end

