-- ==== Sys2Proof/Machine/Adjoint.lean ====
section
/-! DEFINITION. Adjoints: `triadj` (R233), `texadj` (R234) and `edgeq` (R235), and the queue descriptors that `edgeq` and the shader
queues share (R261). -/

namespace Sys2Proof.Machine

/-! ## triadj -/

/-- The 15 derivatives with their flags. -/
def triadjLane (ray vs gs : List FV) : List Nat × Fl :=
  match fracs? ray, fracs? (vs.take 9), fracs? (gs.take 3) with
  | some r, some p, some g =>
    let m := meet (v3At r 0) (v3At r 3) (v3At p 0) (v3At p 3) (v3At p 6)
    if m.det.isZero then (List.replicate 15 0, flNV)
    else
      let out := (m.grad (g.getD 0 ⟨0, 1⟩) (g.getD 1 ⟨0, 1⟩) (g.getD 2 ⟨0, 1⟩)).map Frac.toF32
      (out.map (·.1), orAll out)
  | _, _, _ => (List.replicate 15 fmtF32.nan, flNV)

def execTriadj (f : VF) (s : State) : Host.Outcome State Fault Refusal :=
  issue (.triadj f) (rNames f 8 3 5 2) s fun c => do
    let a := c.grp 2 f.a.toNat 3
    let b := c.grp 3 f.b.toNat 5
    let u := c.grp 4 f.c.toNat 2
    c.checkRows (asF32 (a ++ b ++ u))
    let res := c.act.map fun l => (l, triadjLane (f32s (valsAt a l)) (f32s (valsAt b l)) (f32s (valsAt u l)))
    let sh := c.shapeOf .plain (a ++ b ++ u)
    let s1 := (List.range 8).foldl (fun (s : State) k =>
      c.write s (f.d.toNat + k) (res.map fun (l, v, _) => (l, f32Row (pairWord (v.getD (2 * k) 0) (v.getD (2 * k + 1) 0)))) sh) c.s
    let fl := res.filterMap fun (l, _, x) => if x == 0 then none else some (l, x)
    .ok (if fl.isEmpty then s1 else s1.orFlags c.r fl, .advance)

/-! ## texadj -/

/-- The derivative row of a lane: exact sums over channels and texels (R234). -/
def texadjEval (grad : Bool) (d0 : Nat) : LaneEval := fun rd x =>
  match x.args with
  | dw0 :: dw1 :: rest =>
    let d := texDesc dw0.toNat dw1.toNat
    let n := if grad then 3 else 2
    match texTaps grad d (rest.take n) with
    | none => .ok ⟨[(d0, f32Row nanPair)], [], 0⟩
    | some ts =>
      let g := f32s ((rest.drop n).take 2)
      match fetchTexels rd d.fmt ts ((rest.drop (n + 2)).map BitVec.toNat) with
      | .error r => .error r
      | .ok (txs, pois) =>
        if d.filter == 0 then .ok ⟨[(d0, ⟨0, .f32, pois⟩)], [], 0⟩
        else
          let one (dw : Tap → Frac) : Nat × Fl :=
            let terms := txs.flatMap fun (t, cs) => (List.range 4).map fun k =>
              let (p, i) := (g.getD k .nan).mul (dw t).dyadic
              let (q, j) := p.mul (cs.getD k .nan)
              (q, i || j)
            let (x, i) := sumFV (terms.map (·.1))
            let (v, fl) := roundChannel d.fmt x
            (v, if i || terms.any (·.2) then fl ||| flNV else fl)
          let (lo, f0) := one Tap.du
          let (hi, f1) := one Tap.dv
          .ok ⟨[(d0, ⟨pairWord lo hi, .f32, pois⟩)], [], f0 ||| f1⟩
  | _ => .ok ⟨[(d0, poisRow)], [], 0⟩

/-- What one lane scatters: virtual address and rounded value per channel of each texel of nonzero weight, with the flags. -/
def texadjScatter (d : TexDesc) (base : Word) (g : List FV) (taps : List Tap) : List (Nat × Nat × Fl) :=
  let gd : TexDesc := { d with fmt := 2 }
  (contributing taps).flatMap fun t => (List.range 4).map fun k =>
    let (v, fl) := roundFV fmtF32 .rne 0 false 0 ((g.getD k .nan).mul t.wt.dyadic).1
    ((base.toNat + gd.texelOff t.level t.i t.j + 4 * k) % 2 ^ 64, v, fl)

/-- The gradient words of a lane pass R229. -/
def Ctx.gradLane (c : Ctx) (l : Nat) (vas : List Nat) : List (Except LaneFail Nat) :=
  vas.map fun va =>
    if va % 4 != 0 then .error ⟨l, 5, 4, 0, 2, va, none⟩
    else match c.s.scatCheck c.who c.lr va 4 with
      | .error e => .error ⟨l, e.code, e.detail, 0, 2, va, e.host⟩
      | .ok pa => .ok pa

def texadjInstr (i : Instr) (grad : Bool) (f : VF) (s : State) : Host.Outcome State Fault Refusal :=
  let n := if grad then 3 else 2
  issue i (rNames f 1 2 n 2) s fun c => do
    c.ordered false
    let a := c.plain 2 f.a.toNat
    let a1 := c.plain 2 (f.a.toNat + 1)
    let b := c.grp 3 f.b.toNat n
    let u := c.grp 4 f.c.toNat 2
    let ds ← c.descriptors i a ((a1, none) :: asF32 (b ++ u))
    if ds.isEmpty then .ok (c.s, .advance)
    else
      let desc (bs : List Byte) : TexDesc := texDesc (dwAt bs 0) (dwAt bs 1)
      let taps (l : Nat) (o : Option (List Byte)) : List Tap := match o with
        | none => []
        | some bs => (texTaps grad (desc bs) (valsAt b l)).getD []
      let vas (l : Nat) (o : Option (List Byte)) : List Nat := match o with
        | none => []
        | some bs => (taps l o).map fun t => (desc bs).base + (desc bs).texelOff t.level t.i t.j
      let scat (l : Nat) (o : Option (List Byte)) : List (Nat × Nat × Fl) := match o with
        | none => []
        | some bs => texadjScatter (desc bs) (a1.val l) (f32s (valsAt u l)) (taps l o)
      let both ← gatherLanes kindRead (ds.map fun (l, _, o) => (l, laneAll (c.texelLane l (vas l o) ++ c.gradLane l ((scat l o).map (·.1)))))
      let all_ (l : Nat) : List Nat := ((both.find? (·.1 == l)).map (·.2)).getD []
      let pas (l : Nat) : List Nat := (ds.filter (·.1 == l)).flatMap fun (_, _, o) => (all_ l).take (vas l o).length
      let gpas (l : Nat) : List Nat := (ds.filter (·.1 == l)).flatMap fun (_, _, o) => (all_ l).drop (vas l o).length
      let size (o : Option (List Byte)) : Nat := match o with | none => 4 | some bs => texelSize (desc bs).fmt
      let ranges := ds.flatMap fun (l, _, o) => (pas l).map fun pa => (pa, size o)
      c.granuleCheck (ranges.map fun (pa, n) => (c.s.place pa, n))
      let accs := ds.map fun (l, pa, o) => LaneAcc.mk l pa (match o with
        | none => []
        | some bs => texArgs (dwAt bs 0) (dwAt bs 1) (valsAt b l ++ valsAt u l) (pas l))
      let outs := ds.map fun (l, _, o) => (l, List.zip (gpas l) (scat l o))
      let s0 := c.s.cacheAll c.t.ctx (c.act.map (addrOf a none 0) ++ ds.flatMap fun (l, _, o) => vas l o ++ (scat l o).map (·.1))
      -- the scatter's operation comes first, so that the result lands after it
      let (id, s1) := s0.addOp c.r [.tape] .scatter 15 [⟨f.d.toNat, [], .general⟩] [] []
      let adds := outs.flatMap fun (_, xs) => xs.map fun (pa, _, v, _) =>
        Addition.mk c.t.launch c.t.ctx pa (BitVec.ofNat 32 v) false (some (c.r, id))
      let fl := (outs.map fun (l, xs) => (l, xs.foldl (fun (a : Fl) x => a ||| x.2.2.2) 0)).filter fun x => x.2 != 0
      let s2 := if adds.isEmpty then s0 else { s1 with adds := s1.adds ++ adds }
      let c1 := c.withState (if fl.isEmpty then s2 else s2.orFlags c.r fl)
      c1.readKeep i [.trav] [f.d.toNat] (c.shapeOf .plain ([a, a1] ++ b ++ u)) accs ranges (texadjEval grad f.d.toNat)

def execTexadjLod (f : VF) (s : State) : Host.Outcome State Fault Refusal := texadjInstr (.texadjLod f) false f s
def execTexadjGrad (f : VF) (s : State) : Host.Outcome State Fault Refusal := texadjInstr (.texadjGrad f) true f s

/-! ## Queue descriptors (R261) -/

/-- A queue descriptor's fields as they stand in memory. -/
structure QDesc where
  base : Nat
  kind : Nat
  itemSz : Nat
  cap : Nat
  head : Nat
  tail : Nat
  commit : Nat
  kernel : Nat
  teamItems : Nat
  ageLimit : Nat
  oldest : Nat
deriving DecidableEq, Repr

def qdescOf (bs : List Byte) : QDesc :=
  let d1 := dwAt bs 1
  ⟨dwAt bs 0, d1 / 2 ^ 40 % 256, d1 / 2 ^ 32 % 256, d1 % 2 ^ 32, dwAt bs 2, dwAt bs 3, dwAt bs 4, dwAt bs 5, dwAt bs 6 / 2 ^ 32, dwAt bs 6 % 2 ^ 32,
    dwAt bs 7⟩

/-- Bytes of an item by ITEMSZ. -/
def itemBytes (sz : Nat) : Nat := 8 * 2 ^ sz

/-- The descriptor at a local physical address. -/
def State.qdesc (s : State) (pa : Nat) : QDesc := qdescOf (s.readPlace (s.place pa) 64).1

/-- CAPACITY is a power of two from 2^6 to 2^24, and the item ring is aligned (R261). -/
def QDesc.ringOk (q : QDesc) : Bool := q.cap == 2 ^ q.cap.log2 && 64 ≤ q.cap && q.cap ≤ 2 ^ 24

/-- Address of item n. -/
def QDesc.itemVa (q : QDesc) (n : Nat) : Nat := q.base + n % q.cap * itemBytes q.itemSz

/-- A doubleword of a descriptor is stored. -/
def State.setQ (s : State) (pa k v : Nat) : State := s.writePlace (s.place (pa + 8 * k)) (leBytes 8 v) false

/-- The time at which item n of a queue was committed, as far as the device saw the commit. -/
def State.commitTime (s : State) (pa n : Nat) : Option Word := (s.commits.find? fun x => x.1 == pa && n < x.2.1).map (·.2.2)

/-- HEAD advances, and OLDEST follows when the new oldest item is committed (R261, R315). -/
def State.advanceHead (s : State) (pa head : Nat) : State :=
  let s1 := s.setQ pa 2 head
  let s2 := match s.commitTime pa head with
    | some t => s1.setQ pa 7 t.toNat
    | none => s1
  { s2 with commits := s2.commits.filter fun x => !(x.1 == pa && x.2.1 ≤ head) }

/-- A queue's place: this package's HBM, on no format page (R262). -/
def State.queuePlaceBad (s : State) (ctx va pa : Nat) : Option LaneErr :=
  if pkgOf pa != s.pkg.toNat || !isHbm (localOf pa) then some (lerr 7 9)
  else if (s.fmtBase ctx va).isSome then some (lerr 7 5)
  else none

/-! ## edgeq -/

/-- The edge queue that the lowest active thread names, and its physical address. -/
def Ctx.edgeQueue (c : Ctx) (a : Src) : Except LaneErr (Nat × QDesc) :=
  match c.s.checkAligned c.who .atomic (a.val c.low).toNat 64 with
  | .error e => .error e
  | .ok pa => match c.s.queuePlaceBad c.t.ctx (a.val c.low).toNat pa with
    | some e => .error e
    | none =>
      let q := c.s.qdesc pa
      if q.kind != 1 || q.itemSz != 3 || !q.ringOk then .error (lerr 7 8)
      else if q.base % 64 != 0 then .error (lerr 5 64)
      else .ok (pa, q)

/-- An edge record into eight registers. -/
def edgeEval (d : Nat) (p : BitVec 3) : LaneEval := fun rd x =>
  match rd x.pa 64 with
  | none => .error [(x.pa, 64)]
  | some (bs, po) => .ok ⟨(List.range 8).map fun k => (d + k, ⟨BitVec.ofNat 64 (dwAt bs k), .raw, po⟩), [(p, true)], 0⟩

def execEdgeq (f : VF) (s : State) : Host.Outcome State Fault Refusal :=
  let p : BitVec 3 := f.c.extractLsb' 0 3
  issue (.edgeq f) (rNames f 8 1 0 0) s fun c =>
    if c.act.isEmpty then .ok (c.s, .advance)
    else do
      c.ordered false
      let a := c.plain 2 f.a.toNat
      c.checkLow [a]
      let failLow (e : LaneErr) : Except Exc Unit := failLanes kindWrite [⟨c.low, e.code, e.detail, 0, 2, (a.val c.low).toNat, e.host⟩]
      match c.edgeQueue a with
      | .error e => do failLow e; .ok (c.s, .advance)
      | .ok (pa, q) => do
        let takers := (c.act.zipIdx.filter fun x => x.2 < q.commit - q.head).map fun (l, k) => (l, q.itemVa (q.head + k))
        let recs ← gatherLanes kindRead (takers.map fun (l, va) => (l, match c.s.check c.who .read va with
          | .error e => .error (LaneFail.mk l e.code e.detail 0 2 va e.host)
          | .ok rp => .ok rp))
        let accs := recs.map fun (l, rp) => LaneAcc.mk l rp []
        c.granuleCheck ((c.s.place pa, 64) :: accs.map fun x => (c.s.place x.pa, 64))
        let regs := (List.range 8).map (f.d.toNat + ·)
        let s1 := if takers.isEmpty then c.s else c.s.advanceHead pa (q.head + takers.length)
        let s2 := s1.setPreds c.r p ((c.act.filter fun l => !takers.any (·.1 == l)).map fun l => (l, false))
        (c.withState s2).readLanes (.edgeq f) [.tape] 15 regs .general accs (edgeEval f.d.toNat p)

end Sys2Proof.Machine
end

