-- ==== Sys2Proof/Machine/Queue.lean ====
section
/-! DEFINITION. Shader queues: `qpush`, its parking and commit (R261, R262), and `qinfo` (R263). -/

namespace Sys2Proof.Machine

/-! ## Checks -/

/-- A queue of a kind and item size, with its whole ring open to item writes, which no format page takes (R320): its physical address and
fields (R250, R262). -/
def State.queueCheck (s : State) (w : Who) (va kind : Nat) (size : Nat) : Except (Nat × LaneErr) (Nat × QDesc) :=
  match s.checkAligned w .write va 64 with
  | .error e => .error (va, e)
  | .ok pa => match s.queuePlaceBad w.ctx va pa with
    | some e => .error (va, e)
    | none =>
      let q := s.qdesc pa
      if q.kind != kind || q.itemSz != size || !q.ringOk then .error (va, lerr 7 8)
      else if q.base % 64 != 0 then .error (q.base, lerr 5 64)
      else
        let bad := (pagesOf q.base (q.cap * itemBytes q.itemSz)).findSome? fun p => match s.check w .ring p with
          | .error e => some (p, e)
          | .ok _ => none
        match bad with
        | some e => .error e
        | none => .ok (pa, q)

/-! ## Reservation and commit -/

def QDesc.space (q : QDesc) : Nat := q.cap - (q.tail - q.head)

/-- One item is written; a remote one travels through the fabric. -/
def State.putItem (s : State) (ctx unit : Nat) (w : Waiter) (va : Nat) (bs : List Byte) : Option State :=
  let pa := s.pa ctx va
  if s.isFar pa then s.request unit .write pa bs.length bs ((s.importKey ctx pa).getD noKey) w
  else some (s.store ctx va bs false)

/-- The places of the next n items. -/
def State.itemPlaces (s : State) (ctx : Nat) (q : QDesc) (n : Nat) : List (Place × Nat) :=
  (List.range n).map fun k => (s.place (s.pa ctx (q.itemVa (q.tail + k))), itemBytes q.itemSz)

/-- TAIL is reserved and the items are written, ascending from item r (R262). The commit follows in TAIL order. -/
def State.reserve (s : State) (ctx unit pa : Nat) (q : QDesc) (items : List (List Byte)) (owner : Option (FibreRef × Nat)) : Option State :=
  let (id, s0) := s.newId
  let w : Waiter := match owner with
    | some o => ⟨some o, 0, none⟩
    | none => ⟨none, 0, some ⟨unit / 64, id, 0⟩⟩
  let s1 := s0.setQ pa 3 (q.tail + items.length)
  let s2 := { s1 with reservs := s1.reservs ++ [⟨id, pa, q.tail, items.length, owner⟩] }
  items.zipIdx.foldl (fun (so : Option State) (bs, k) => so.bind fun s => s.putItem ctx unit w (q.itemVa (q.tail + k)) bs) (some s2)

/-- Every item of a reservation is written. -/
def State.itemsWritten (s : State) (r : Reservation) : Bool :=
  !(s.fab.reqs.any fun q => match r.owner with
    | some o => q.fibre == some o
    | none => (q.xfer.map (·.id)) == some r.id)

/-- QPUSH_COMMIT: the reservation that starts at COMMIT is complete; `qpush` completes with it. -/
def execQpushCommit (idx : Nat) (s : State) : Host.Outcome State Fault Refusal :=
  match s.reservs[idx]? with
  | none => .fault .notDue
  | some r =>
    let q := s.qdesc r.desc
    if q.commit != r.first || !s.itemsWritten r then .fault .notDue
    else
      let s1 := s.setQ r.desc 4 (r.first + r.count)
      let s2 := if r.first == q.head then s1.setQ r.desc 7 s.time.toNat else s1
      let s3 := { s2 with
        reservs := s2.reservs.eraseIdx idx
        commits := s2.commits ++ [(r.desc, r.first + r.count, s.time)] }
      .next (match r.owner with
        | some (f, id) => s3.complete1 f id
        | none => s3)

/-! ## qpush -/

/-- The item of a lane. -/
def itemOf (data : List Src) (l : Nat) : List Byte := data.flatMap fun x => leBytes 8 (x.val l).toNat

def qpushNames (sub : BitVec 4) (f : MF) : Names :=
  ⟨regName 40 f.a ++ group 34 f.b.toNat (2 ^ sub.toNat), [(40, f.a.toNat)], f.g⟩

def execQpush (sub : BitVec 4) (f : MF) (s : State) : Host.Outcome State Fault Refusal :=
  issue (.qpush sub f) (qpushNames sub f) s fun c =>
    if c.act.isEmpty then .ok (c.s, .advance)
    else do
      c.ordered false
      let a := c.src 2 f.a 0 0
      let data := c.grp 3 f.b.toNat (2 ^ sub.toNat)
      c.checkLow [a]
      c.checkRows (untagged data)
      let va := (a.val c.low).toNat
      match c.s.queueCheck c.who va 0 sub.toNat with
      | .error (at_, e) => do failLanes kindWrite [⟨c.low, e.code, e.detail, 0, 2, at_, e.host⟩]; .ok (c.s, .advance)
      | .ok (pa, q) => do
        c.granuleCheck [(c.s.place pa, 64)]
        let (grp, s0) := c.s.newId
        if q.space < c.act.length then
          let (_, s1) := (c.unwalk s0 c.act).addOp c.r [.st] (.queue grp) f.la.toNat [] [] []
          .ok (s1.modFibre c.r fun g =>
            (g.modThreads c.act fun t => t.stopAt c.is (.parked (.queue (a.val c.low) grp) (.qpush sub f) c.s.time)).placeRest, .stopped)
        else
          c.granuleCheck (c.s.itemPlaces c.t.ctx q c.act.length)
          let (id, s1) := (s0.cacheAll c.t.ctx [va]).addOp c.r [.st] (.queue grp) f.la.toNat [] [] []
          match s1.reserve c.t.ctx c.core pa q (c.act.map (itemOf data)) (some (c.r, id)) with
          | some s => .ok (s, .advance)
          | none => .error .stall

/-! ## Parked producers -/

/-- A group of threads parked at one instruction: group number, lanes, instruction. -/
structure ParkGroup where
  grp : Nat
  desc : Word
  lanes : List Nat
  i : Instr

def Thread.parkGroup (t : Thread) : Option (Nat × Word × Instr) :=
  match t.st with
  | .parked (.queue d g) i _ => some (g, d, i)
  | .parked (.message g) i _ => some (g, 0, i)
  | _ => none

/-- The parked groups of a fibre that are not frozen, by their lowest lane. -/
def Fibre.parkGroups (f : Fibre) : List ParkGroup :=
  let xs := (List.range f.width).filterMap fun l => if f.frozen l then none else (f.thread l).parkGroup.map fun g => (l, g)
  ((xs.map (·.2.1)).eraseDups).filterMap fun g => (xs.find? (·.2.1 == g)).map fun x =>
    ⟨g, x.2.2.1, (xs.filter (·.2.1 == g)).map (·.1), x.2.2.2⟩

/-- The operation of a parked group ends without effect, and its threads issue their instruction again. -/
def State.unparkAgain (s : State) (r : FibreRef) (lanes : List Nat) (op : Nat) : State :=
  (s.modThreads r lanes fun t => { t with st := .waiting }).modFibre r fun f => { f with ops := f.ops.filter fun (o : Op) => o.id != op }

/-- A parked `qpush` reserves; none when its queue lacks space. -/
def State.unparkQpush (s : State) (r : FibreRef) (t : Team) (f : Fibre) (g : ParkGroup) : Option State :=
  match g.i, f.ops.find? fun (o : Op) => o.kind == .queue g.grp with
  | .qpush sub m, some o =>
    match s.queueCheck ⟨t.ctx, t.coreOf r.fid, t.uid⟩ g.desc.toNat 0 sub.toNat with
    | .error _ => some (s.unparkAgain r g.lanes o.id)
    | .ok (pa, q) =>
      if q.space < g.lanes.length || !(s.ownedOf (s.itemPlaces t.ctx q g.lanes.length)).isEmpty then none
      else
        let row (l j : Nat) : Word := ((t.reg f (m.b.toNat + j)).row l).val
        let item (l : Nat) : List Byte := (List.range (2 ^ sub.toNat)).flatMap fun j => leBytes 8 (row l j).toNat
        (s.reserve t.ctx (t.coreOf r.fid) pa q (g.lanes.map item) (some (r, o.id))).map fun s =>
          s.modThreads r g.lanes (Thread.passOn (qpushNames sub m).codes)
  | _, _ => none

/-- QPUSH_UNPARK: a parked group of the fibre whose queue has space reserves; among several the order is free. -/
def execQpushUnpark (r : FibreRef) (s : State) : Host.Outcome State Fault Refusal :=
  match s.team? r.team, s.fibre? r with
  | some t, some f =>
    let go := f.parkGroups.filterMap fun g => s.unparkQpush r t f g
    match go[Config.choice s.tick % go.length]? with
    | some s' => .next s'
    | none => .fault .notDue
  | _, _ => .fault .notDue

/-! ## qinfo -/

def execQinfoRange (f : SF) (s : State) : Host.Outcome State Fault Refusal :=
  issue (.qinfoRange f) ⟨group 46 f.d.toNat 2, [], f.g⟩ s fun c =>
    let put (s : State) (n v : Nat) : State := c.write s n (c.act.map fun l => (l, rawRow (BitVec.ofNat 64 v))) .uniform
    .ok (put (put c.s f.d.toNat c.t.qrange.1) (f.d.toNat + 1) c.t.qrange.2, .advance)

/-- `qinfo.fill` and `.space`: each lane reads its descriptor in one event. -/
def qinfoInstr (i : Instr) (val : QDesc → Nat) (f : SF) (s : State) : Host.Outcome State Fault Refusal :=
  issue i (sNames f true true) s fun c => do
    c.ordered false
    let a := c.plain 2 f.a.toNat
    let lanes ← c.checkLanes ⟨[a], [], addrOf a none 0, .read, 64, 2⟩
    c.granuleCheck (lanes.map fun (_, pa) => (c.s.place pa, 64))
    let rd ← c.needNow i (lanes.map fun (_, pa) => (pa, 64))
    let rows := lanes.filterMap fun (l, pa) => (rd pa 64).map fun (bs, p) => (l, Row.mk (BitVec.ofNat 64 (val (qdescOf bs))) .raw p)
    .ok (c.write (c.s.cacheAll c.t.ctx (c.act.map (addrOf a none 0))) f.d.toNat rows (oneAddress (addrOf a none 0) c.act), .advance)

def execQinfoFill (f : SF) (s : State) : Host.Outcome State Fault Refusal := qinfoInstr (.qinfoFill f) (fun q => q.commit - q.head) f s
def execQinfoSpace (f : SF) (s : State) : Host.Outcome State Fault Refusal := qinfoInstr (.qinfoSpace f) QDesc.space f s

end Sys2Proof.Machine
end

