-- ==== Sys2Proof/Machine/Raster.lean ====
section
/-! DEFINITION. The cluster rasteriser: `exptri` (R249, R250), the input buffers (R276), clipping, coverage, pixel items (R251, R252), the
edge sampler (R253) and the output queues (R254). -/

namespace Sys2Proof.Machine

/-! ## Polygons (R251) -/

/-- A vertex of the clipped polygon: its screen position in 1/256 pixel, the original vertex it is, and the original edge that leaves
it; an edge made by the clip has none. -/
structure PVert where
  pos : Int × Int
  orig : Option Nat
  edge : Option Nat
deriving DecidableEq, Repr

/-- The point of an edge at z = 0. -/
def V4.cut (a b : V4) : V4 :=
  let t := a.z.div (a.z.sub b.z)
  let f (x y : Frac) : Frac := x.add (t.mul (y.sub x))
  ⟨f a.x b.x, f a.y b.y, ⟨0, 1⟩, f a.w b.w⟩

/-- The triangle clipped against z = 0, in clip space. -/
def clipNear (vs : List V4) : List (V4 × Option Nat × Option Nat) :=
  (List.range 3).flatMap fun k =>
    let a := vs.getD k ⟨⟨0, 1⟩, ⟨0, 1⟩, ⟨0, 1⟩, ⟨0, 1⟩⟩
    let b := vs.getD ((k + 1) % 3) a
    match decide (0 ≤ a.z.num), decide (0 ≤ b.z.num) with
    | true, true => [(a, some k, some k)]
    | true, false => [(a, some k, some k), (a.cut b, none, none)]
    | false, true => [(a.cut b, none, some k)]
    | false, false => []

/-- A free 64-bit value of a triangle whose vertices have no screen positions. -/
def freeAt (tick k : Nat) : Word := Config.freeWord (tick * 2 ^ 40 + k)

/-- The screen polygon. Vertices with w = 0, or with coordinates that are not finite, have no stated position: the whole triangle's
positions are then free. -/
def screenPoly (tick : Nat) (t : Tri) : List PVert :=
  let free : List PVert := (List.range 3).map fun k => ⟨((freeAt tick (2 * k)).toInt, (freeAt tick (2 * k + 1)).toInt), some k, some k⟩
  match fracs? (f32s t.verts) with
  | none => free
  | some l => ((clipNear (v4s l)).mapM fun (p, o, e) => (V4.screen p t.vpw t.vph).map fun x => PVert.mk x o e).getD free

/-- Consecutive vertices. -/
def polyEdges (ps : List PVert) : List (PVert × PVert) :=
  match ps with
  | [] => []
  | p :: rest => List.zip ps (rest ++ [p])

/-- Twice the signed area. -/
def polyArea (ps : List PVert) : Int :=
  ((polyEdges ps).map fun (a, b) => a.pos.1 * b.pos.2 - b.pos.1 * a.pos.2).foldl (· + ·) 0

/-- The segments of a polygon ordered so that its area is positive, without those of length 0. -/
def segments (ps : List PVert) : List ((Int × Int) × (Int × Int)) :=
  ((polyEdges ps).map fun (a, b) => if polyArea ps < 0 then (b.pos, a.pos) else (a.pos, b.pos)).filter fun (a, b) => a != b

def between (a b x : Int) : Bool := min a b ≤ x && x ≤ max a b

/-- A point lies on a segment. -/
def onSeg (s : (Int × Int) × (Int × Int)) (c : Int × Int) : Bool :=
  area2 s.1 s.2 c == 0 && between s.1.1 s.2.1 c.1 && between s.1.2 s.2.2 c.2

/-- A centre on this edge is covered (R251 step 4). -/
def ownsCentre (s : (Int × Int) × (Int × Int)) : Bool := s.2.2 < s.1.2 || (s.2.2 == s.1.2 && s.1.1 < s.2.1)

/-- How a segment winds around a point that it does not hold. -/
def winding (s : (Int × Int) × (Int × Int)) (c : Int × Int) : Int :=
  if s.1.2 ≤ c.2 && c.2 < s.2.2 && 0 < area2 s.1 s.2 c then 1
  else if s.2.2 ≤ c.2 && c.2 < s.1.2 && area2 s.1 s.2 c < 0 then -1
  else 0

/-- Coverage of a centre (R251 steps 3 and 4). -/
def covers (segs : List ((Int × Int) × (Int × Int))) (c : Int × Int) : Bool :=
  let on := segs.filter fun s => onSeg s c
  if on.isEmpty then (segs.map fun s => winding s c).foldl (· + ·) 0 != 0 else on.all ownsCentre

/-! ## Interpolation (R252) -/

/-- The sums of λᵢ zᵢ/wᵢ and of λᵢ/wᵢ at a screen point, with λ1/w1 and λ2/w2, from the original vertices; none where the screen
barycentrics are not defined. -/
def interpolate (t : Tri) (x y : Frac) : Option (Frac × Frac × Frac × Frac) :=
  match fracs? (f32s t.verts) with
  | none => none
  | some l =>
    let vs := v4s l
    match vs.mapM fun p => p.screen t.vpw t.vph with
    | some [a, b, c] =>
      let f (p : Int × Int) : Frac × Frac := (Frac.ofInt p.1, Frac.ofInt p.2)
      let ar (p q r : Frac × Frac) : Frac := ((q.1.sub p.1).mul (r.2.sub p.2)).sub ((r.1.sub p.1).mul (q.2.sub p.2))
      let det := ar (f a) (f b) (f c)
      if det.isZero then none
      else
        let lam := [ar (x, y) (f b) (f c), ar (f a) (x, y) (f c), ar (f a) (f b) (x, y)].map fun k => k.div det
        let q := (List.zip lam vs).map fun (k, p) => k.div p.w
        some (Frac.sum ((List.zip q vs).map fun (k, p) => k.mul p.z), Frac.sum q, q.getD 1 ⟨0, 1⟩, q.getD 2 ⟨0, 1⟩)
    | _ => none

/-- DEPTH, U and V as FP32 bits, and whether the depth exceeds 1. Undefined values are free: all three without barycentrics, U and V where
the sum that divides them is 0 (assumption 54). -/
def shadePoint (tick k : Nat) (t : Tri) (x y : Frac) : (Nat × Nat × Nat) × Bool :=
  let a := freeAt tick (2 * k)
  let b := freeAt tick (2 * k + 1)
  match interpolate t x y with
  | some (d, sum, u, v) =>
    let uv := if sum.isZero then (elem 32 0 b, elem 32 1 b) else ((u.div sum).toF32.1, (v.div sum).toF32.1)
    ((d.toF32.1, uv), (Frac.ofInt 1).lt d)
  | none => ((elem 32 0 a, elem 32 0 b, elem 32 1 b), (FV.fin false 1 0).lt (fmtF32.value (elem 32 0 a)))

def quad (l : List Nat) : List Byte := l.flatMap fun x => leBytes 8 x

/-- Integers from a to b − 1. -/
def intRange (a b : Int) : List Int := (List.range (b - a).toNat).map fun k => a + Int.ofNat k

def minOf (l : List Int) : Int := match l with | [] => 0 | x :: xs => xs.foldl min x
def maxOf (l : List Int) : Int := match l with | [] => -1 | x :: xs => xs.foldl max x

/-- The pixel items of a triangle, in row-major order (R252, R254). -/
def pixelItems (tick : Nat) (t : Tri) : List (List Byte) :=
  let ps := screenPoly tick t
  if polyArea ps == 0 then []
  else
    let segs := segments ps
    let lo (n : List Int) : Int := max 0 (Int.fdiv (minOf n) 256)
    let hi (n : List Int) (m : Nat) : Int := min m (Int.fdiv (maxOf n) 256 + 1)
    let xs := ps.map (·.pos.1)
    let ys := ps.map (·.pos.2)
    (intRange (lo ys) (hi ys t.vph)).flatMap fun j => (intRange (lo xs) (hi xs t.vpw)).filterMap fun i =>
      let c : Int × Int := (256 * i + 128, 256 * j + 128)
      if !covers segs c then none
      else
        let ((d, u, v), far) := shadePoint tick (16 + (j.toNat * 16384 + i.toNat)) t (Frac.ofInt c.1) (Frac.ofInt c.2)
        if far then none else some (quad [i.toNat + j.toNat * 2 ^ 16 + d * 2 ^ 32, u + v * 2 ^ 32, t.payload.toNat, 0])

/-! ## The edge sampler (R253) -/

def insertFrac (x : Frac) : List Frac → List Frac
  | [] => [x]
  | y :: ys => if x.lt y then x :: y :: ys else y :: insertFrac x ys

/-- Positions, from 0 to 1, at which a coordinate that runs from a to b crosses a pixel boundary. -/
def crossings (a b : Int) : List Frac :=
  if a == b then []
  else (intRange (Int.fdiv (min a b) 256 + 1) (Int.fdiv (max a b - 1) 256 + 1)).map fun g => ⟨(256 * g - a) * (b - a).sign, (b - a).natAbs⟩

/-- The parts of an edge within single pixel squares, from its first vertex on. -/
def edgeParts (p q : Int × Int) : List (Frac × Frac) :=
  let ts := (crossings p.1 q.1 ++ crossings p.2 q.2).foldl (fun a x => insertFrac x a) []
  (List.zip (⟨0, 1⟩ :: ts) (ts ++ [⟨1, 1⟩])).filter fun (a, b) => a.lt b

/-- The records of one edge k from p to q; `way` is the sign of the polygon's area. Where the near clip has cut the edge, S is a free
number from 0 to 1 (assumption 54). -/
def edgeRecords (tick : Nat) (t : Tri) (way : Int) (k : Nat) (p q : PVert) : List (List Byte) :=
  let dx := q.pos.1 - p.pos.1
  let dy := q.pos.2 - p.pos.2
  let n2 := dx * dx + dy * dy
  let whole := p.orig == some k && q.orig == some ((k + 1) % 3)
  if n2 == 0 then []
  else (edgeParts p.pos q.pos).zipIdx.filterMap fun ((a, b), n) =>
    let free (m : Nat) : Nat := elem 32 0 (freeAt tick (2 ^ 34 + ((k * 2 ^ 20 + n) * 4 + m)))
    let m := (a.add b).mul ⟨1, 2⟩
    let x := (Frac.ofInt p.pos.1).add (m.mul (Frac.ofInt dx))
    let y := (Frac.ofInt p.pos.2).add (m.mul (Frac.ofInt dy))
    let i := (x.div ⟨256, 1⟩).floor
    let j := (y.div ⟨256, 1⟩).floor
    if i < 0 || j < 0 || (t.vpw : Int) ≤ i || (t.vph : Int) ≤ j then none
    else
      let sPos := if whole then m.toF32.1 else free 0 % (0x3F800000 + 1)
      let nx := if way == 0 then free 1 else ((⟨dy * dy, n2.toNat⟩ : Frac).sqrtF32 (dy * way < 0)).1
      let ny := if way == 0 then free 2 else ((⟨dx * dx, n2.toNat⟩ : Frac).sqrtF32 (0 < dx * way)).1
      let len := (((b.sub a).mul (b.sub a)).mul ⟨n2, 65536⟩).sqrtF32 false
      let ((d, _, _), _) := shadePoint tick (2 ^ 35 + (k * 2 ^ 20 + n)) t x y
      some (quad [k * 2 ^ 16 + j.toNat % 256 * 2 ^ 8 + sPos * 2 ^ 32,
        (x.div ⟨256, 1⟩).toF32.1 + (y.div ⟨256, 1⟩).toF32.1 * 2 ^ 32, d + nx * 2 ^ 32, ny + len.1 * 2 ^ 32, t.payload.toNat,
        i.toNat + j.toNat * 2 ^ 32, 0, 0])

/-- The edge records of a triangle, in order of its edges. -/
def edgeItems (tick : Nat) (t : Tri) : List (List Byte) :=
  let ps := screenPoly tick t
  (polyEdges ps).flatMap fun (p, q) => match p.edge with
    | some k => edgeRecords tick t (polyArea ps).sign k p q
    | none => []

/-! ## Output (R254) -/

/-- Items in reservations of up to 64. -/
def chunked (n : Nat) (items : List (List Byte)) : List (List (List Byte)) :=
  match n with
  | 0 => []
  | n + 1 => if items.isEmpty then [] else items.take 64 :: chunked n (items.drop 64)

def triChunks (tick : Nat) (t : Tri) : List RasterChunk :=
  let mk (desc : Word) (size : Nat) (items : List (List Byte)) : List RasterChunk :=
    (chunked items.length items).map fun x => ⟨t.launch, t.ctx, desc, size, x⟩
  mk t.pixq 2 (pixelItems tick t) ++ (if t.edgeq == 0 then [] else mk t.edgeq 3 (edgeItems tick t))

/-- A cluster error record (R277). -/
def clusterRecord (time : Word) (ctx cluster entry syn unit kind : Nat) : List Word :=
  [time, BitVec.ofNat 64 (ctx % 64 * 2 ^ 51 + cluster % 16 * 2 ^ 47 + cluster / 16 * 2 ^ 46 + entry * 2 ^ 40 + syn * 2 ^ 24 + unit * 2 ^ 20 + kind * 2 ^ 16)]

/-- The rasteriser ends the context of a launch: an error record, then termination with cause 6 (R254, R277). -/
def State.rasterFails (s : State) (cluster ctx entry syn kind : Nat) : State :=
  (s.event 2 false (clusterRecord s.time ctx cluster entry syn 2 kind)).terminate ctx 6 0 0

/-- Two records can be held. -/
def State.canPost2 (s : State) : Bool := s.mbox.held.length < 1023

/-- One chunk: written, waiting for space, or failed. -/
def State.putChunk (s : State) (cluster : Nat) (x : RasterChunk) : Option State :=
  match s.queueCheck ⟨x.ctx, 999, 0⟩ x.desc.toNat (if x.size == 2 then 0 else 1) x.size with
  | .error _ => if s.canPost2 then some (s.rasterFails cluster x.ctx 0 0 2) else none
  | .ok (pa, q) =>
    if q.space < x.items.length || !(s.ownedOf (s.itemPlaces x.ctx q x.items.length)).isEmpty then none else s.reserve x.ctx (128 + cluster / 16) pa q x.items none

/-- The chunks that may come next: the first of each queue. -/
def nextChunks (l : List RasterChunk) : List RasterChunk :=
  match l with
  | [] => []
  | x :: rest => x :: ((rest.find? fun y => y.desc != x.desc).toList)

/-- The rasteriser writes what its queues have room for; the order between the two queues is free. -/
def State.rasterWrite (s : State) (cluster : Nat) : Nat → State
  | 0 => s
  | n + 1 =>
    let go := (nextChunks (s.cluster cluster).raster).filterMap fun x => (s.putChunk cluster x).map fun s' => (x, s')
    match go[Config.choice s.tick % go.length]? with
    | none => s
    | some (x, s') => State.rasterWrite (s'.modCluster cluster fun c => { c with raster := c.raster.erase x }) cluster n

/-- The core whose buffer is next in turn (R276). -/
def State.rasterCore (s : State) (cluster : Nat) : Option Nat :=
  ((List.range 4).map fun k => ((s.cluster cluster).rasterNext + k) % 4).find? fun k => !(s.core (4 * cluster + k)).rasterIn.isEmpty

/-- RASTERISE_TRIANGLE: the rasteriser goes on with its triangle once a queue has room, or takes the next one. -/
def execRasteriseTriangle (cluster : Nat) (s : State) : Host.Outcome State Fault Refusal :=
  let rest := (s.cluster cluster).raster
  if !rest.isEmpty then
    let s' := s.rasterWrite cluster rest.length
    if (s'.cluster cluster).raster == rest then .fault .notDue else .next s'
  else match s.rasterCore cluster with
    | none => .fault .notDue
    | some k =>
      match (s.core (4 * cluster + k)).rasterIn with
      | [] => .fault .notDue
      | t :: ts =>
        let chunks := triChunks s.tick t
        let s1 := (s.modCore (4 * cluster + k) fun c => { c with rasterIn := ts }).modCluster cluster fun c => { c with
          rasterNext := (k + 1) % 4
          raster := chunks }
        .next (s1.rasterWrite cluster chunks.length)

/-! ## exptri and the input buffers (R250, R276) -/

/-- The next waiting triangle of a core enters its buffer; `exptri` completes with its last one. -/
def State.rasterFeed (s : State) (core : Nat) : State :=
  match (s.core core).rasterWait with
  | [] => s
  | b :: rest =>
    match b.tris with
    | [] => (s.modCore core fun c => { c with rasterWait := rest }).complete1 b.owner b.op
    | t :: ts =>
      let s1 := s.modCore core fun c => { c with
        rasterIn := c.rasterIn ++ [t]
        rasterWait := if ts.isEmpty then rest else { b with tris := ts } :: rest }
      if ts.isEmpty then s1.complete1 b.owner b.op else s1

/-- A waiting triangle can enter the buffer: an entry is free, and the rasteriser does not wait for queue space (R254). -/
def State.rasterRoom (s : State) (core : Nat) : Bool :=
  (s.core core).rasterIn.length < 16 && !(s.core core).rasterWait.isEmpty && (s.cluster (core / 4)).raster.isEmpty

/-- RASTER_BUFFER_ENTRY: a waiting triangle enters a freed entry and is accepted. -/
def execRasterBufferEntry (core : Nat) (s : State) : Host.Outcome State Fault Refusal :=
  if s.rasterRoom core then .next (s.rasterFeed core) else .fault .notDue

/-- As many waiting triangles as the buffer takes. -/
def State.rasterFill (s : State) (core : Nat) : Nat → State
  | 0 => s
  | n + 1 => if s.rasterRoom core then (s.rasterFeed core).rasterFill core n else s

/-- Physical pieces of a range that has passed its checks. -/
def State.pieces (s : State) (ctx va n : Nat) : List (Nat × Nat) :=
  (pagesOf va n).map fun p => (s.pa ctx p, min (va + n) ((p / 4096 + 1) * 4096) - p)

/-- A lane's block address passes R149 on each of its pages. -/
def Ctx.blockLane (c : Ctx) (data : List (Src × Option Tag)) (a : Src) (l : Nat) : Except LaneFail Unit :=
  match poisErr a l with
  | some (code, fld, d, i) => .error ⟨l, code, d, i, fld, 0, none⟩
  | none => match laneRowErr data l with
    | some (code, fld, d, i) => .error ⟨l, code, d, i, fld, (a.val l).toNat, none⟩
    | none => match c.s.checkRange c.who .read (a.val l).toNat 32 with
      | .error e => .error ⟨l, e.code, e.detail, 0, 4, (a.val l).toNat, e.host⟩
      | .ok _ => .ok ()

/-- A lane's block and queues: the triangle it submits. -/
def Ctx.triLane (c : Ctx) (rd : Reader) (vs : List Src) (b a : Src) (l : Nat) : Except LaneFail Tri :=
  let va := (a.val l).toNat
  let got := (c.s.pieces c.t.ctx va 32).map fun (pa, n) => (rd pa n).getD ([], false)
  let bs := got.flatMap (·.1)
  let dw2 := dwAt bs 2
  let fail (at_ : Nat) (e : LaneErr) : Except LaneFail Tri := .error ⟨l, e.code, e.detail, 0, 4, at_, e.host⟩
  if got.any (·.2) then fail va (lerr 9 0)
  else if dw2 / 2 ^ 32 != 0 || dwAt bs 3 != 0 || dw2 % 2 ^ 16 == 0 || dw2 / 2 ^ 16 % 2 ^ 16 == 0 then
    .error ⟨l, 1, 28, c.is.word.toNat / 2 ^ 32, 4, va, none⟩
  else match c.s.queueCheck c.who (dwAt bs 0) 0 2 with
    | .error (at_, e) => fail at_ e
    | .ok _ =>
      match (if dwAt bs 1 == 0 then none else match c.s.queueCheck c.who (dwAt bs 1) 1 3 with | .error x => some x | .ok _ => none) with
      | some (at_, e) => fail at_ e
      | none => .ok ⟨c.t.launch, c.t.ctx, valsAt vs l, b.val l, BitVec.ofNat 64 (dwAt bs 0), BitVec.ofNat 64 (dwAt bs 1), dw2 % 2 ^ 16,
          dw2 / 2 ^ 16 % 2 ^ 16⟩

def execExptri (f : VF) (s : State) : Host.Outcome State Fault Refusal :=
  issue (.exptri f) (rNames f 0 6 1 1) s fun c =>
    if c.act.isEmpty then .ok (c.s, .advance)
    else if 16 ≤ (c.s.core c.core).rasterIn.length then .error .stall
    else do
      c.ordered false
      let vs := c.grp 2 f.a.toNat 6
      let b := c.plain 3 f.b.toNat
      let a := c.plain 4 f.c.toNat
      let _ ← gatherLanes kindRead (c.act.map fun l => (l, c.blockLane (asF32 vs ++ untagged [b]) a l))
      let ranges := c.act.flatMap fun l => c.s.pieces c.t.ctx (a.val l).toNat 32
      c.granuleCheck (ranges.map fun (pa, n) => (c.s.place pa, n))
      let rd ← c.needNow (.exptri f) ranges
      let tris ← gatherLanes kindWrite (c.act.map fun l => (l, c.triLane rd vs b a l))
      let (id, s1) := (c.s.cacheAll c.t.ctx (c.act.map fun l => (a.val l).toNat)).addOp c.r [.trav] .raster 15 [] [] []
      let s2 := s1.modCore c.core fun co => { co with rasterWait := co.rasterWait ++ [⟨c.r, id, tris.map (·.2)⟩] }
      .ok (s2.rasterFill c.core 16, .advance)

end Sys2Proof.Machine
end

