-- ==== Sys2Proof/Machine/Message.lean ====
section
/-! DEFINITION. Message queues of a cluster: `msnd`, `mrcv` and their parking (R269 to R274). -/

namespace Sys2Proof.Machine

def noQueue : MsgQ := ⟨none, []⟩
def State.msgQueue (s : State) (cluster q : Nat) : MsgQ := (s.cluster cluster).queues.getD q noQueue
def State.modQueue (s : State) (cluster q : Nat) (f : MsgQ → MsgQ) : State :=
  s.modCluster cluster fun c => { c with queues := c.queues.modify q f }

/-- The `.nb` form, and its predicate (R270). -/
def nbForm (f : VF) : Bool := f.c.getLsbD 3
def msgPred (f : VF) : BitVec 3 := f.c.extractLsb' 0 3

/-- The message that the lanes of a fibre send. -/
def messageOf (t : Team) (f : Fibre) (core : Nat) (lanes : List Nat) (v : VF) : Msg :=
  let data := t.reg f v.a.toNat
  ⟨core % 4, f.fid, ((t.reg f v.b.toNat).row (lanes.headD 0)).val.extractLsb' 0 32, lanes.length, f.width,
    (List.range f.width).map fun i => if lanes.contains i then some (data.row i) else none, false⟩

/-- The append is one event; the port turns to the next core (R274). -/
def State.append (s : State) (core q : Nat) (m : Msg) : State :=
  (s.modQueue (core / 4) q fun x => { x with msgs := x.msgs ++ [m] }).modCluster (core / 4) fun c => { c with sendNext := (core % 4 + 1) % 4 }

/-- The header word of a message (R271). -/
def Msg.header (m : Msg) : Word := BitVec.ofNat 64 (m.tag.toNat * 2 ^ 32 + m.fid % 128 * 2 ^ 16 + m.core * 2 ^ 8 + m.count)

/-- The row that lane i receives (R272, R277). -/
def Msg.rowAt (m : Msg) (i : Nat) : Option Row := (m.rows.getD i none).map fun r => { r with poison := r.poison || m.poison }

def Msg.dataRows (m : Msg) (lanes : List Nat) : List (Nat × Row) := lanes.filterMap fun i => (m.rowAt i).map fun r => (i, r)
def Msg.headRows (m : Msg) (lanes : List Nat) : List (Nat × Row) := lanes.map fun i => (i, ⟨m.header, .raw, m.poison⟩)

/-! ## Parked senders and receivers -/

/-- Parked groups of a fibre with the queue that they wait for. -/
def Fibre.senders (f : Fibre) : List (ParkGroup × Nat × VF) :=
  f.parkGroups.filterMap fun g => match g.i with | .msnd q v => some (g, q.toNat, v) | _ => none
def Fibre.receivers (f : Fibre) : List (ParkGroup × Nat × VF) :=
  f.parkGroups.filterMap fun g => match g.i with | .mrcv q v => some (g, q.toNat, v) | _ => none

/-- A core has a parked `msnd` whose queue has room. -/
def State.sendReady (s : State) (core : Nat) : Bool :=
  s.teams.any fun t => t.fibres.any fun f => t.coreOf f.fid == core &&
    f.senders.any fun x => (s.msgQueue (core / 4) x.2.1).msgs.length < 8

/-- The port serves this core, which has a send pending, next: round robin among all that have one (R274). -/
def State.portTurn (s : State) (core : Nat) : Bool :=
  ((List.range 4).map fun k => core / 4 * 4 + ((s.cluster (core / 4)).sendNext + k) % 4).find? (fun k => k == core || s.sendReady k) == some core

/-! ## msnd and mrcv -/

/-- A queue that the launch's mask does not name (R273). -/
def Ctx.queueForbidden (c : Ctx) (q : Nat) : Bool := !c.lr.qmask.getLsbD q

/-- The active threads park in `msnd` or `mrcv`, under an operation that holds the registers given (R272). -/
def Ctx.parkMessage (c : Ctx) (i : Instr) (regs : List Nat) : State :=
  let (grp, s0) := c.s.newId
  let (_, s1) := s0.addOp c.r [.msg] (.message grp) 15 (regs.map fun n => ⟨n, [], .general⟩) [] []
  s1.modFibre c.r fun g => (g.modThreads c.act fun t => t.stopAt c.is (.parked (.message grp) i c.s.time)).placeRest

def execMsnd (sub : BitVec 4) (f : VF) (s : State) : Host.Outcome State Fault Refusal :=
  issue (.msnd sub f) (rNames f 0 1 1 0) s fun c =>
    if c.act.isEmpty then .ok (c.s, .advance)
    else if c.queueForbidden sub.toNat then c.fault 7 0 9 0
    else do
      c.checkLow [c.plain 3 f.b.toNat]
      let told (s : State) (v : Bool) : State := if nbForm f then s.setPreds c.r (msgPred f) (c.act.map fun l => (l, v)) else s
      if 8 ≤ (c.s.msgQueue (c.core / 4) sub.toNat).msgs.length then
        if nbForm f then .ok (told c.s false, .advance) else .ok (c.parkMessage (.msnd sub f) [], .stopped)
      else if !c.s.portTurn c.core then .error .stall
      else .ok (told (c.s.append c.core sub.toNat (messageOf c.t c.f c.core c.act f)) true, .advance)

def execMrcv (sub : BitVec 4) (f : VF) (s : State) : Host.Outcome State Fault Refusal :=
  let d := f.d.toNat
  issue (.mrcv sub f) ⟨group 46 d 2, [], f.g⟩ s fun c =>
    if c.act.isEmpty then .ok (c.s, .advance)
    else if c.queueForbidden sub.toNat then c.fault 7 0 9 0
    else match (c.s.msgQueue (c.core / 4) sub.toNat).msgs with
      | [] =>
        if nbForm f then
          .ok ((c.write c.s (d + 1) (c.act.map fun l => (l, rawRow 0)) .uniform).setPreds c.r (msgPred f) (c.act.map fun l => (l, false)), .advance)
        else .ok (c.parkMessage (.mrcv sub f) [d, d + 1], .stopped)
      | m :: rest =>
        let s1 := c.s.modQueue (c.core / 4) sub.toNat fun x => { x with msgs := rest }
        let s2 := c.write (c.write s1 d (m.dataRows c.act) .general) (d + 1) (m.headRows c.act) .uniform
        .ok (s2.setPreds c.r (msgPred f) (c.act.map fun l => (l, (m.rowAt l).isSome)), .advance)

/-! ## Unparking -/

/-- MSND_UNPARK: a parked `msnd` of the fibre appends; among several groups the order is free. -/
def execMsndUnpark (r : FibreRef) (s : State) : Host.Outcome State Fault Refusal :=
  match s.team? r.team, s.fibre? r with
  | some t, some f =>
    let core := t.coreOf r.fid
    let go := f.senders.filter fun x => (s.msgQueue (core / 4) x.2.1).msgs.length < 8
    match go[Config.choice s.tick % go.length]? with
    | some (g, q, v) =>
      if !s.portTurn core then .fault .notDue
      else
        let s1 := (s.append core q (messageOf t f core g.lanes v)).modThreads r g.lanes Thread.goOn
        .next (s1.modFibre r fun f => { f with ops := f.ops.filter fun (o : Op) => o.kind != .message g.grp })
    | none => .fault .notDue
  | _, _ => .fault .notDue

/-- The received rows become the held writes of the operation, which is then complete. -/
def receiveOp (m : Msg) (g : ParkGroup) (v : VF) (full : Bool) (o : Op) : Op :=
  if o.kind != .message g.grp then o
  else { o with
    writes := [⟨v.d.toNat, m.dataRows g.lanes, .general⟩, ⟨v.d.toNat + 1, m.headRows g.lanes, if full then .uniform else .general⟩]
    preds := g.lanes.map fun l => ⟨l, msgPred v, (m.rowAt l).isSome⟩
    done := true }

/-- MRCV_UNPARK: a parked `mrcv` of the fibre receives; among several groups the order is free. -/
def execMrcvUnpark (r : FibreRef) (s : State) : Host.Outcome State Fault Refusal :=
  match s.team? r.team, s.fibre? r with
  | some t, some f =>
    let cl := t.coreOf r.fid / 4
    let go := f.receivers.filter fun x => !(s.msgQueue cl x.2.1).msgs.isEmpty
    match go[Config.choice s.tick % go.length]? with
    | some (g, q, v) =>
      match (s.msgQueue cl q).msgs with
      | [] => .fault .notDue
      | m :: rest =>
        let s1 := (s.modQueue cl q fun x => { x with msgs := rest }).modThreads r g.lanes Thread.goOn
        .next (s1.modFibre r fun f => { f with ops := f.ops.map (receiveOp m g v (f.live.all g.lanes.contains)) })
    | none => .fault .notDue
  | _, _ => .fault .notDue

end Sys2Proof.Machine
end

