-- ==== Sys2Proof/Machine/Fabric.lean ====
section
/-! DEFINITION. Engines that work through the fabric: completion counters (R393 to R395), live circuits (R380), `cpy` (R167, R168), `put`
and `get` (R396, R397), triggered operations (R398), and collectives (R399 to R402). -/

namespace Sys2Proof.Machine

/-! ## Completion counters -/

def State.counter (s : State) (ctx die n : Nat) : Counter :=
  (((s.ctx ctx).counters.find? fun x => x.1 == (die, n)).map (·.2)).getD ⟨0, false⟩

/-- An entry of a trigger table becomes due when its counter reaches the threshold, and stays so (R398). -/
def Trig.see (tick ctx n value : Nat) (x : Trig) : Trig :=
  if x.ctx == ctx && x.ctr == n && x.due.isNone && x.thr ≤ value then { x with due := some tick } else x

/-- A change of a counter. -/
def State.setCounter (s : State) (ctx die n : Nat) (c : Counter) : State :=
  (s.modCtx ctx fun x =>
    let rest := x.counters.filter fun y => y.1 != (die, n)
    { x with counters := if c == ⟨0, false⟩ then rest else ((die, n), c) :: rest }).modDie die fun d =>
      { d with trigs := d.trigs.map (Trig.see s.tick ctx n c.value.toNat) }

/-- Additions saturate at 2^48 − 1 (R393). -/
def State.addCounter (s : State) (ctx die n v : Nat) : State :=
  let c := s.counter ctx die n
  s.setCounter ctx die n { c with value := BitVec.ofNat 48 (min (c.value.toNat + v) (2 ^ 48 - 1)) }

def State.errCounter (s : State) (ctx die n : Nat) : State :=
  s.setCounter ctx die n { s.counter ctx die n with err := true }

/-- The die that `cntr` selects: its own, die 0 or die 1 (R394). -/
def Ctx.cntrDie (c : Ctx) (f : SF) : Nat :=
  match f.imm.toNat / 256 % 4 with
  | 0 => c.core / 64
  | k => k - 1

def cntrNum (f : SF) : Nat := f.imm.toNat % 256

def execCntrRead (f : SF) (s : State) : Host.Outcome State Fault Refusal :=
  issue (.cntrRead f) (sNames f true false) s fun c =>
    let x := c.s.counter c.t.ctx (c.cntrDie f) (cntrNum f)
    let v := BitVec.ofNat 64 ((if x.err then 2 ^ 63 else 0) + x.value.toNat)
    .ok (c.write c.s f.d.toNat (c.act.map fun l => (l, ⟨v, .raw, false⟩)) .uniform, .advance)

/-- `cntr.add` and `cntr.set`: the value of the lowest active thread, without a tag check (R395). -/
def cntrWrite (i : Instr) (f : SF) (upd : State → Nat → Nat → Nat → Nat → State) (s : State) : Host.Outcome State Fault Refusal :=
  issue i (sNames f false true) s fun c =>
    if c.act.isEmpty then .ok (c.s, .advance)
    else do
      let a := c.plain 2 f.a.toNat
      c.checkLow [a]
      .ok (upd c.s c.t.ctx (c.cntrDie f) (cntrNum f) ((a.val c.low).toNat % 2 ^ 48), .advance)

def execCntrAdd (f : SF) (s : State) : Host.Outcome State Fault Refusal := cntrWrite (.cntrAdd f) f State.addCounter s
def execCntrSet (f : SF) (s : State) : Host.Outcome State Fault Refusal :=
  cntrWrite (.cntrSet f) f (fun s ctx die n v => s.setCounter ctx die n ⟨BitVec.ofNat 48 v, false⟩) s

/-! ## Live circuits (R378, R380) -/

def calByte (cal : List (Nat × Byte)) (slot port pkg : Nat) : Nat := ((cal.find? (·.1 == (slot * 32 + port) * 64 + pkg)).map (·.2.toNat)).getD 0

/-- The package at the far end of a circuit: V set, CTL clear. -/
def calPeer (b : Nat) : Option Nat := if b / 128 % 2 == 1 && b / 64 % 2 == 0 then some (b % 64) else none

/-- The peer that a package's port is joined to in a slot. -/
def State.peerOf (s : State) (slot port pkg : Nat) : Option Nat := calPeer (calByte s.fab.cal slot port pkg)

def State.port (s : State) (p : Nat) : Port := s.fab.ports.getD p Port.reset

/-- A port of this package is live and joined to a peer: its circuit exists in the slot, the slot is past its guard interval, and neither
end is in blackout (R380, R388). -/
def State.live (s : State) (peer port : Nat) : Bool :=
  !s.fab.guard && s.peerOf s.fab.slot.toNat port s.pkg.toNat == some peer && (s.port port).dark == .live &&
    !s.fab.peerDark.contains (peer, port)

def State.joined (s : State) (peer : Nat) : Bool := (List.range 32).any (s.live peer)

/-- Intermediates for a destination (R378, R380): joined to this package now, and to the destination in this slot or the next. -/
def State.relays (s : State) (dst : Nat) : List Nat :=
  (List.range 64).filter fun k => k != dst && s.joined k && (List.range 32).any fun p =>
    s.peerOf s.fab.slot.toNat p k == some dst || s.peerOf ((s.fab.slot.toNat + 1) % 8) p k == some dst

def State.relayed (s : State) (dst : Nat) : Bool := !(s.relays dst).isEmpty

/-! ## Engine operations -/

def State.modXfer (s : State) (die id : Nat) (g : Xfer → Xfer) : State :=
  s.modDie die fun d => { d with xfers := d.xfers.map fun (x : Xfer) => if x.id == id then g x else x }
def State.xfer? (s : State) (die id : Nat) : Option Xfer := (s.die die).xfers.find? fun (x : Xfer) => x.id == id
def State.dropXfer (s : State) (die id : Nat) : State :=
  s.modDie die fun d => { d with xfers := d.xfers.filter fun (x : Xfer) => x.id != id }

/-- Requests of an operation are unanswered. -/
def State.xferOpen (s : State) (die id : Nat) : Bool :=
  s.fab.reqs.any fun q => match q.xfer with | some r => r.die == die && r.id == id | none => false

/-- Parts of two ranges, cut at every 256-byte line of either, so that none crosses a page (R167, R397). -/
def State.xparts (s : State) (ctx src dst n : Nat) : List XPart :=
  let starts := (List.range (n / 64)).map (64 * ·) |>.filter fun k => k == 0 || (src + k) % 256 == 0 || (dst + k) % 256 == 0
  List.zipWith (fun a b => ⟨s.pa ctx (src + a), s.pa ctx (dst + a), b - a⟩) starts (starts.drop 1 ++ [n])

/-- The home die of a local address (R279, R293). -/
def homeDie (la : Nat) : Nat := if isHost la || la < 0x4000000000 then 0 else 1

def mfLctr (f : MF) : Nat := f.off.toNat / 2 ^ 12
def mfRctr (f : MF) : Nat := f.off.toNat / 2 ^ 4 % 256
def mfLce (f : MF) : Bool := f.off.getLsbD 3
def mfRce (f : MF) : Bool := f.off.getLsbD 2
def mfRly (f : MF) : Bool := f.off.getLsbD 1

/-- Numbers for the writes and increments of a put, one block for each destination package (R397). -/
def State.numberSends (s : State) : List Send → State × List Send
  | [] => (s, [])
  | e :: es =>
    if numbered e.kind then
      let p := pkgOf e.dst
      let (s', es') := State.numberSends (s.takeNums p 1) es
      (s', { e with num := some (s.nextNum p) } :: es')
    else
      let (s', es') := State.numberSends s es
      (s', e :: es')

def State.keyAt (s : State) (ctx pa : Nat) : WKey := (s.importKey ctx pa).getD noKey

/-- What an operation has to send at its issue: reads of a remote source; a put's writes and its increment. -/
def State.firstSends (s : State) (ctx : Nat) (kind : XferKind) (rce : Bool) (rctr dst : Nat) (ps : List XPart) : List Send :=
  let reads := (ps.filter fun p => s.isFar p.src).flatMap fun p =>
    (readCuts p.src p.len).map fun (a, n) => Send.mk .read a (p.dst + (a - p.src)) n none (s.keyAt ctx a) none
  let writes := (ps.filter fun p => !s.isFar p.src && s.isFar p.dst).map fun p => Send.mk .write p.src p.dst p.len none (s.keyAt ctx p.dst) none
  match kind with
  | .put => writes ++ (if rce && s.isFar dst then [⟨.increment (BitVec.ofNat 8 rctr), 0, dst, 8, none, s.keyAt ctx dst, some []⟩] else [])
  | _ => reads

/-- The format pages among the destination. -/
def State.fmtPages (s : State) (ctx va n : Nat) : List Nat := ((pagesOf va n).filterMap fun p => s.fmtBase ctx p).eraseDups

/-- An operation enters its engine: die, issuing core, tags' unit and owner. -/
def State.startXfer (s : State) (id ctx core unit : Nat) (owner : Option (FibreRef × Nat)) (kind : XferKind) (dst src n : Nat) (f : MF)
    (waitsFor : List Nat) : State :=
  let ps := s.xparts ctx src dst n
  let dpa := s.pa ctx dst
  let bare := match kind with | .copy => true | _ => false
  let (s1, todo) := s.numberSends (s.firstSends ctx kind (!bare && mfRce f) (mfRctr f) dpa ps)
  let x : Xfer :=
    { id := id, ctx := ctx, unit := unit, core := core, owner := owner, kind := kind, dst := dpa, count := n
      lctr := mfLctr f, lce := !bare && mfLce f, rctr := mfRctr f, rce := !bare && mfRce f, rly := !bare && mfRly f
      todo := todo
      near := ps.filter fun p => !s.isFar p.src && !s.isFar p.dst
      out := if bare then ps.filter fun p => !s.isFar p.src && s.isFar p.dst else []
      got := [], wrote := false
      keys := (ps.filter fun p => s.isFar p.dst).map fun p => (p.dst, s.keyAt ctx p.dst)
      srcs := [], dsts := [], pages := s.fmtPages ctx dst n, waitsFor := waitsFor
      tag := none, wdog := 0, issued := s.time, failed := false }
  s1.modDie (core / 64) fun d => { d with xfers := d.xfers ++ [x] }

/-- Another engine operation, issued before, holds a granule of this one (R168), or an earlier access that a copy, or a put with release
order, follows is not performed (R168, R397). -/
def State.xferHeld (s : State) (x : Xfer) : Bool :=
  match x.owner with
  | none => false
  | some (r, op) => match s.fibre? r with
    | none => false
    | some f =>
      (f.ops.any fun (o : Op) => o.id == op && o.granules.any fun g =>
        s.teams.any fun t => t.fibres.any fun h => h.ops.any fun p => !p.done && p.id < op && p.granules.contains g) ||
      (f.ops.any fun (o : Op) => !o.done && x.waitsFor.contains o.id)

def Send.addr (e : Send) : Nat := match e.kind with | .read => e.src | _ => e.dst

/-- The next transaction of an operation is sent; none when no tag or no room for a number is free. -/
def State.sendNext (s : State) (die : Nat) (x : Xfer) : Option State :=
  match x.todo with
  | [] => none
  | e :: rest =>
    let data := e.data.getD (if e.kind == .write then (s.readPlace (s.place e.src) e.len).1 else [])
    let w : Waiter := ⟨none, 0, some ⟨die, x.id, e.dst⟩⟩
    let s1 := s.modXfer die x.id fun x => { x with todo := rest }
    if e.num.isSome then s1.requestAs x.unit e.kind e.addr e.len data e.key w e.num
    else s1.request x.unit e.kind e.addr e.len data e.key w

/-- A path is open: bulk transactions wait for a direct port unless they may relay (R380). -/
def State.pathOpen (s : State) (x : Xfer) (addr : Nat) : Bool :=
  x.count < 4096 || s.joined (pkgOf addr) || (x.rly && s.relayed (pkgOf addr))

/-- The key that a remote destination had at issue, page by page. -/
def Xfer.keyOf (x : Xfer) (dst : Nat) : WKey := ((x.keys.find? (·.1 / 4096 == dst / 4096)).map (·.2)).getD noKey

/-- A copy that has read everything begins to write: every source byte has been read before (R167). -/
def State.turnCopy (s : State) (die : Nat) (x : Xfer) : State :=
  match x.kind with
  | .copy =>
    if x.wrote || !x.todo.isEmpty || s.xferOpen die x.id || s.xferHeld x then s
    else
      let near := x.near.foldl (fun (t : State) p => s.movePart t p) s
      let here := x.got.filter fun g => !s.isFar g.1.dst
      let put := (here.foldl (fun (t : State) (p, bs, q) => t.writePlace (t.place p.dst) bs q) near).pagesStored x
        ((x.near ++ here.map (·.1)).map (·.dst))
      let back := (x.got.filter fun g => s.isFar g.1.dst).map fun (p, bs, _) =>
        Send.mk .write p.src p.dst p.len none (x.keyOf p.dst) (some bs)
      let outs := x.out.map fun p =>
        Send.mk .write p.src p.dst p.len none (x.keyOf p.dst) (some (s.readPlace (s.place p.src) p.len).1)
      put.modXfer die x.id fun x => { x with wrote := true, todo := outs ++ back, near := [], out := [], got := [] }
  | _ => s

/-- BULK_SEND: a transaction that waits in an engine is sent; the time at which it leaves is the engine's. -/
def execBulkSend (idx : Nat) (s : State) : Host.Outcome State Fault Refusal :=
  match (s.dies.zipIdx.flatMap fun (d, k) => d.xfers.map fun (x : Xfer) => (k, x))[idx]? with
  | none => .fault .notDue
  | some (die, x0) =>
    let s := s.turnCopy die x0
    match s.xfer? die x0.id with
    | none => .fault .notDue
    | some x => match x.todo with
      | [] => .fault .notDue
      | e :: _ =>
        if s.xferHeld x || !s.pathOpen x e.addr then .fault .notDue
        else match s.sendNext die x with
          | some s' => .next s'
          | none => .fault .notDue

/-! ## Checks of `cpy`, `put`, `get` (R149, R167, R397) -/

/-- Failures of the pages of a range; `near` asks for local pages (protection, DETAIL 9). -/
def State.rangeErrs (s : State) (w : Who) (a : Acc) (src va n : Nat) (near : Bool) : List RangeErr :=
  (pagesOf va n).filterMap fun p => match s.check w a p with
    | .error e => some (src, p, if near && e.code == 0x0F then lerr 7 9 else e)
    | .ok pa => if near && s.isFar pa then some (src, p, lerr 7 9) else none

def State.xferErrs (s : State) (w : Who) (kind : XferKind) (dst src n : Nat) (rce : Bool) : List RangeErr :=
  s.rangeErrs w .read 2 src n (kind == .put) ++ s.rangeErrs w .write 1 dst n (kind == .get) ++
    (if rce && s.isFar (s.pa w.ctx dst) then
      match s.keyCheck w.ctx .atomic (s.pa w.ctx dst) with
      | .error e => [(1, dst, e)]
      | .ok _ => []
    else [])

/-- Operands of a transfer: destination, source and count, checked. -/
def Ctx.xferArgs (c : Ctx) (kind : XferKind) (dst src cnt : Src) (rce : Bool) : Except Exc (Nat × Nat × Nat) := do
  let d := (dst.val c.low).toNat
  let a := (src.val c.low).toNat
  let n := (cnt.val c.low).toNat
  if n == 0 && !(cnt.row c.low).poison then c.illegal 34
  else do
    c.checkLow [dst, src, cnt]
    c.raiseRange kindRead ((if a % 64 == 0 then [] else [(2, a, lerr 5 64)]) ++ (if d % 64 == 0 then [] else [(1, d, lerr 5 64)]) ++
      (if n % 64 == 0 && n ≤ 2 ^ 26 then [] else [(3, 0, lerr 5 64)]))
    c.raiseRange kindWrite (c.s.xferErrs c.who kind d a n rce)
    .ok (d, a, n)

/-- Granules of the core's own scratchpad among the parts of a transfer (R168, R397). -/
def State.ownGranules (s : State) (core : Nat) (ps : List XPart) : List Nat :=
  (ps.flatMap fun p => (s.place p.src).granules p.len ++ (s.place p.dst).granules p.len).filter (fun g => g / 384 == core) |>.eraseDups

/-- Earlier accesses of the fibre that are not performed. -/
def Fibre.unperformed (f : Fibre) : List Nat :=
  (f.ops.filter fun (o : Op) => o.accesses || (!o.done && (match o.kind with | .copy _ _ => true | _ => false))).map (·.id)

/-- The common course of `cpy`, `put` and `get`. -/
def Ctx.transferOp (c : Ctx) (kind : XferKind) (f : MF) (classes : List WClass) (unit : Nat) (dst src cnt : Src) (rce : Bool) : Act := do
  let (d, a, n) ← c.xferArgs kind dst src cnt rce
  let (id, s0) := (c.s.cacheAll c.t.ctx (pagesOf a n ++ pagesOf d n)).newId
  let gs := s0.ownGranules c.core (s0.xparts c.t.ctx a d n)
  let die := c.core / 64
  let (op, s1) := s0.addOp c.r classes (match kind with | .copy => .copy die id | _ => .transfer die id) f.la.toNat [] [] gs
  let after := (match kind with | .copy => true | _ => false) || f.order.getLsbD 1
  .ok (s1.startXfer id c.t.ctx c.core unit (some (c.r, op)) kind d a n f (if after then c.f.unperformed else []), .advance)

def execCpy (f : MF) (s : State) : Host.Outcome State Fault Refusal :=
  issue (.cpy f) (mNames f 1 false 1) s fun c =>
    if c.act.isEmpty then .ok (c.s, .advance)
    else do
      c.ordered false
      c.transferOp .copy f [.st] c.core (c.plain 1 f.d.toNat) (c.src 2 f.a 0 0) (c.src 3 f.b 0 0) false

def putInstr (i : Instr) (kind : XferKind) (f : MF) (s : State) : Host.Outcome State Fault Refusal :=
  issue i ⟨regName 46 f.d ++ regName 40 f.a ++ regName 34 f.b, [], f.g⟩ s fun c =>
    if c.act.isEmpty then .ok (c.s, .advance)
    else do
      c.ordered false
      c.transferOp kind f [.fab] (128 + c.core / 64) (c.plain 1 f.d.toNat) (c.plain 2 f.a.toNat) (c.plain 3 f.b.toNat) (mfRce f)

def execPut (f : MF) (s : State) : Host.Outcome State Fault Refusal := putInstr (.put f) .put f s
def execGet (f : MF) (s : State) : Host.Outcome State Fault Refusal := putInstr (.get f) .get f s

/-! ## Completion -/

/-- The operation leaves its engine, and its fibre's operation is complete: the granules return. -/
def State.endXfer (s : State) (die : Nat) (x : Xfer) : State :=
  let s1 := s.dropXfer die x.id
  match x.owner with
  | some (r, op) => s1.complete1 r op
  | none => s1

/-- Nothing is left to send or to be answered. -/
def State.xferDone (s : State) (die : Nat) (x : Xfer) : Bool := x.todo.isEmpty && !s.xferOpen die x.id && !s.xferHeld x

/-- CPY_COMPLETE: every byte is written or acknowledged. -/
def execCpyComplete (r : FibreRef) (op : Nat) (s : State) : Host.Outcome State Fault Refusal :=
  match (s.fibre? r).bind fun f => f.ops.find? fun (o : Op) => o.id == op with
  | none => .fault .notDue
  | some o => match o.kind with
    | .copy die id => match s.xfer? die id with
      | none => .fault .notDue
      | some x0 =>
        let s := s.turnCopy die x0
        match s.xfer? die id with
        | none => .fault .notDue
        | some x =>
          if x.wrote && s.xferDone die x then .next (s.endXfer die x)
          else .fault .notDue
    | _ => .fault .notDue

/-- The increments of a transfer: the remote counter of a local destination, then the local counter. A failed one makes none (R397,
R403). -/
def State.xferCounts (s : State) (die : Nat) (x : Xfer) : State :=
  if x.failed then s
  else
    let s1 := if x.rce && !s.isFar x.dst then s.addCounter x.ctx (homeDie (localOf x.dst)) x.rctr 1 else s
    if x.lce then s1.addCounter x.ctx die x.lctr 1 else s1

def State.completeXfer (s : State) (die id : Nat) (kind : XferKind) : Host.Outcome State Fault Refusal :=
  match s.xfer? die id with
  | none => .fault .notDue
  | some x =>
    if x.kind == kind && s.xferDone die x then .next (((s.moveNear x).xferCounts die x).endXfer die x)
    else .fault .notDue

/-- PUT_COMPLETE: every write and the increment are acknowledged. -/
def execPutComplete (die id : Nat) (s : State) : Host.Outcome State Fault Refusal := s.completeXfer die id .put
/-- GET_COMPLETE: the last write has landed. -/
def execGetComplete (die id : Nat) (s : State) : Host.Outcome State Fault Refusal := s.completeXfer die id .get

/-! ## Triggered operations (R398) -/

def trigInstr (i : Instr) (isPut : Bool) (f : MF) (s : State) : Host.Outcome State Fault Refusal :=
  issue i ⟨regName 46 f.d ++ regName 40 f.a ++ group 34 f.b.toNat 2, [], f.g⟩ s fun c =>
    if c.act.isEmpty then .ok (c.s, .advance)
    else do
      c.ordered false
      let kind : XferKind := if isPut then .put else .get
      let e := c.plain 3 (f.b.toNat + 1)
      c.checkLow [e]
      let (d, a, n) ← c.xferArgs kind (c.plain 1 f.d.toNat) (c.plain 2 f.a.toNat) (c.plain 3 f.b.toNat) (mfRce f)
      let die := c.core / 64
      if 1024 ≤ (c.s.die die).trigs.length then .error .stall
      else
        let w := (e.val c.low).toNat
        let x : Trig := ⟨c.t.ctx, c.core, w / 2 ^ 48 % 256, w % 2 ^ 48, isPut, f, BitVec.ofNat 64 d, BitVec.ofNat 64 a, n, none⟩
        let armed := Trig.see c.s.tick x.ctx x.ctr (c.s.counter x.ctx die x.ctr).value.toNat x
        .ok ((c.s.cacheAll c.t.ctx (pagesOf a n ++ pagesOf d n)).modDie die fun y => { y with trigs := y.trigs ++ [armed] }, .advance)

def execTrigPut (f : MF) (s : State) : Host.Outcome State Fault Refusal := trigInstr (.trigPut f) true f s
def execTrigGet (f : MF) (s : State) : Host.Outcome State Fault Refusal := trigInstr (.trigGet f) false f s

/-- Entry x of a counter became due before y; `older` tells that it was armed before. -/
def Trig.before (x y : Trig) (older : Bool) : Bool :=
  x.ctx == y.ctx && x.ctr == y.ctr && (match x.due, y.due with
    | some a, some b => a < b || (a == b && older)
    | _, _ => false)

/-- TRIGGER_FIRE: a due entry fires; among the entries of one counter the one due first, and of those that one change made due the one
armed first. Its pages are translated again. -/
def execTriggerFire (die idx : Nat) (s : State) : Host.Outcome State Fault Refusal :=
  match (s.die die).trigs[idx]? with
  | none => .fault .notDue
  | some x =>
    if x.due.isNone || (s.die die).trigs.zipIdx.any (fun (y, k) => y.before x (k < idx)) then .fault .notDue
    else
      let s1 := s.modDie die fun d => { d with trigs := d.trigs.eraseIdx idx }
      let kind : XferKind := if x.isPut then .put else .get
      match firstByStep (s1.xferErrs ⟨x.ctx, 999, 0⟩ kind x.dst.toNat x.src.toNat x.count (mfRce x.f)) with
      | some _ => .next (s1.errCounter x.ctx die x.ctr)
      | none =>
        let (id, s2) := s1.newId
        .next (s2.startXfer id x.ctx x.core (128 + die) none kind x.dst.toNat x.src.toNat x.count x.f [])

/-! ## Collectives (R399 to R402) -/

/-- Fields of a collective descriptor. -/
structure CDesc where
  members : Nat
  root : Nat
  op : Nat
  ty : Nat
  count : Nat

def cdesc (ws : List Word) : CDesc :=
  let w (k : Nat) : Word := ws.getD k 0
  ⟨(w 0).toNat, (w 1).field 10 6, (w 1).field 4 4, (w 1).field 0 4, (w 2).field 0 32⟩

def memberBit (m j : Nat) : Bool := m / 2 ^ j % 2 == 1
def CDesc.ranks (d : CDesc) : List Nat := (List.range 64).filter (memberBit d.members)
def CDesc.width (d : CDesc) : Nat := if d.ty == 1 then 4 else 2

/-- Kinds of collective, by sub. -/
def CDesc.srcBytes (d : CDesc) (kind : Nat) : Nat := (if kind == 1 then d.ranks.length else 1) * d.count * d.width
def CDesc.dstBytes (d : CDesc) : Nat := d.count * d.width

/-- The descriptor is good (R399, R400). A root is named by a broadcast only, an operation by the others only. -/
def collOk (pkg kind : Nat) (ws : List Word) : Bool :=
  let d := cdesc ws
  let w (k : Nat) : Word := ws.getD k 0
  (w 1).field 16 16 == 0 && (w 1).field 8 2 == 0 && (w 2).field 32 32 == 0 && (List.range 5).all (fun k => w (3 + k) == 0) &&
    d.op < 3 && (d.ty == 1 || d.ty == 3) && d.count != 0 && memberBit d.members pkg &&
    (if kind == 2 then memberBit d.members d.root && d.op == 0 else d.root == 0) && d.srcBytes kind ≤ 2 ^ 22

/-- A range as physical pieces, page by page. -/
def State.collPieces (s : State) (ctx va n : Nat) : List (Nat × Nat) :=
  (pagesOf va n).map fun p => (s.pa ctx p, min (va + n) ((p / 4096 + 1) * 4096) - p)

/-- Time limit of a context in ns: WDOG in ms, 0 for 50 (R342). -/
def Context.wdogNs (c : Context) : Nat := (if c.wdog == 0 then 50 else c.wdog) * 1000000

def collInstr (i : Instr) (kind : Nat) (f : MF) (s : State) : Host.Outcome State Fault Refusal :=
  issue i (mNames f 1 false 1) s fun c =>
    if c.act.isEmpty then .ok (c.s, .advance)
    else do
      c.ordered false
      let dst := c.plain 1 f.d.toNat
      let src := c.src 2 f.a 0 0
      let b := c.src 3 f.b 0 0
      c.checkLow [dst, src, b]
      let va := (b.val c.low).toNat
      let pa ← (match c.s.checkAligned c.who .read va 64 with
        | .error e => do c.raiseRange kindRead [(3, va, e)]; .ok 0
        | .ok pa => .ok pa)
      c.granuleCheck [(c.s.place pa, 64)]
      let rd ← c.needNow i [(pa, 64)]
      let (bs, pois) := (rd pa 64).getD ([], false)
      let ws := (List.range 8).map fun k => BitVec.ofNat 64 (dwAt bs k)
      if pois then .error (.fault ⟨9, 3, 0, 0, BitVec.ofNat 64 va, maskOf [c.low]⟩)
      else if !collOk c.s.pkg.toNat kind ws then c.illegal 34
      else do
        let cd := cdesc ws
        let a := (src.val c.low).toNat
        let d := (dst.val c.low).toNat
        let n := cd.srcBytes kind
        let m := cd.dstBytes
        c.raiseRange kindRead ((if a % 64 == 0 then [] else [(2, a, lerr 5 64)]) ++ (if d % 64 == 0 then [] else [(1, d, lerr 5 64)]))
        c.raiseRange kindWrite (c.s.rangeErrs c.who .read 2 a n true ++ c.s.rangeErrs c.who .write 1 d m true)
        let die := c.core / 64
        match c.s.freeTag (128 + die) with
        | none => .error .stall
        | some tag =>
          let (id, s0) := (c.s.cacheAll c.t.ctx (va :: pagesOf a n ++ pagesOf d m)).newId
          let srcs := s0.collPieces c.t.ctx a n
          let dsts := s0.collPieces c.t.ctx d m
          let gs := ((srcs ++ dsts).flatMap fun p => (s0.place p.1).granules p.2).filter (fun g => g / 384 == c.core) |>.eraseDups
          let (op, s1) := s0.addOp c.r [.fab] (.transfer die id) f.la.toNat [] [] gs
          let x : Xfer :=
            { id := id, ctx := c.t.ctx, unit := 128 + die, core := c.core, owner := some (c.r, op), kind := .coll kind ws
              dst := s0.pa c.t.ctx d, count := n, lctr := mfLctr f, lce := mfLce f, rctr := 0, rce := false, rly := false, todo := []
              near := [], out := [], got := [], wrote := false, keys := [], srcs := srcs, dsts := dsts, pages := s0.fmtPages c.t.ctx d m
              waitsFor := [], tag := some tag, wdog := (s0.ctx c.t.ctx).wdogNs, issued := s0.time, failed := false }
          .ok (s1.modDie die fun y => { y with xfers := y.xfers ++ [x] }, .advance)

def execCollAllreduce (f : MF) (s : State) : Host.Outcome State Fault Refusal := collInstr (.collAllreduce f) 0 f s
def execCollRscatter (f : MF) (s : State) : Host.Outcome State Fault Refusal := collInstr (.collRscatter f) 1 f s
def execCollBcast (f : MF) (s : State) : Host.Outcome State Fault Refusal := collInstr (.collBcast f) 2 f s

/-- Comb of R401. -/
def collComb (op a b : Nat) : Nat :=
  match op with
  | 0 => (addRne fmtF32 false a b).1
  | 1 => (roundFV fmtF32 .rne 0 false 0 ((valOf .f32 a).minNum (valOf .f32 b))).1
  | _ => (roundFV fmtF32 .rne 0 false 0 ((valOf .f32 a).maxNum (valOf .f32 b))).1

/-- One level of the tree: neighbours combine, an odd last entry passes on. -/
def collLevel (op : Nat) : List Nat → List Nat
  | a :: b :: rest => collComb op a b :: collLevel op rest
  | l => l

def collTree (op : Nat) : Nat → List Nat → Nat
  | 0, l => l.headD 0
  | n + 1, l => match l with
    | [x] => x
    | l => collTree op n (collLevel op l)

/-- Element e of the result over the members' sources, in rank order. -/
def collElem (d : CDesc) (srcs : List (List Byte)) (e : Nat) : List Byte :=
  let w := d.width
  let xs := srcs.map fun bs => leNat ((bs.drop (w * e)).take w)
  if d.ty == 1 then leBytes 4 (collTree d.op 64 xs)
  else leBytes 2 (roundFV fmtBf16 .rne 0 false 0 (valOf .f32 (collTree d.op 64 (xs.map (2 ^ 16 * ·))))).1

/-- What DST receives at this package (R401). -/
def collResult (pkg kind : Nat) (d : CDesc) (srcs : List (List Byte)) : List Byte :=
  let rank (p : Nat) : Nat := (d.ranks.findIdx? (· == p)).getD 0
  match kind with
  | 0 => (List.range d.count).flatMap (collElem d srcs)
  | 1 => (List.range d.count).flatMap fun k => collElem d srcs (rank pkg * d.count + k)
  | _ => srcs.getD (rank d.root) []

/-- Bytes written over physical pieces in order. -/
def State.writePieces (s : State) (pois : Bool) : List (Nat × Nat) → List Byte → State
  | [], _ => s
  | (pa, n) :: rest, bs => State.writePieces (s.writePlace (s.place pa) (bs.take n) pois) pois rest (bs.drop n)

def State.readPieces (s : State) (l : List (Nat × Nat)) : List Byte × Bool :=
  l.foldl (fun (acc : List Byte × Bool) (pa, n) => let (bs, q) := s.readPlace (s.place pa) n; (acc.1 ++ bs, acc.2 || q)) ([], false)

/-- COLL_COMPLETE: the sources of the other members have come, and DST is written. The whole of SRC is read before. -/
def execCollComplete (die id : Nat) (members : List MemberData) (s : State) : Host.Outcome State Fault Refusal :=
  match s.xfer? die id with
  | none => .fault .notDue
  | some x => match x.kind with
    | .coll kind ws =>
      let d := cdesc ws
      let (own, pois) := s.readPieces x.srcs
      let srcOf (p : Nat) : Option (List Byte) :=
        if p == s.pkg.toNat then some own
        else (members.find? fun (m : MemberData) => m.pkg == p && m.src.length == d.srcBytes kind).map (·.src)
      match d.ranks.mapM srcOf with
      | none => .fault .notDue
      | some srcs =>
        if s.xferHeld x then .fault .notDue
        else if x.failed then .next (s.endXfer die x)
        else
          let bad := pois && (kind != 2 || d.root == s.pkg.toNat)
          let s1 := s.writePieces bad x.dsts (collResult s.pkg.toNat kind d srcs)
          let s2 := x.pages.foldl (fun (s : State) b => s.pageStored b) s1
          .next ((s2.xferCounts die x).endXfer die x)
    | _ => .fault .notDue

/-! ## Faults of outstanding operations (R173, R402, R403) -/

/-- A fault that a fibre takes later. When the fibre has no live thread, its context is terminated with cause 9. -/
def State.raise (s : State) (r : FibreRef) (p : Pending) (gen : BitVec 4) (tag : Nat) : State :=
  match s.team? r.team, s.fibre? r with
  | some t, some f =>
    if f.live.isEmpty then s.terminate t.ctx 9 0x0E (gen.toNat * 1024 + tag)
    else s.modFibre r fun f => { f with pending := f.pending ++ [p] }
  | _, _ => s

/-- The fault of an answer: a timeout names the tag and its generation, a refusal the key (R328, R390). -/
def fabricPend (refused : Bool) (tag : Nat) (gen : BitVec 4) (keyIndex : Nat) (lanes : Word) (due : PendAt) : Pending :=
  if refused then ⟨0x0F, keyIndex, 0, lanes, due⟩ else ⟨0x0E, gen.toNat, tag, lanes, due⟩

/-- Where an operation reports: its wait point, or a clause wait mask that names its class (R403). -/
def Op.reportAt (o : Op) : PendAt :=
  if o.isWindow then .op o.id else match o.classes with | c :: _ => .mask c.bit | [] => .any

/-- An engine operation fails: ERR in its local counter, and a fault for its fibre. Only the first failure reports. -/
def State.failXfer (s : State) (die : Nat) (x : Xfer) (refused : Bool) (tag : Nat) (gen : BitVec 4) (keyIndex : Nat) : State :=
  if x.failed then s
  else
    let s1 := s.modXfer die x.id fun x => { x with failed := true }
    let s2 := if x.lce then s1.errCounter x.ctx die x.lctr else s1
    match x.owner with
    | none => s2
    | some (r, op) => match (s2.fibre? r).bind fun f => f.ops.find? fun (o : Op) => o.id == op with
      | some o => s2.raise r (fabricPend refused tag gen keyIndex (((s2.fibre? r).map fun f => maskOf f.live).getD 0) o.reportAt) gen tag
      | none => s2

/-- The members disagree: equal CID, and a field differs beside this package's bit of MEMBERS (R402). -/
def collDisagrees (pkg : Nat) (mine other : List Word) : Bool :=
  let cid (l : List Word) : Nat := (l.getD 1 0).toNat / 2 ^ 32
  let own : Word := BitVec.ofNat 64 (2 ^ pkg)
  cid mine == cid other && ((mine.getD 0 0) ||| own != (other.getD 0 0) ||| own || mine.drop 1 != other.drop 1)

/-- COLL_TIMEOUT: a member has not issued within WDOG, one has issued with another descriptor, or, seen as no descriptor at all, one of
the others has told that the collective fails. DST is unchanged. -/
def execCollTimeout (die id : Nat) (seen : Option (List (BitVec 64))) (s : State) : Host.Outcome State Fault Refusal :=
  match s.xfer? die id with
  | none => .fault .notDue
  | some x => match x.kind with
    | .coll _ ws =>
      let due := match seen with
        | none => decide (x.wdog < (s.time - x.issued).toNat)
        | some [] => true
        | some other => collDisagrees s.pkg.toNat ws other
      if !due || !s.canPost then .fault .notDue
      else
        let tag := x.tag.getD 0
        let gen := genOf (s.gens x.unit) tag
        .next (((s.failXfer die x false tag gen 0).endXfer die x).bumpGen x.unit tag)
    | _ => .fault .notDue

end Sys2Proof.Machine
end

