-- ==== Sys2Proof/Machine/Float.lean ====
section
/-! DEFINITION. Floating-point arithmetic (R109 to R114) and conversions (R115 to R117). -/

namespace Sys2Proof.Machine

/-! ## Shared operations -/

/-- A one-source floating-point instruction: the tag check of R36, then the order of R64. -/
def fltUn (i : Instr) (late : Bool) (ty : ETy) (f : VF) (op : FV → FV × Fl) (s : State) : Host.Outcome State Fault Refusal :=
  issue i (vNames f true 1) s fun c =>
    if !permWidthOk f c.w then c.illegal 10
    else do
      let a := c.srcA f ty
      c.checkRows [(a, some (tagOf ty))]
      c.deliver late f.d (tagOf ty) (c.shapeOf .plain [a]) fun l =>
        map1 ty (fun x => let (v, g) := op (valOf ty x); finish (fmtOf ty) f.clamp f.scale v g) (a.val l)

/-- A two-source floating-point instruction; `tb` is the tag check of b. -/
def fltBin (i : Instr) (late : Bool) (ty : ETy) (f : VF) (tb : Option Tag) (op : Nat → Nat → FV × Fl) (s : State) : Host.Outcome State Fault Refusal :=
  issue i (vNames f true 2) s fun c =>
    if !permWidthOk f c.w then c.illegal 10
    else do
      let a := c.srcA f ty
      let b := c.srcB f ty
      c.checkRows [(a, some (tagOf ty)), (b, tb)]
      c.deliver late f.d (tagOf ty) (c.shapeOf .plain [a, b]) fun l =>
        map2 ty (fun x y => let (v, g) := op x y; finish (fmtOf ty) f.clamp f.scale v g) (a.val l) (b.val l)

def nvIf (x : FV × Bool) : FV × Fl := (x.1, if x.2 then flNV else 0)

def execFadd (ty : ETy) (f : VF) (s : State) : Host.Outcome State Fault Refusal :=
  fltBin (.fadd ty f) false ty f (some (tagOf ty)) (fun x y => nvIf (sumFV [valOf ty x, valOf ty y])) s
def execFmul (ty : ETy) (f : VF) (s : State) : Host.Outcome State Fault Refusal :=
  fltBin (.fmul ty f) false ty f (some (tagOf ty)) (fun x y => nvIf ((valOf ty x).mul (valOf ty y))) s

/-- `ffma`: rounded once (R109). -/
def execFfma (ty : ETy) (f : VF) (s : State) : Host.Outcome State Fault Refusal :=
  issue (.ffma ty f) (vNames f true 3) s fun c =>
    if !permWidthOk f c.w then c.illegal 10
    else do
      let a := c.srcA f ty
      let b := c.srcB f ty
      let e := c.srcC f ty
      c.checkRows [(a, some (tagOf ty)), (b, some (tagOf ty)), (e, some (tagOf ty))]
      c.finish f.d (tagOf ty) (c.shapeOf .plain [a, b, e]) fun l =>
        map3 ty (fun x y z => finishSum (fmtOf ty) f.clamp f.scale (fmaExact (valOf ty x) (valOf ty y) (valOf ty z)))
          (a.val l) (b.val l) (e.val l)

def execFmin (ty : ETy) (f : VF) (s : State) : Host.Outcome State Fault Refusal :=
  fltBin (.fmin ty f) false ty f (some (tagOf ty)) (fun x y => ((valOf ty x).minNum (valOf ty y), 0)) s
def execFmax (ty : ETy) (f : VF) (s : State) : Host.Outcome State Fault Refusal :=
  fltBin (.fmax ty f) false ty f (some (tagOf ty)) (fun x y => ((valOf ty x).maxNum (valOf ty y), 0)) s
def execFdiv (ty : ETy) (f : VF) (s : State) : Host.Outcome State Fault Refusal :=
  fltBin (.fdiv ty f) true ty f (some (tagOf ty)) (fun x y => fdivV (valOf ty x) (valOf ty y)) s

/-- `fscale`: y is element q of b as a signed integer; its tag is not checked (R109). -/
def fscaleV (x : FV) (y : Int) : FV :=
  match x with
  | .fin n m e => .fin n m (e + clampInt (-4000) 4000 y)
  | x => x

/-- The signed integer type of an element width. -/
def signedOf (t : ETy) : ETy := match t.bits with | 32 => .i32 | 16 => .i16 | _ => .i8

/-- b is a signed integer operand, and so are its modifiers (R77, R109). -/
def execFscale (ty : ETy) (f : VF) (s : State) : Host.Outcome State Fault Refusal :=
  issue (.fscale ty f) (vNames f true 2) s fun c =>
    if !permWidthOk f c.w then c.illegal 10
    else do
      let a := c.srcA f ty
      let b := c.srcB f (signedOf ty)
      c.checkRows [(a, some (tagOf ty)), (b, none)]
      c.finish f.d (tagOf ty) (c.shapeOf .plain [a, b]) fun l =>
        map2 ty (fun x y => finish (fmtOf ty) f.clamp f.scale (fscaleV (valOf ty x) (sext ty.bits y)) 0) (a.val l) (b.val l)

/-- The conditions of R111. -/
def condFlt (cond : Nat) (x y : FV) : Bool :=
  let un := x.isNan || y.isNan
  match cond with
  | 0 => x.eq y
  | 1 => un || !x.eq y
  | 2 => x.lt y
  | 3 => x.lt y || x.eq y
  | 4 => y.lt x
  | 5 => y.lt x || x.eq y
  | 6 => un
  | _ => !un

def execFcmp (ty : ETy) (f : VF) (s : State) : Host.Outcome State Fault Refusal :=
  issue (.fcmp ty f) (vNames f false 2) s fun c =>
    if !permWidthOk f c.w then c.illegal 10
    else do
      let a := c.srcA f ty
      let b := c.srcB f ty
      c.checkRows [(a, some (tagOf ty)), (b, some (tagOf ty))]
      c.finishPred (f.d.extractLsb' 0 3) fun l =>
        condFlt f.c.toNat (valOf ty (elem ty.bits 0 (a.val l))) (valOf ty (elem ty.bits 0 (b.val l)))

def execFclass (ty : ETy) (f : VF) (s : State) : Host.Outcome State Fault Refusal :=
  issue (.fclass ty f) (vNames f true 1) s fun c =>
    if !permWidthOk f c.w then c.illegal 10
    else do
      let a := c.srcA f ty
      c.checkRows [(a, some (tagOf ty))]
      c.finish f.d .raw (c.shapeOf .plain [a]) fun l => map1 ty (fun x => (fclassOf (fmtOf ty) (valOf ty x), 0)) (a.val l)

/-- One half of `fdot`: the exact sum of the products and the addend (R110). -/
def dotHalf (ty : ETy) (xs ys : List Nat) (add : Nat) : FV × Bool :=
  let ps := List.zipWith (fun x y => (valOf ty x).mul (valOf ty y)) xs ys
  let (v, inv) := sumFV (ps.map (·.1) ++ [fmtF32.value add])
  (v, inv || ps.any (·.2))

def execFdot (ty : ETy) (f : VF) (s : State) : Host.Outcome State Fault Refusal :=
  issue (.fdot ty f) (vNames f true 3) s fun c =>
    if !permWidthOk f c.w then c.illegal 10
    else do
      let a := c.srcA f ty
      let b := c.srcB f ty
      let e := c.srcC f .f32
      c.checkRows [(a, some (tagOf ty)), (b, some (tagOf ty)), (e, some .f32)]
      let h := ty.count / 2
      c.finish f.d .f32 (c.shapeOf .plain [a, b, e]) fun l =>
        let xs := elems ty.bits (a.val l)
        let ys := elems ty.bits (b.val l)
        let lo := finishSum fmtF32 f.clamp f.scale (dotHalf ty (xs.take h) (ys.take h) (elem 32 0 (e.val l)))
        let hi := finishSum fmtF32 f.clamp f.scale (dotHalf ty (xs.drop h) (ys.drop h) (elem 32 1 (e.val l)))
        (pack 32 [lo.1, hi.1], lo.2 ||| hi.2)

def execFrcp (ty : ETy) (f : VF) (s : State) : Host.Outcome State Fault Refusal := fltUn (.frcp ty f) true ty f frcpV s
def execFrsq (ty : ETy) (f : VF) (s : State) : Host.Outcome State Fault Refusal := fltUn (.frsq ty f) true ty f frsqV s
def execFsqrt (ty : ETy) (f : VF) (s : State) : Host.Outcome State Fault Refusal := fltUn (.fsqrt ty f) true ty f fsqrtV s
def execFexp2 (ty : ETy) (f : VF) (s : State) : Host.Outcome State Fault Refusal := fltUn (.fexp2 ty f) true ty f fexp2V s
def execFlog2 (ty : ETy) (f : VF) (s : State) : Host.Outcome State Fault Refusal := fltUn (.flog2 ty f) true ty f flog2V s
def execFsin (ty : ETy) (f : VF) (s : State) : Host.Outcome State Fault Refusal := fltUn (.fsin ty f) true ty f fsinV s
def execFcos (ty : ETy) (f : VF) (s : State) : Host.Outcome State Fault Refusal := fltUn (.fcos ty f) true ty f fcosV s

/-- `fround` (R114): the type stands in c; NX when the integral value differs; infinities, zeros and NaN keep their form. -/
def execFround (sub : BitVec 4) (f : VF) (s : State) : Host.Outcome State Fault Refusal :=
  let ty := cvtTy f.c
  fltUn (.fround sub f) false ty f (fun x => let (v, nx) := roundIntegral (.ofCode (sub.toNat % 8)) x; (v, if nx then flNX else 0)) s

/-! ## Conversions -/

/-- One conversion (R59 to R63, R116): bits and flags of an element at destination position j of lane l. -/
def cvtElem (src dst : ETy) (mode : Rnd) (sat : Bool) (dith : Nat) (x : Nat) : Nat × Fl :=
  let v := if src.isFloat then valOf src x else ofInt (intOf src x)
  if dst.isFloat then roundFV (fmtOf dst) mode dith sat 0 v else toIntFV dst mode dith v

/-- The elements a conversion writes: positions and results; the other elements keep their bits (R116). -/
def cvtWord (src dst : ETy) (g : Nat) (cvt : Nat → Nat → Nat × Fl) (a d : Word) : Word × Fl :=
  let ks := src.count
  let kd := dst.count
  if kd ≤ ks then
    let r := (List.range kd).map fun q => cvt (elem src.bits (g * kd + q) a) q
    (pack dst.bits (r.map (·.1)), orAll r)
  else
    let r := (List.range ks).map fun q => cvt (elem src.bits q a) (g * ks + q)
    (pack dst.bits ((elems dst.bits d).zipIdx.map fun (x, j) =>
      if g * ks ≤ j && j < g * ks + ks then (r.getD (j - g * ks) (x, 0)).1 else x), orAll r)

/-- Saturation by sub[3] (R60). -/
def satBit (sub : BitVec 4) : Bool := !sub.getLsbD 3

/-- `fcvt`, `icvt` and `fcvti` (R115, R116). A narrowing conversion reads d; dither uses $dphase without changing it (R58). -/
def convert (i : Instr) (sub : BitVec 4) (f : VF) (s : State) : Host.Outcome State Fault Refusal :=
  let src := cvtTy f.c
  let dst := cvtTy f.b
  let g := f.c.toNat / 16
  issue i (vNames f true 1) s fun c =>
    if !permWidthOk f c.w then c.illegal 10
    else do
      let a := c.srcA f src
      let d := c.plain 1 f.d.toNat
      let narrow := src.count < dst.count
      c.checkRows ((a, if src.isFloat then some (tagOf src) else none) :: if narrow then [(d, none)] else [])
      let sh := c.shapeOf .plain (if narrow then [a, d] else [a])
      c.finish f.d (tagOf dst) sh fun l =>
        cvtWord src dst g (fun x j => cvtElem src dst (.ofCode (sub.toNat % 8)) (satBit sub)
          (dither (l * dst.count + j) c.f.dphase.toNat) x) (a.val l) (d.val l)

def execFcvt (sub : BitVec 4) (f : VF) (s : State) : Host.Outcome State Fault Refusal := convert (.fcvt sub f) sub f s
def execIcvt (sub : BitVec 4) (f : VF) (s : State) : Host.Outcome State Fault Refusal := convert (.icvt sub f) sub f s
def execFcvti (sub : BitVec 4) (f : VF) (s : State) : Host.Outcome State Fault Refusal := convert (.fcvti sub f) sub f s

/-! ## bcvt (R117, R118) -/

/-- The block tag in c[3:0]. -/
def blkTag (f : VF) : Tag := (Tag.ofCode? (f.c.toNat % 16)).getD .mx8
def blkLanes (t : Tag) : Nat := if t == .fb4 then 4 else 16
def blkElem (t : Tag) : ETy := if t == .mx8 then .e4m3 else .e2m1
def scaleTag (t : Tag) : Tag := if t == .fb4 then .e3m5 else .e8m0
def scaleValue (t : Tag) (x : Nat) : FV := if t == .fb4 then e3m5Value x else e8m0Value x

/-- The larger of two magnitudes m × 2^e. -/
def maxMag (x y : Nat × Int) : Nat × Int :=
  if (FV.fin false x.1 x.2).lt (.fin false y.1 y.2) then y else x

/-- The scale of the block of a lane, from the rows of its live lanes as stored (R117). -/
def blockFitScale (t : Tag) (live : List Nat) (a : Src) (lane : Nat) : Nat :=
  let n := blkLanes t
  let vs := ((List.range n).map (lane / n * n + ·)).filter live.contains |>.flatMap fun l => (elems 32 (a.val l)).map fmtF32.value
  let m := vs.foldl (fun acc v => match v with | .fin _ m e => if m == 0 then acc else maxMag acc (m, e) | _ => acc) (0, 0)
  if t == .fb4 then
    if vs.any FV.isInf then 255 else if m.1 == 0 then 0 else fb4Scale m.1 m.2
  else mxScale (vs.any fun v => v.isNan || v.isInf) m.1 m.2 (if t == .mx8 then 8 else 2)

/-- `bcvt.scale` (R118). A poisoned or wrongly tagged row of any live lane of the block is consumed by the active lanes that read it. A
permute of a moves the rows of inactive lanes too, a walker gives 0 in them, and the shape follows R32 (DEDUCED, assumption 126). -/
def execBcvtScale (sub : BitVec 4) (f : VF) (s : State) : Host.Outcome State Fault Refusal :=
  let t := blkTag f
  let n := blkLanes t
  issue (.bcvtScale sub f) (vNames f true 1) s fun c =>
    if !permWidthOk f c.w then c.illegal 10
    else do
      let a := c.srcA f .f32
      let bad := c.act.filterMap fun l =>
        (((List.range n).map (l / n * n + ·)).filter c.live.contains).findSome? fun k =>
          (laneRowErr [(a, some .f32)] k).map fun e => (l, e)
      match bad with
      | (_, code, fld, d, e) :: _ => .error (.fault ⟨code, fld, d, e, 0, maskOf (bad.map (·.1))⟩)
      | [] => c.finish f.d (scaleTag t) (c.shapeOf .plain [a]) fun l => (BitVec.ofNat 64 (blockFitScale t c.live a l), 0)

/-- x / scale, exactly. -/
def divScale (x sc : FV) : FV × Fl :=
  match sc with
  | .nan => (.nan, 0)
  | sc => fdivV x sc

def execBcvtEnc (sub : BitVec 4) (f : VF) (s : State) : Host.Outcome State Fault Refusal :=
  let t := blkTag f
  let el := blkElem t
  issue (.bcvtEnc sub f) (vNames f true 2) s fun c =>
    if !permWidthOk f c.w then c.illegal 10
    else do
      let a := c.srcA f .f32
      let b := c.srcB f .b64
      c.checkRows [(a, some .f32), (b, some (scaleTag t))]
      let cnt := if el == .e4m3 then 8 else 16
      c.finish f.d (tagOf el) (c.shapeOf .plain [a, b]) fun l =>
        let sc := scaleValue t ((b.val l).toNat % 256)
        let r := (List.range 2).map fun j =>
          let (v, _) := divScale (fmtF32.value (elem 32 j (a.val l))) sc
          roundFV (fmtOf el) (.ofCode (sub.toNat % 8)) (dither (l * cnt + j) c.f.dphase.toNat) (satBit sub) 0 v
        (pack el.bits (r.map (·.1)), orAll r)

def execBcvtDec (sub : BitVec 4) (f : VF) (s : State) : Host.Outcome State Fault Refusal :=
  let t := blkTag f
  let el := blkElem t
  issue (.bcvtDec sub f) (vNames f true 2) s fun c =>
    if !permWidthOk f c.w then c.illegal 10
    else do
      let a := c.srcA f .b64
      let b := c.srcB f .b64
      c.checkRows [(a, some (tagOf el)), (b, some (scaleTag t))]
      c.finish f.d .f32 (c.shapeOf .plain [a, b]) fun l =>
        let sc := scaleValue t ((b.val l).toNat % 256)
        let r := (List.range 2).map fun j =>
          roundFV fmtF32 .rne 0 (satBit sub) 0 ((valOf el (elem el.bits j (a.val l))).mul sc).1
        (pack 32 (r.map (·.1)), orAll r)

end Sys2Proof.Machine
end

