-- ==== Sys2Proof/Machine/Port.lean ====
section
/-! DEFINITION. The port controller: live ports and paths (R379, R380), stairs (R382), flow control (R383 to R385), and the flits of the
transactions that it sends. -/

namespace Sys2Proof.Machine

def State.modFab (s : State) (g : Fabric → Fabric) : State := { s with fab := g s.fab }
def State.modPort (s : State) (p : Nat) (g : Port → Port) : State := s.modFab fun f => { f with ports := f.ports.modify p g }

/-! ## Flow control -/

/-- Shares of a sending package, by channel (R383). -/
def share (chan : Nat) : Nat := [1024, 448, 448, 63, 63].getD chan 0

def noCredit (peer : Nat) : Credit := ⟨peer, List.replicate 5 0, List.replicate 5 0, List.replicate 5 0, [0, 0], 0⟩
def State.credit (s : State) (peer : Nat) : Credit := (s.fab.credits.find? (·.peer == peer)).getD (noCredit peer)
def State.setCredit (s : State) (c : Credit) : State :=
  s.modFab fun f => { f with credits := c :: f.credits.filter (·.peer != c.peer) }

/-- Flits that the sender has in flight: (SENT − FREED) mod 2^32 (R384). -/
def Credit.flying (c : Credit) (chan : Nat) : Nat := (c.sent.getD chan 0 - c.freedByPeer.getD chan 0).toNat

/-- The share has room for all flits of a transaction. -/
def Credit.room (c : Credit) (chan n : Nat) : Bool := c.flying chan + n ≤ share chan

/-- Flits of the peer are freed here: a running total, or slots that the peer is still to be told of (R384, R385). -/
def Credit.free (c : Credit) (chan n : Nat) : Credit :=
  if 3 ≤ chan then { c with owed := c.owed.modify (chan - 3) (· + n) } else { c with freedHere := c.freedHere.modify chan (· + BitVec.ofNat 32 n) }

/-- The increments that the next flit to the peer carries, at most 63 each. -/
def Credit.takeOwed (c : Credit) : (BitVec 6 × BitVec 6) × Credit :=
  let a := min (c.owed.getD 0 0) 63
  let b := min (c.owed.getD 1 0) 63
  ((BitVec.ofNat 6 a, BitVec.ofNat 6 b), { c with owed := [c.owed.getD 0 0 - a, c.owed.getD 1 0 - b] })

/-! ## Arrivals at this end of a link -/

/-- A transaction with a good CRC has arrived: its flits are acknowledged (R386), and the increments that they carry count (R385). -/
def State.linkIn (s : State) (h : LinkHdr) (flits : Nat) : State :=
  let s1 := s.modFab fun f => { f with acks := f.acks ++ [(h.via, flits)] }
  if h.incAtomic == 0 && h.incControl == 0 then s1
  else
    let c := s.credit h.via
    s1.setCredit { c with freedByPeer := (c.freedByPeer.modify 3 (· + h.incAtomic.setWidth 32)).modify 4 (· + h.incControl.setWidth 32) }

/-- Its flits leave the landing buffer. -/
def State.linkFree (s : State) (h : LinkHdr) (flits : Nat) : State := s.setCredit ((s.credit h.via).free h.chan flits)

/-! ## Sending -/

/-- All flits of a transaction end before the guard interval of the next slot begins: a slot lasts 2,500 ns, and a flit 4/7 ns (R377,
R379). -/
def State.fits (s : State) (flits : Nat) : Bool := 7 * (s.time - s.fab.slotTime).toNat + 4 * flits ≤ 7 * 2500

/-- The port that joins this package to a peer now, in turn (R380). -/
def State.livePort (s : State) (peer : Nat) : Option Nat :=
  ((List.range 32).map fun k => (s.fab.turn + k) % 32).find? (s.live peer)

/-- A flit leaves on a port to the package at its other end, carries the increments due, and waits in the replay buffer for its
acknowledgement. -/
def State.sendFlit (s : State) (port : Nat) (x : Flit) (counted : Bool) : State :=
  let ((a, b), c) := (s.credit x.hop).takeOwed
  let y := { x with
    incAtomic := a
    incControl := b }
  let c := if counted then { c with sent := c.sent.modify x.chan (· + 1) } else c
  ((s.setCredit c).modPort port fun p => { p with replay := p.replay ++ [y] }).modFab fun f => { f with
    out := f.out ++ [y]
    turn := (port + 1) % 32 }

def State.sendFlits (s : State) (port : Nat) (xs : List Flit) : State := xs.foldl (fun (s : State) x => s.sendFlit port x true) s

/-- Of these packages the one with the most free space on a channel, then the lowest (R380). -/
def State.freest (s : State) (chan : Nat) : List Nat → Option Nat
  | [] => none
  | k :: ks => match s.freest chan ks with
    | none => some k
    | some j => if (s.credit k).flying chan ≤ (s.credit j).flying chan then some k else some j

/-- The next hop of a transaction: the destination, or an intermediate where no live port joins it (R380). -/
def State.hop (s : State) (dst chan : Nat) (relay : Bool) : Option Nat :=
  if s.joined dst then some dst else if relay then s.freest chan (s.relays dst) else none

/-- The port and hop on which all flits of a transaction can leave now: they have space there, and end in time. -/
def State.path (s : State) (dst chan flits : Nat) (relay : Bool) : Option (Nat × Nat) :=
  match s.hop dst chan relay with
  | none => none
  | some k => if s.fits flits && (s.credit k).room chan flits then (s.livePort k).map fun p => (p, k) else none

/-- The flits of a transaction of this package. Their contents are those of the request or answer. -/
def Outgoing.parts (x : Outgoing) (src hop : Nat) : List Flit :=
  (List.range x.flits).map fun k => ⟨src, x.dst, hop, x.chan, x.time, k, k + 1 < x.flits, true, 0, 0, []⟩

/-- A transaction leaves, if it can. -/
def State.trySend (s : State) (x : Outgoing) : State :=
  match s.path x.dst x.chan x.flits x.relay with
  | none => s
  | some (p, k) => (s.modFab fun f => { f with sendQ := f.sendQ.erase x }).sendFlits p (x.parts s.pkg.toNat k)

/-- The port controller sends the transactions that can leave, oldest first; one that waits does not hold up the next (R380). -/
def State.sendWaiting (s : State) : State := s.fab.sendQ.foldl (fun (s : State) x => s.trySend x) s

end Sys2Proof.Machine
end

