-- ==== Sys2Proof/Machine/Remote.lean ====
section
/-! DEFINITION. Answers and timeouts of this package's requests (R173, R391), and requests of other packages: keys (R390), number order
(R387), duplicates (R386) and skip notices. -/

namespace Sys2Proof.Machine

/-! ## What an outstanding read yields -/

/-- The evaluation of a lane of an instruction whose bytes have come. -/
def evalOf (i : Instr) : LaneEval :=
  match i with
  | .boxt f => boxEval f.d.toNat
  | .trit sub f => triEval f.d.toNat (sub.extractLsb' 0 3)
  | .spop f => popEval f.d.toNat (f.c.extractLsb' 0 3)
  | .texLod f => texEval false f.d.toNat
  | .texGrad f => texEval true f.d.toNat
  | .texadjLod f => texadjEval false f.d.toNat
  | .texadjGrad f => texadjEval true f.d.toNat
  | .edgeq f => edgeEval f.d.toNat (f.c.extractLsb' 0 3)
  | i => heldEval i

/-- The predicate of a lane whose read fails (R244, R246). -/
def failPred (i : Instr) : Option (BitVec 3 × Bool) :=
  match i with
  | .trit sub _ => some (sub.extractLsb' 0 3, false)
  | .spop f => some (f.c.extractLsb' 0 3, true)
  | .edgeq f => some (f.c.extractLsb' 0 3, true)
  | _ => none

/-- Whether a stalled instruction keeps poisoned bytes of a failed read; a walker element or a collective's descriptor is read anew. -/
def keepsFailed (i : Instr) : Bool :=
  match i with
  | .texLod _ | .texGrad _ | .texadjLod _ | .texadjGrad _ | .texqSize _ | .texqLod _ | .qinfoFill _ | .qinfoSpace _ => true
  | _ => false

def State.dropOp (s : State) (r : FibreRef) (id : Nat) : State :=
  s.modFibre r fun f => { f with ops := f.ops.filter fun (o : Op) => o.id != id }

/-- Requests of an operation of a fibre are unanswered. -/
def State.opOpen (s : State) (r : FibreRef) (id : Nat) : Bool := s.fab.reqs.any fun q => q.fibre == some (r, id)

def State.finishLoad (s : State) (r : FibreRef) (o : Op) (i : Instr) (lanes : List LaneAcc) (bytes : List (Nat × Byte × Bool)) : State :=
  let rd := s.reader bytes
  let outs := lanes.filterMap fun x => match evalOf i rd x with
    | .ok v => some (x.lane, v)
    | .error _ => none
  let fl := outs.filterMap fun (l, v) => if v.fl == 0 then none else some (l, v.fl)
  let s1 := if fl.isEmpty then s else s.orFlags r fl
  (s1.modOp r o.id fun o => { o with
    kind := .load
    writes := (o.writes.map (HeldWrite.fill outs)).filter fun w => !w.rows.isEmpty
    preds := o.preds ++ outs.flatMap fun (l, v) => v.preds.map fun (p, b) => HeldPred.mk l p b }).complete1 r o.id

/-- A remote read of a parked `wait`: the test holds and the thread goes on, or it stays parked (R161). -/
def State.finishWait (s : State) (r : FibreRef) (f : Fibre) (o : Op) (ty : ETy) (g : MF) (x : LaneAcc) (bytes : List (Nat × Byte × Bool)) : State :=
  let s1 := s.dropOp r o.id
  let n := accBytes ty
  match (f.thread x.lane).st with
  | .parked (.wait _ _ _) (.wait _ _) _ =>
    if f.frozen x.lane then s1
    else match answered bytes x.pa n with
      | some (bs, p) =>
        if waitTest ty (fieldTy g).toNat (leNat bs) ((x.args.getD 0 0).toNat % 2 ^ ty.bits) then s1.waitPass r x.lane g ⟨loadVal ty bs, .raw, p⟩ else s1
      | none => s1
  | _ => s1

/-- Every byte of an outstanding access has come, or has failed. -/
def State.settleAccess (s : State) (r : FibreRef) (id : Nat) : State :=
  match s.team? r.team, s.fibre? r with
  | some t, some f => match f.op? id with
    | some o => match o.kind with
      | .access i lanes bytes =>
        if s.opOpen r id && !(lanes.isEmpty && !o.classes.isEmpty) then s
        else match i, lanes with
          | .wait ty g, x :: _ => s.finishWait r f o ty g x bytes
          | .ldt sub g, _ :: _ =>
            let (s1, k) := s.ldtArrived t (t.coreOf r.fid) sub g lanes (s.reader bytes)
            s1.modOp r id fun o => { o with kind := k }
          | _, [] => if o.classes.isEmpty then s else s.finishLoad r o i [] bytes
          | _, _ => s.finishLoad r o i lanes bytes
      | .remoteStore | .tileRemote _ => if s.opOpen r id then s else s.complete1 r id
      | _ => s
    | none => s
  | _, _ => s

/-! ## Answers -/

def addrBytes (pa : Nat) (bs : List Byte) (q : Bool) : List (Nat × Byte × Bool) := bs.zipIdx.map fun (b, k) => (pa + k, b, q)

/-- Bytes join an outstanding access. -/
def OpKind.withBytes (k : OpKind) (bs : List (Nat × Byte × Bool)) : OpKind :=
  match k with
  | .access i ls old => .access i ls (old ++ bs)
  | k => k

def State.answerFibre (s : State) (r : FibreRef) (id : Nat) (q : OutReq) (data : List Byte) (pois : Bool) : State :=
  let s1 := (s.modOp r id fun o => { o with kind := o.kind.withBytes (addrBytes q.addr data pois) }).settleAccess r id
  match (s.fibre? r).bind fun f => f.op? id with
  | some o => match o.kind with
    | .access _ [] _ => if o.classes.isEmpty then s1.settle r 64 else s1
    | _ => s1
  | none => s1

/-- Bytes that an engine has read: a get writes them, a copy keeps them until everything is read. -/
def State.answerXfer (s : State) (x : XferRef) (q : OutReq) (data : List Byte) (pois : Bool) : State :=
  match s.xfer? x.die x.id with
  | some y => if q.kind != .read || (s.ctx y.ctx).dying then s else match y.kind with
    | .get => (s.writePlace (s.place x.dst) data pois).pagesStored y [x.dst]
    | .copy => s.modXfer x.die x.id fun y => { y with got := y.got ++ [(⟨q.addr, x.dst, q.len⟩, data, pois)] }
    | _ => s
  | none => s

/-! ## Failures (R173) -/

/-- A read of a fibre's operation failed: ranges, whether it was refused, tag, generation and key. -/
structure Failure where
  ranges : List (Nat × Nat)
  lanes : Word
  refused : Bool
  tag : Nat
  gen : BitVec 4
  keyIndex : Nat

def Failure.pend (e : Failure) (lanes : Word) (due : PendAt) : Pending := fabricPend e.refused e.tag e.gen e.keyIndex lanes due

def Op.loadReport (o : Op) : PendAt := if o.isWindow then .op o.id else .any

/-- Lanes whose bytes are among the failed ranges take poisoned rows (R173). -/
def State.failLoad (s : State) (r : FibreRef) (o : Op) (i : Instr) (lanes : List LaneAcc) (bytes : List (Nat × Byte × Bool)) (e : Failure) : State :=
  let rd := s.reader bytes
  let hit (x : LaneAcc) : Bool := match evalOf i rd x with
    | .error rs => rs.any fun (a, n) => e.ranges.any fun (b, m) => overlaps a n b m
    | .ok _ => false
  let gone := (lanes.filter hit).map (·.lane)
  if gone.isEmpty then s
  else
    let s1 := s.modOp r o.id fun o => { o with
      kind := .access i (lanes.filter fun x => !hit x) bytes
      writes := o.writes.map fun (h : HeldWrite) => { h with rows := h.rows.map fun (l, x) => (l, if gone.contains l then poisRow else x) }
      preds := o.preds ++ (match failPred i with | some (p, v) => gone.map fun l => HeldPred.mk l p v | none => []) }
    s1.raise r (e.pend (maskOf gone) o.loadReport) e.gen e.tag

def State.failOp (s : State) (r : FibreRef) (id : Nat) (e : Failure) : State :=
  match s.fibre? r with
  | none => s
  | some f => match f.op? id with
    | none => s
    | some o => match o.kind with
      | .access i lanes bytes =>
        let poisoned := e.ranges.flatMap fun (a, n) => addrBytes a (List.replicate n 0) true
        match i, lanes with
        | .wait _ _, x :: _ =>
          let t := f.thread x.lane
          let s1 := s.dropOp r id
          (match t.st with
            | .parked (.wait _ _ _) _ _ => s1.raise r (e.pend (maskOf [x.lane]) (.wait t.pc (t.clause.getD t.pc))) e.gen e.tag
            | _ => s1)
        | .ldt _ _, _ :: _ =>
          ((s.modOp r id fun o => { o with kind := o.kind.withBytes poisoned }).raise r (e.pend (maskOf f.live) o.loadReport) e.gen e.tag).settleAccess r id
        | .wait _ _, [] => (match f.issue with
            | some is => (s.dropOp r id).raise r (e.pend e.lanes (.wait is.addr is.hdr)) e.gen e.tag
            | none => s.dropOp r id)
        | _, [] =>
          if !o.classes.isEmpty then s
          else
            let s1 := if keepsFailed i then s.modOp r id fun o => { o with kind := o.kind.withBytes poisoned } else s.dropOp r id
            s1.raise r (e.pend (maskOf f.bundle) .any) e.gen e.tag
        | _, _ => (s.failLoad r o i lanes bytes e).settleAccess r id
      | .remoteStore | .tileRemote _ => (s.raise r (e.pend e.lanes .clause) e.gen e.tag).settleAccess r id
      | .queue _ => s.raise r (e.pend e.lanes .clause) e.gen e.tag
      | _ => s

/-- Requests that one waiter shares fail together. -/
def State.failReqs (s : State) (q : OutReq) (qs : List OutReq) (refused : Bool) : State :=
  match q.fibre, q.xfer with
  | some (r, id), _ =>
    s.failOp r id ⟨qs.map fun x => (x.addr, x.len), qs.foldl (fun (a : Word) x => a ||| x.lanes) 0, refused, q.tag, q.gen, q.keyIndex⟩
  | none, some x => match s.xfer? x.die x.id with
    | some y => s.failXfer x.die y refused q.tag q.gen q.keyIndex
    | none => s
  | none, none => s

/-- Whether two requests serve one instruction or one engine operation. -/
def OutReq.sameWaiter (a b : OutReq) : Bool :=
  match a.fibre, a.xfer with
  | some x, _ => b.fibre == some x
  | none, some x => b.fibre.isNone && (match b.xfer with | some y => x.die == y.die && x.id == y.id | none => false)
  | none, none => a.unit == b.unit && a.tag == b.tag

/-- A lost request (R173, R387, R391): a numbered one sends its skip notice, and the tag is freed with a new generation. -/
def State.loseReq (s : State) (q : OutReq) : State :=
  let s1 := { s with fab := { s.fab with
    reqs := s.fab.reqs.filter fun x => !(x.unit == q.unit && x.tag == q.tag)
    skipsSent := s.fab.skipsSent ++ (q.num.toList.map fun n => (q.dst, n)) } }
  s1.bumpGen q.unit q.tag

/-- Requests that one instruction shares fail together, with those of it that were refused before (DEDUCED: R173 gives an instruction one
fault, with a mask of its lanes). -/
def State.failAll (s : State) (q : OutReq) (qs : List OutReq) (refused : Bool) : State :=
  let s1 := { s with fab := { s.fab with refused := s.fab.refused.filter fun x => !q.sameWaiter x } }
  match s.fab.refused.filter q.sameWaiter with
  | b :: bs => s1.failReqs b (b :: bs ++ qs) true
  | [] => s1.failReqs q qs refused

/-- FABRIC_REQUEST_TIMEOUT: a request has had no answer for 100 µs. The late requests of one operation fail together. -/
def execFabricRequestTimeout (unit tag : Nat) (s : State) : Host.Outcome State Fault Refusal :=
  match s.fab.reqs.find? fun q => q.unit == unit && q.tag == tag with
  | none => .fault .notDue
  | some q =>
    let late (x : OutReq) : Bool := 100000 ≤ (s.time - x.issued).toNat
    if !late q || !s.canPost then .fault .notDue
    else
      let qs := s.fab.reqs.filter fun x => late x && q.sameWaiter x
      .next ((qs.foldl (fun (s : State) x => s.loseReq x) s).failAll q qs false)

/-- A header whose device time is more than 400 µs old (R381). -/
def State.tooOld (s : State) (t : Word) : Bool := decide (400000 < (s.time - t).toNat) && decide (t.toNat ≤ s.time.toNat)

/-- An answer frees its tag, or is dropped, counted and reported when its generation is not the tag's current one. The refusals of one
instruction are reported when its last answer has come. -/
def State.takeAnswer (s : State) (a : FabricAnswer) : Host.Outcome State Fault Refusal :=
  if s.tooOld a.time then .next s
  else match s.fab.reqs.find? fun q => q.unit == a.unit && q.tag == a.tag && q.gen == a.gen with
  | none => .next ({ s with fab := { s.fab with stale := s.fab.stale + 1 } }.report 2 0)
  | some q =>
    let kept := s.fab.refused.any q.sameWaiter
    if (a.refused || kept) && !s.canPost then .fault .notDue
    else
      let s1 := { s with fab := { s.fab with reqs := s.fab.reqs.filter fun x => !(x.unit == q.unit && x.tag == q.tag) } }
      let data := (List.range q.len).map fun k => a.data.getD k 0
      .next (match q.fibre, q.xfer with
          | some (r, id), _ =>
            if a.refused && s1.opOpen r id then { s1 with fab := { s1.fab with refused := s1.fab.refused ++ [q] } }
            else if a.refused then s1.failAll q [q] true
            else if kept && !s1.opOpen r id then
              (s1.modOp r id fun o => { o with kind := o.kind.withBytes (addrBytes q.addr data a.poison) }).failAll q [] true
            else s1.answerFibre r id q data a.poison
          | none, some x => if a.refused then s1.failReqs q [q] true else s1.answerXfer x q data a.poison
          | none, none => s1)

/-- FABRIC_RESPONSE_ARRIVAL: the landing space of an answer is freed at once, since its requester holds a buffer for it (R382); a bad CRC
is not acknowledged (R386). -/
def execFabricResponseArrival (a : FabricAnswer) (s : State) : Host.Outcome State Fault Refusal :=
  if !a.link.good then .next s
  else ((s.linkIn a.link (flitsOf a.data.length)).linkFree a.link (flitsOf a.data.length)).takeAnswer a

/-! ## Requests of other packages -/

/-- The number of bytes that the key must cover; an increment names one address. -/
def reqSpan (q : RemoteReq) : Nat := match q.kind with | .increment _ => 1 | _ => q.len

/-- The entry of a registered context that a request matches, with its context (R390). -/
def State.exportKey (s : State) (q : RemoteReq) : Option (Nat × WKey) :=
  ((List.range 64).filter fun c => (s.ctx c).valid).findSome? fun c => (List.range 256).findSome? fun i =>
    ((s.ctx c).keys.find? fun k => k.exp && k.index == i && k.base ≤ q.addr && q.addr + reqSpan q ≤ k.base + k.size &&
      k.sources.getLsbD q.src.toNat && k.key == q.key).map fun k => (c, k)

def reqAcc (q : RemoteReq) : Acc := match q.kind with | .read => .read | .write => .write | _ => .atomic

/-- A transaction of R392: its size, alignment, and a line that it does not cross. -/
def reqGood (pkg : Nat) (q : RemoteReq) : Bool :=
  pkgOf q.addr == pkg && q.addr % 256 + reqSpan q ≤ 256 &&
  match q.kind with
  | .read => [4, 8, 16, 32, 64, 128, 256].contains q.len && q.addr % q.len == 0 && q.num.isNone
  | .write => 1 ≤ q.len && q.data.length == q.len && q.num.isSome
  | .atomic op ty => (q.len == 4 || q.len == 8) && q.addr % q.len == 0 && (ETy.ofCode ty).bits == 8 * q.len && op.toNat < 12 && q.num.isSome
  | .increment _ => q.num.isSome
  | .other => false

def wordsOf (bs : List Byte) : List Word := (List.range (bs.length / 8)).map fun k => BitVec.ofNat 64 (dwAt bs k)

/-- The request is performed at its home: the bytes answered, with poison. -/
def State.performRemote (s : State) (ctx : Nat) (q : RemoteReq) : State × List Byte × Bool :=
  let p := s.place q.addr
  match q.kind with
  | .read => let (bs, po) := s.readPlace p q.len; (s, bs, po)
  | .write => (s.storeAt p q.data false, [], false)
  | .atomic op ty =>
    let (bs, po) := s.readPlace p q.len
    (s.storeAt p (leBytes q.len (atomFold op.toNat (ETy.ofCode ty) (leNat bs) (wordsOf q.data))) po, bs, po)
  | .increment n => (s.addCounter ctx (homeDie (localOf q.addr)) n.toNat 1, [], false)
  | .other => (s, [], false)

def reqAtomic (q : RemoteReq) : Bool := match q.kind with | .atomic _ _ => true | _ => false

/-- An answer, which leaves on stair 2 (R382). -/
def State.answer (s : State) (q : RemoteReq) (refused pois : Bool) (data : List Byte) : State :=
  State.handOver { s with fab := { s.fab with answers := s.fab.answers ++ [⟨q.src, q.tag, q.gen, refused, pois, data⟩] } }
    ⟨q.src.toNat, if reqAtomic q then 3 else 2, flitsOf data.length, s.time, true⟩

/-- Keys and the address decide whether a request is performed or refused (R390). -/
def State.serveRemote (s : State) (q : RemoteReq) : State × List Byte × Bool :=
  match s.exportKey q with
  | some (c, k) =>
    if k.grants (reqAcc q) && (isHbm (localOf q.addr) || isHost (localOf q.addr)) then
      let (s1, bs, po) := s.performRemote c q
      (s1.answer q false po bs, bs, po)
    else (s.answer q true false [], [], false)
  | none => (s.answer q true false [], [], false)

def State.inSeq (s : State) (src : BitVec 6) : InSeq := (s.fab.seqIn.find? (·.src == src)).getD ⟨src, 0, [], [], []⟩
def State.setSeq (s : State) (x : InSeq) : State :=
  { s with fab := { s.fab with seqIn := x :: s.fab.seqIn.filter (·.src != x.src) } }

/-- Numbers skipped ahead pass at once. -/
def InSeq.pass (x : InSeq) : Nat → InSeq
  | 0 => x
  | n + 1 => if x.skips.contains x.next then InSeq.pass { x with next := x.next + 1, skips := x.skips.filter (· != x.next) } n else x

/-- Number n is taken (R387). -/
def InSeq.take (x : InSeq) : InSeq := { x with next := x.next + 1 }.pass x.skips.length

/-- A number already performed or skipped: behind the next one. -/
def InSeq.past (x : InSeq) (n : BitVec 32) : Bool := x.next - n != 0 && (x.next - n).toNat < 2 ^ 31

/-- An atomic stays on record for 400 µs (R386). -/
def InSeq.prune (time : Word) (x : InSeq) : InSeq :=
  { x with answered := x.answered.filter fun a => (time - a.2.1).toNat ≤ 400000 }

/-- An access to an engine-owned granule is held at the bank (R291). -/
def State.remoteHeld (s : State) (q : RemoteReq) : Bool :=
  match q.kind with
  | .increment _ => false
  | _ => ((s.place q.addr).granules q.len).any s.engineOwned

/-- The request is performed now, and its number is taken. -/
def State.takeRemote (s : State) (q : RemoteReq) : State :=
  let x := s.inSeq q.src
  let (s1, bs, po) := s.serveRemote q
  let held := x.held.filter (· != q)
  match q.num with
  | none => s1.setSeq { x with held := held }
  | some n =>
    let done := if reqAtomic q && !bs.isEmpty then [(n, s.time, bs, po)] else []
    s1.setSeq { x with held := held, answered := x.answered ++ done }.take

/-- A copy of a numbered request that was performed or skipped: an atomic on record is answered again (R386). -/
def State.duplicate (s : State) (x : InSeq) (q : RemoteReq) (n : BitVec 32) : State :=
  match x.answered.find? (·.1 == n) with
  | some (_, _, bs, po) => if reqAtomic q then s.answer q false po bs else s
  | none => s

def reqFlits (q : RemoteReq) : Nat := flitsOf q.data.length

/-- A request that came over a good link, or was held, is performed in number order or held. Its landing space is freed unless it stays
held (assumption 118). -/
def State.takeRequest (s0 : State) (q : RemoteReq) : Host.Outcome State Fault Refusal :=
  let x := (s0.inSeq q.src).prune s0.time
  let s := s0.setSeq x
  let known := x.held.contains q
  let gone (t : State) : Host.Outcome State Fault Refusal := .next (t.linkFree q.link (reqFlits q))
  if !known && s.tooOld q.time then gone s
  else if !reqGood s.pkg.toNat q then gone (modErrors (s.answer q true false []))
  else
    let wait : Host.Outcome State Fault Refusal := if known then .fault .notDue else .next (s.setSeq { x with held := x.held ++ [q] })
    match q.num with
    | none => if s.remoteHeld q then wait else gone (s.takeRemote q)
    | some n =>
      if x.past n || x.skips.contains n then gone (s.duplicate x q n)
      else if !known && x.held.any (fun y => y.num == some n) then gone s
      else if n != x.next || s.remoteHeld q then wait
      else gone (s.takeRemote q)
where
  modErrors (s : State) : State := { s with fab := { s.fab with errors := s.fab.errors + 1 } }

/-- REMOTE_REQUEST_ARRIVAL: a request arrives, or one held before is tried again. One with a bad CRC is not acknowledged (R386). -/
def execRemoteRequestArrival (q : RemoteReq) (s : State) : Host.Outcome State Fault Refusal :=
  if (s.inSeq q.src).held.contains q then s.takeRequest q
  else if !q.link.good then .next s
  else (s.linkIn q.link (reqFlits q)).takeRequest q

/-- SKIP_NOTICE_ARRIVAL: the notice takes its number, unless the write came first. -/
def execSkipNoticeArrival (src : BitVec 6) (num : BitVec 32) (s : State) : Host.Outcome State Fault Refusal :=
  let x := s.inSeq src
  if x.past num || x.skips.contains num || x.held.any (fun q => q.num == some num) then .next s
  else if num == x.next then .next (s.setSeq x.take)
  else .next (s.setSeq { x with skips := num :: x.skips })

end Sys2Proof.Machine
end

