-- ==== Sys2Proof/Machine/Link.lean ====
section
/-! DEFINITION. Links: the calendar and its slots (R376 to R379), relaying (R381), updates of flow control (R384, R385), link replay
(R386), spares and blackouts (R388). -/

namespace Sys2Proof.Machine

/-! ## Slots and calendars -/

/-- A port that was switched to a spare is live from its next circuit (R388). -/
def Port.nextCircuit (p : Port) : Port := if p.dark == .switched then { p with dark := .live } else p

/-- SLOT_MARKER: device time is to be corrected by its difference to the marker's (R370), the circuits change, and the guard interval
begins. A calendar takes effect at the start of its cycle. -/
def execSlotMarker (slot : BitVec 3) (time : BitVec 64) (s : State) : Host.Outcome State Fault Refusal :=
  let s1 := s.modFab fun f => { f with
    skew := (time.toNat : Int) - s.time.toNat
    slot := slot
    slotTime := s.time
    guard := true
    ports := f.ports.map Port.nextCircuit }
  .next (match s1.fab.nextCal with
    | some (start, cal) => if slot == 0 && start.toNat ≤ time.toNat then s1.modFab fun f => { f with cal := cal, nextCal := none } else s1
    | none => s1)

/-- GUARD_INTERVAL_END: 40 ns of the slot have passed. -/
def execGuardIntervalEnd (s : State) : Host.Outcome State Fault Refusal :=
  if s.fab.guard && 40 ≤ (s.time - s.fab.slotTime).toNat then .next (s.modFab fun f => { f with guard := false }) else .fault .notDue

/-- Nonzero entries of a table. -/
def calEntries (table : List Byte) : List (Nat × Byte) := (table.zipIdx.filter fun x => x.1 != 0).map fun x => (x.2, x.1)

/-- The package's own entries: 4 control port-slots in a cycle, and at least 4 port-slots for each peer that the table names (R378). -/
def calOk (pkg : Nat) (table : List Byte) : Bool :=
  let es := calEntries table
  let own := es.filter fun e => e.1 % 64 == pkg
  let named (l : List (Nat × Byte)) : List Nat := l.filterMap fun e => calPeer e.2.toNat
  table.length == 16384 && (own.filter fun e => e.2.toNat / 64 == 3).length == 4 &&
    ((named es).eraseDups.filter (· != pkg)).all fun j => 4 ≤ ((named own).filter (· == j)).length

/-- CALENDAR_LOAD: the table is kept for the cycle that the manager names, or rejected and reported. -/
def execCalendarLoad (start : BitVec 64) (table : List (BitVec 8)) (s : State) : Host.Outcome State Fault Refusal :=
  .next (if calOk s.pkg.toNat table then s.modFab fun f => { f with nextCal := some (start, calEntries table) }
    else (s.modFab fun f => { f with calRejects := f.calRejects + 1 }).report 1 0)

/-! ## Spares and blackout -/

/-- A port in which a wavelength or the laser fails: a spare, if there is one, is switched in. Without one it stays dark until package
reset. -/
def Port.fail (p : Port) (laser : Bool) : Port :=
  if p.dark == .dead then p
  else if laser then (if p.lasers == 0 then { p with dark := .dead } else { p with dark := .switching, lasers := p.lasers - 1 })
  else if p.waves == 0 then { p with dark := .dead } else { p with dark := .switching, waves := p.waves - 1 }

/-- PORT_FAILURE: the port goes dark, and its blackout is signalled on the control channel. -/
def execPortFailure (port : Nat) (laser : Bool) (s : State) : Host.Outcome State Fault Refusal :=
  if s.fab.ports.length ≤ port then .fault .notDue else .next ((s.modPort port fun p => p.fail laser).report 3 port)

def execSpareSwitchComplete (port : Nat) (s : State) : Host.Outcome State Fault Refusal :=
  if (s.port port).dark == .switching then .next (s.modPort port fun p => { p with dark := .switched }) else .fault .notDue

/-- BLACKOUT_NOTICE: circuits to a peer's port are not live, or are again. -/
def execBlackoutNotice (peer port : Nat) (live : Bool) (s : State) : Host.Outcome State Fault Refusal :=
  .next (s.modFab fun f =>
    let rest := f.peerDark.filter (· != (peer, port))
    { f with peerDark := if live then rest else (peer, port) :: rest })

/-! ## Flow control -/

/-- CREDIT_UPDATE_SEND: FREED of every running-total channel, every 1,024 flit times on each circuit that joins the pair; it is not
replayed. 1,024 flit times are 586 ns. -/
def execCreditUpdateSend (peer : Nat) (s : State) : Host.Outcome State Fault Refusal :=
  let c := s.credit peer
  match (List.range 32).find? fun p => s.live peer p && s.fits 1 && 586 ≤ (s.time - (s.port p).updated).toNat with
  | none => .fault .notDue
  | some p =>
    let x : Flit := ⟨s.pkg.toNat, peer, peer, 4, s.time, 0, false, true, 0, 0, (c.freedHere.take 3).flatMap fun v => leBytes 4 v.toNat⟩
    .next (((s.setCredit { c with updated := s.time }).modPort p fun q => { q with updated := s.time }).modFab fun f => { f with out := f.out ++ [x] })

/-- CREDIT_UPDATE_RECEIVED: the totals of the latest update stand. -/
def execCreditUpdateReceived (peer : Nat) (freed : List (BitVec 32)) (s : State) : Host.Outcome State Fault Refusal :=
  let c := s.credit peer
  .next (s.setCredit { c with freedByPeer := (List.range 5).map fun k => if k < 3 then freed.getD k (c.freedByPeer.getD k 0) else c.freedByPeer.getD k 0 })

/-- CREDIT_INCREMENT_FLIT: slots were freed and nothing else goes to the peer: an empty flit carries the increments. -/
def execCreditIncrementFlit (peer : Nat) (s : State) : Host.Outcome State Fault Refusal :=
  match s.livePort peer with
  | none => .fault .notDue
  | some p =>
    if (s.credit peer).owed.all (· == 0) || !s.fits 1 then .fault .notDue
    else .next (s.sendFlit p ⟨s.pkg.toNat, peer, peer, 4, s.time, 0, false, true, 0, 0, []⟩ false)

/-! ## Relaying -/

def flitLink (x : Flit) : LinkHdr := ⟨x.src, x.chan, x.good, x.incAtomic, x.incControl⟩

/-- RELAY_FLIT_ARRIVAL: a flit for another package enters the landing buffer, or is discarded and its space freed when it is too old. One
with a bad CRC is not acknowledged (R386); one for this package brings increments alone (R385). -/
def execRelayFlitArrival (x : Flit) (s : State) : Host.Outcome State Fault Refusal :=
  if !x.good then .next s
  else
    let s1 := s.linkIn (flitLink x) 1
    .next (if x.dst == s.pkg.toNat then s1 else if s.tooOld x.time then s1.linkFree (flitLink x) 1
      else s1.modFab fun f => { f with landing := f.landing ++ [x] })

/-- The channel of the second hop (R382). -/
def nextChan (chan : Nat) : Nat := if chan == 0 then 1 else chan

def sameRoute (x y : Flit) : Bool := x.src == y.src && x.dst == y.dst && x.chan == y.chan

/-- The flits up to the last one of the first transaction, if it is there. -/
def firstWhole : List Flit → Option (List Flit)
  | [] => none
  | x :: xs => if x.more then (firstWhole xs).map (x :: ·) else some [x]

/-- The flits of the transaction that begins with x are held, all of them; they end before the next guard interval, and there is space. -/
def State.relayPart (s : State) (idx : Nat) (x : Flit) : Option (List Flit) :=
  match firstWhole ((s.fab.landing.drop idx).filter (sameRoute x)) with
  | none => none
  | some xs => if s.fits xs.length && (s.credit x.dst).room (nextChan x.chan) xs.length then some xs else none

/-- RELAY_FORWARD: the oldest transaction held of a source, destination and stair leaves on a live port to its destination (R379, R381). -/
def execRelayForward (idx : Nat) (s : State) : Host.Outcome State Fault Refusal :=
  match s.fab.landing[idx]? with
  | none => .fault .notDue
  | some x =>
    match s.livePort x.dst, s.relayPart idx x with
    | some p, some xs =>
      if (s.fab.landing.take idx).any (sameRoute x) then .fault .notDue
      else
        let s1 := (s.linkFree (flitLink x) xs.length).modFab fun f => { f with landing := xs.foldl (fun (l : List Flit) y => l.erase y) f.landing }
        .next (s1.sendFlits p (xs.map fun y => { y with
          hop := x.dst
          chan := nextChan x.chan }))
    | _, _ => .fault .notDue

/-! ## Link replay -/

/-- FLIT_ACK: the receiver has acknowledged a flit, which leaves the replay buffer. -/
def execFlitAck (x : Flit) (s : State) : Host.Outcome State Fault Refusal :=
  .next (s.modFab fun f => { f with ports := f.ports.map fun (p : Port) => { p with replay := p.replay.filter (· != x) } })

/-- Where an unacknowledged flit goes again: on its own port while the circuit stands, on the pair's next live circuit otherwise, and from
a port in blackout as a new transaction would (R386, R388). -/
def State.replayOn (s : State) (k : Nat) (x : Flit) : Option (Nat × Nat) :=
  if !s.fits 1 then none
  else if s.live x.hop k then some (k, x.hop)
  else if (s.port k).dark == .live || x.src != s.pkg.toNat then (s.livePort x.hop).map fun p => (p, x.hop)
  else match s.hop x.dst x.chan true with
    | none => none
    | some h => (s.livePort h).map fun p => (p, h)

/-- FLIT_REPLAY: an unacknowledged flit is sent again. -/
def execFlitReplay (idx : Nat) (s : State) : Host.Outcome State Fault Refusal :=
  match (s.fab.ports.zipIdx.flatMap fun (p, k) => p.replay.map fun x => (k, x))[idx]? with
  | none => .fault .notDue
  | some (k, x) =>
    match s.replayOn k x with
    | none => .fault .notDue
    | some (p, h) =>
      let y := { x with hop := h }
      .next (((s.modPort k fun q => { q with replay := q.replay.filter (· != x) }).modPort p fun q =>
        { q with replay := q.replay ++ [y] }).modFab fun f => { f with out := f.out ++ [y] })

end Sys2Proof.Machine
end

