-- ==== Sys2Proof/Machine/Launch.lean ====
section
/-! DEFINITION. The command processor: launch queues (R302, R303), the launch record and its checks (R304, R306), dependences and
prefetch (R307, R308), and the queue manager's age limit and STOP (R313 to R316). -/

namespace Sys2Proof.Machine

/-! ## The launch queue descriptor (R302) -/

/-- Who the command processor accesses memory for: a context, on no core. -/
def cpWho (ctx : Nat) : Who := ⟨ctx, 999, 0⟩

def bytesWords (bs : List Byte) (n : Nat) : List Word := (List.range n).map fun k => BitVec.ofNat 64 (dwAt bs k)

def State.readWords (s : State) (ctx va n : Nat) : List Word := bytesWords (s.loadRange ctx va (8 * n)).1 n

/-- A descriptor as read. -/
structure LQueue where
  base : Nat
  sbase : Nat
  cap : Nat
  head : Nat
  tail : Nat
  en : Bool
  ctx : Nat

def lqueueOf (ws : List Word) : LQueue :=
  let w (k : Nat) : Word := ws.getD k 0
  ⟨(w 0).toNat, (w 1).toNat, (w 2).toNat, (w 3).toNat, (w 4).toNat, (w 5).getLsbD 6, (w 5).field 0 6⟩

/-- The descriptor is well formed, apart from its translation. -/
def lqueueOk (ctx : Nat) (ws : List Word) : Bool :=
  let q := lqueueOf ws
  q.base < 2 ^ 56 && q.base % 256 == 0 && q.sbase < 2 ^ 56 && q.sbase % 16 == 0 && q.cap == 2 ^ q.cap.log2 && 4 ≤ q.cap && q.cap ≤ 65536 &&
    (ws.getD 5 0).toNat < 128 && ws.getD 6 0 == 0 && ws.getD 7 0 == 0 && q.ctx == ctx

/-- A well-formed descriptor that translates with read and write permission. -/
def State.goodQueue (s : State) (ctx va : Nat) : Option LQueue :=
  match s.checkAligned (cpWho ctx) .read va 64, s.check (cpWho ctx) .write va with
  | .ok _, .ok _ =>
    let ws := s.readWords ctx va 8
    if lqueueOk ctx ws then some (lqueueOf ws) else none
  | _, _ => none

/-! ## The launch record (R304) -/

def recWidth (c : Nat) : Nat := [16, 32, 64, 16].getD c 16
def recFps (c : Nat) : Nat := [1, 2, 4, 1].getD c 1

/-- Enabled dependences. -/
def recDeps (w : Nat → Word) : List (Nat × Nat) :=
  ((List.range 4).filter fun k => (w (25 + k)).getLsbD 63).map fun k => ((w (25 + k)).field 48 8, (w (25 + k)).field 0 48)

def recOfWords (w : Nat → Word) : LaunchRec where
  nteam := (w 0).field 32 32 + 1
  ctx := (w 0).field 24 6
  prio := (w 0).field 22 2
  coop := (w 0).getLsbD 21
  pair := (w 0).getLsbD 20
  qbound := (w 0).getLsbD 19
  both := (w 0).getLsbD 18
  width := recWidth ((w 0).field 16 2)
  fps := recFps ((w 0).field 14 2)
  smax := (w 0).field 8 4 + 1
  fibres := (w 0).field 0 8
  code := w 1
  codeSz := (w 2).field 32 32
  entry := (w 2).field 0 32
  tvec := w 3
  shared := (w 4).field 26 6
  priv := (w 4).field 20 6
  rage := (w 4).field 0 17
  carryP := (w 5).extractLsb' 56 7
  carryV := (w 5).extractLsb' 0 56
  carryU := (w 6).extractLsb' 0 56
  scr := (w 7).field 32 9
  stkOff := (w 7).field 0 32
  sb := w 8
  ss := (w 9).field 0 48
  qmask := (w 10).extractLsb' 16 16
  accDyn := (w 10).getLsbD 7
  accN := (w 10).field 0 4
  tbase := w 11
  tquota := (w 12).field 0 48
  tmode := (w 13).field 6 2
  tpolFault := (w 13).getLsbD 5
  ringB := (w 13).field 0 4
  ovfBase := w 14
  ovfN := (w 15).field 0 32
  ranges := (List.range 4).map fun k => (w (16 + 2 * k), (w (17 + 2 * k)).toNat)
  qdesc := (w 24)
  deps := recDeps w
  cen := (w 29).getLsbD 63
  cctr := (w 29).field 48 8
  cinc := (w 29).field 0 48
  npf := (w 30).field 56 8
  pfList := BitVec.ofNat 64 ((w 30).field 0 56)
  ndisc := (w 31).field 56 8
  dList := BitVec.ofNat 64 ((w 31).field 0 56)

/-- The grid of a queue-bound launch reads 0 teams in $nteam (R313). -/
def recFrom (w : Nat → Word) : LaunchRec := let r := recOfWords w; if r.qbound then { r with nteam := 0 } else r

/-- Reserved fields of the record: (doubleword, low bit, width). -/
def recReserved : List (Nat × Nat × Nat) :=
  [(0, 30, 2), (0, 12, 2), (1, 56, 8), (4, 32, 32), (4, 17, 3), (5, 63, 1), (6, 56, 8), (7, 41, 23), (8, 56, 8), (9, 48, 16), (10, 32, 32),
   (10, 8, 8), (10, 4, 3), (11, 56, 8), (12, 48, 16), (13, 8, 56), (13, 4, 1), (14, 56, 8), (15, 32, 32), (24, 56, 8), (25, 56, 7), (26, 56, 7),
   (27, 56, 7), (28, 56, 7), (29, 56, 7)]

def recCodesOk (w : Nat → Word) : Bool :=
  (w 0).field 16 2 != 3 && (w 0).field 14 2 != 3 && (w 13).field 6 2 != 3 && (!(w 0).getLsbD 19 || (w 0).field 32 32 == 0)

/-- The carry set names private registers only, 32 at most; its uniform marks are a subset (R45). -/
def carryOk (r : LaunchRec) : Bool :=
  let named := (List.range 56).filter fun n => r.carryV.getLsbD n
  named.all (fun n => r.shared ≤ n && n < r.shared + r.priv) && named.length ≤ 32 && r.carryU &&& ~~~r.carryV == 0

/-- Bytes of `.scratch`, and of its banks. -/
def LaunchRec.scrBytes (r : LaunchRec) : Nat := r.scr * 4096
def LaunchRec.scrBanks (r : LaunchRec) : Nat := (r.scr + 7) / 8

def scratchOk (r : LaunchRec) : Bool :=
  let half := if r.pair then 2 else 1
  let threads := min r.fibres 64 * r.width
  r.scr ≤ 384 && r.ss % (KiB32 * half) == 0 && r.scrBanks * KiB32 ≤ r.ss / half && r.stkOff % 8 == 0 && r.sb.toNat % 65536 == 0 &&
    (r.stkOff == 0 || r.stkOff + 256 * threads ≤ r.scrBytes)

/-- Limits and alignments of R304 and R306. -/
def recLimitsOk (r : LaunchRec) : Bool :=
  1 ≤ r.fibres && r.fibres ≤ 128 && r.fibres % r.fps == 0 && (r.fibres ≤ 64 || r.pair) && 64 ≤ r.rage && r.rage ≤ 65536 &&
    r.shared ≤ 48 && r.shared % 4 == 0 && 8 ≤ r.priv && r.priv ≤ 56 && r.priv % 4 == 0 && r.shared + r.priv ≤ 56 &&
    r.code.toNat % 4096 == 0 && r.codeSz % 8 == 0 && r.entry % 8 == 0 && r.entry < r.codeSz && carryOk r && scratchOk r &&
    r.accN ≤ 8 && (!r.accDyn || r.accN == 0) && r.tbase.toNat % 4096 == 0 && r.tquota % 4096 == 0 &&
    (if r.tquota == 0 then r.ringB == 0 else 1 ≤ r.ringB && r.ringB ≤ 8) && r.ovfBase.toNat % 64 == 0 &&
    r.pfList.toNat % 16 == 0 && r.dList.toNat % 16 == 0

/-- List entries (base, bytes) that can be read, in order; none for one that cannot. -/
def State.listEntries (s : State) (ctx : Nat) (va : Word) (n : Nat) : List (Option (Nat × Nat)) :=
  (List.range n).map fun k =>
    match s.checkRange (cpWho ctx) .read (va.toNat + 16 * k) 16 with
    | .ok _ => let ws := s.readWords ctx (va.toNat + 16 * k) 2; some ((ws.getD 0 0).toNat, (ws.getD 1 0).toNat)
    | .error _ => none

/-- A discard entry is aligned to 64 bytes in base and length. -/
def State.discardsOk (s : State) (r : LaunchRec) : Bool :=
  (s.listEntries r.ctx r.dList r.ndisc).all fun e => match e with | some (a, n) => a % 64 == 0 && n % 64 == 0 | none => true

/-- The shader queue of a bound launch: KIND 0, KERNEL its record (R313). -/
def State.boundQueue? (s : State) (r : LaunchRec) (rec_ : Nat) : Option (Nat × QDesc) :=
  match s.checkAligned (cpWho r.ctx) .write r.qdesc.toNat 64 with
  | .ok pa =>
    let q := s.qdesc pa
    if q.kind == 0 && q.kernel == rec_ then some (pa, q) else none
  | .error _ => none

/-- A launch bound to the shader queue at an address. -/
def State.bindsQueue (s : State) (pa : Nat) (l : Launch) : Bool :=
  l.lrec.qbound && l.stage != .complete && s.pa l.lrec.ctx l.lrec.qdesc.toNat == pa

/-- DISP and the consumed ranges of a bound queue stand with every launch bound to it: a later one takes those of the first (R313). -/
def State.bindQueue (s : State) (l : Launch) (pa head : Nat) : Launch :=
  match s.launches.find? (s.bindsQueue pa) with
  | some k => { l with
      disp := k.disp
      consumed := k.consumed }
  | none => { l with disp := head }

/-! ## What a team needs (R19, R180 to R182, R266) -/

def LaunchRec.slotBytes (r : LaunchRec) : Nat := r.width * 8 * (r.shared + r.fps * r.priv)
def LaunchRec.shareBanks (r : LaunchRec) : Nat := (r.smax * r.slotBytes + KiB32 - 1) / KiB32
/-- Fibres of a team on the leader's core (0) or the follower's (1). -/
def LaunchRec.fibresOn (r : LaunchRec) (rel : Nat) : Nat := if rel == 0 then min r.fibres 64 else r.fibres - 64
def LaunchRec.slotsOn (r : LaunchRec) (rel : Nat) : Nat := r.fibresOn rel / r.fps
/-- FIFO banks of the tape ring: a team has one ring, on its leader's core. -/
def LaunchRec.ringOn (r : LaunchRec) (rel : Nat) : Nat := if rel == 0 then r.ringB else 0
def LaunchRec.rels (r : LaunchRec) : List Nat := if r.pair then [0, 1] else [0]

/-- One team fits an empty core or pair. -/
def LaunchRec.fitsEmpty (r : LaunchRec) : Bool :=
  r.rels.all fun k => r.slotsOn k ≤ r.smax &&
    (if r.fibresOn k == 0 then 0 else r.shareBanks) ≤ 44 && (if r.fibresOn k == 0 then 0 else r.shareBanks) + r.scrBanks + r.ringOn k ≤ 46

/-- Teams that an empty core or pair holds at once. -/
def LaunchRec.teamsPerPlace (r : LaunchRec) : Nat :=
  let per (k : Nat) : List Nat :=
    (if r.slotsOn k == 0 then [] else [r.smax / r.slotsOn k]) ++ (if r.ringOn k == 0 then [] else [8 / r.ringOn k]) ++
      (if r.accN == 0 then [] else [8 / r.accN]) ++
      (if r.scrBanks + r.ringOn k == 0 then [] else [(46 - if r.fibresOn k == 0 then 0 else r.shareBanks) / (r.scrBanks + r.ringOn k)])
  (r.rels.flatMap per).foldl min 16

/-- The whole grid fits on the cores that the launch may use (R310). -/
def LaunchRec.gridFits (r : LaunchRec) : Bool :=
  r.nteam ≤ r.teamsPerPlace * ((if r.both then 128 else 64) / (if r.pair then 2 else 1))

/-- A tape area was recorded by a launch of other dimensions (R212). -/
def State.tapeMismatch (s : State) (r : LaunchRec) : Bool :=
  r.tquota != 0 && r.tmode != 0 && (match s.area? r with
    | some a => a.nteam != 0 && (a.nteam != r.nteam || a.perTeam != r.fibres * r.width)
    | none => false)

/-- The refusal code of a record, if it is refused (R306). -/
def State.refusal (s : State) (ctx recVa : Nat) (w : Nat → Word) : Option Nat :=
  let r := recFrom w
  if (recReserved.any fun (d, lo, n) => (w d).field lo n != 0) || !recCodesOk w || !recLimitsOk r || r.ctx != ctx || !(s.ctx ctx).valid ||
    !s.discardsOk r || (r.qbound && (s.boundQueue? r recVa).isNone) then some 0x10
  else if s.tapeMismatch r then some 0x13
  else if !r.fitsEmpty then some 0x12
  else if r.coop && !r.gridFits then some 0x11
  else none

/-! ## Taking records (R303) -/

/-- The tape area of an admitted launch exists; a recording launch sets its dimensions (R212). -/
def State.openArea (s : State) (r : LaunchRec) : State :=
  if r.tquota == 0 then s
  else match s.area? r with
    | some a => s.putArea (if r.tmode == 1 then { a with quota := r.tquota } else { a with
        quota := r.tquota
        nteam := r.nteam
        perTeam := r.fibres * r.width })
    | none => { s with areas := ⟨r.ctx, r.tbase, r.tquota, false, if r.tmode == 1 then 0 else r.nteam, r.fibres * r.width, [], []⟩ :: s.areas }

def State.admittedOn (s : State) (die : Nat) : Nat := (s.launches.filter fun l => l.die == die && l.stage != .complete).length

/-- LAUNCH_RECORD_TAKE: the next record of a live queue is read and HEAD stored, and the record is admitted or refused. A software store to
HEAD, as to every field of a structure that lies in memory, is performed and counts (R7, R305; DEDUCED, assumption 124). -/
def execLaunchRecordTake (die queue : Nat) (s : State) : Host.Outcome State Fault Refusal :=
  match (s.die die).queues.getD queue none with
  | none => .fault .notDue
  | some reg =>
    if !reg.enabled || 64 ≤ s.admittedOn die then .fault .notDue
    else match s.goodQueue reg.ctx reg.desc.toNat with
      | none => .fault .notDue
      | some q =>
        let recVa := q.base + q.head % q.cap * 256
        let stat := q.sbase + q.head % q.cap * 16
        if !q.en || q.tail ≤ q.head then .fault .notDue
        else match s.check (cpWho reg.ctx) .read recVa, s.check (cpWho reg.ctx) .write stat with
          | .ok _, .ok _ =>
            let ws := s.readWords reg.ctx recVa 32
            let w (k : Nat) : Word := ws.getD k 0
            let s1 := s.store reg.ctx (reg.desc.toNat + 24) (leBytes 8 (q.head + 1)) false
            let (id, s2) := s1.newId
            let l : Launch := ⟨id, die, queue, q.head, BitVec.ofNat 64 recVa, BitVec.ofNat 64 stat, { recFrom w with ctx := reg.ctx }, .waiting, 0, 0,
              false, false, 0, false, [], []⟩
            match s.refusal reg.ctx recVa w with
            | some code => .next (s2.writeStatus l code)
            | none =>
              let l := match (if l.lrec.qbound then s.boundQueue? l.lrec recVa else none) with
                | some (pa, d) => s.bindQueue l pa d.head
                | none => l
              .next (({ s2 with launches := s2.launches ++ [l] }.openArea l.lrec).writeStatus l 1)
          | _, _ => .fault .notDue

/-! ## Dependences and prefetch (R307, R308) -/

def State.depsMet (s : State) (l : Launch) : Bool :=
  l.lrec.deps.all fun (n, thr) => thr ≤ (s.counter l.lrec.ctx l.die n).value.toNat

/-- A prefetch entry whose list place or range fails is skipped. -/
def State.prefetchSkips (s : State) (l : Launch) : Bool :=
  (s.listEntries l.lrec.ctx l.lrec.pfList l.lrec.npf).any fun e => match e with
    | none => true
    | some (a, n) => match s.checkRange (cpWho l.lrec.ctx) .read a n with | .ok _ => false | .error _ => true

/-- LAUNCH_DEPENDENCE_MET: every enabled dependence holds; the prefetch ranges are brought in, and teams may be placed. -/
def execLaunchDependenceMet (launch : Nat) (s : State) : Host.Outcome State Fault Refusal :=
  match s.launch? launch with
  | none => .fault .notDue
  | some l =>
    if l.stage != .waiting || !s.depsMet l then .fault .notDue
    else
      let skip := s.prefetchSkips l
      let s1 := s.modLaunch launch fun l => { l with stage := .ready, pskip := skip }
      .next (if skip then s1.updateStatus { l with pskip := true } else s1)

/-! ## The queue manager (R313 to R316) -/

/-- The bound queue of a launch as its descriptor stands. -/
def State.queueOf (s : State) (l : Launch) : QDesc := s.qdesc (s.pa l.lrec.ctx l.lrec.qdesc.toNat)
def State.queuePa (s : State) (l : Launch) : Nat := s.pa l.lrec.ctx l.lrec.qdesc.toNat

/-- Item DISP of a bound queue was committed more than AGELIMIT µs ago (R314). -/
def State.queueAged (s : State) (l : Launch) : Bool :=
  l.disp < (s.queueOf l).commit && (match s.commitTime (s.queuePa l) l.disp with
    | none => false
    | some t => decide ((s.queueOf l).ageLimit * 1000 < (s.time - t).toNat))

/-- QUEUE_AGE_LIMIT: the queue of a launch has become aged; the queue manager tests the age itself. -/
def execQueueAgeLimit (launch : Nat) (s : State) : Host.Outcome State Fault Refusal :=
  match s.launch? launch with
  | none => .fault .notDue
  | some l =>
    if !l.lrec.qbound || l.aged || (l.stage != .ready && l.stage != .stopped) || !s.queueAged l then .fault .notDue
    else .next (s.modLaunch launch fun l => { l with aged := true })

/-- LAUNCH_STOP: software has stored 1 to STOP (R316). -/
def execLaunchStop (launch : Nat) (s : State) : Host.Outcome State Fault Refusal :=
  match s.launch? launch with
  | none => .fault .notDue
  | some l => match s.check (cpWho l.lrec.ctx) .read l.stat.toNat with
    | .error _ => .fault .notDue
    | .ok _ =>
      if l.lrec.qbound && l.stage == .ready && 2 ^ 63 ≤ s.loadWord l.lrec.ctx l.stat.toNat then
        .next (s.modLaunch launch fun l => { l with stage := .stopped })
      else .fault .notDue

end Sys2Proof.Machine
end

