-- ==== Sys2Proof/Machine/Fresh.lean ====
section
/-! DEFINITION. A newly placed team: its threads, fibres and slots (R15, R27, R139, R437). -/

namespace Sys2Proof.Machine

/-- A thread at the start of a team (R437). -/
def freshThread (pc : Word) (tid : Nat) : Thread :=
  ⟨.waiting, pc, none, 0, BitVec.ofNat 32 tid, 0, 0, List.replicate 7 none, 0, 0, 0, false, false, 0, false⟩

/-- A fibre at the start of a team: one path at CODE + ENTRY that holds every thread (R437). -/
def freshFibre (lr : LaunchRec) (fid : Nat) : Fibre where
  fid := fid
  slot := fid / lr.fps
  priv := List.replicate lr.priv (.zero lr.width)
  threads := (List.range lr.width).map fun l => freshThread (lr.code + BitVec.ofNat 64 lr.entry) (fid * lr.width + l)
  tiles := List.replicate 16 (List.replicate 8 0)
  dphase := 0
  tvec := lr.tvec
  tpc := 0
  tmask := 0
  frec := ⟨0, 0, 0, 0⟩
  handler := none
  pageWait := none
  pending := []
  issue := none
  fetched := false
  issues := 0
  ops := []
  drawn := false
  arriveStall := none
  stopY := false

/-- A slot of the fibres from `first` on: shared rows zero, all barrier counts zero (R139, R437). Which of its fibres holds it first is free
(assumption 121). -/
def freshSlot (lr : LaunchRec) (core num first free : Nat) : Slot :=
  ⟨core, num, first, lr.fps, List.replicate lr.shared (.zero lr.width),
    List.replicate 4 ⟨0, 0, List.replicate lr.fps 0, List.replicate lr.fps 0⟩, first + Config.choice free % lr.fps, 0⟩

/-- A team as placement makes it; `slots` are the core and number of each slot in order (R15, R309). -/
def freshTeam (lr : LaunchRec) (uid launch index core : Nat) (slots : List (Nat × Nat)) (tick : Nat) : Team where
  uid := uid
  launch := launch
  ctx := lr.ctx
  index := BitVec.ofNat 32 index
  die := core / 64
  core := core
  fibres := (List.range lr.fibres).map (freshFibre lr)
  slots := slots.zipIdx.map fun (p, k) => freshSlot lr p.1 p.2 (k * lr.fps) (16 * tick + k)
  accs := []
  accs2 := []
  accDyn := false
  qrange := (0, 0)
  ring := []

end Sys2Proof.Machine
end

