-- ==== Sys2Proof/Machine/Place.lean ====
section
/-! DEFINITION. Placement: the order of launches (R309, R310, R314), the choice of a core (R180 to R182, R266, R269), a new or a saved
team on its core (R15, R182, R315, R353), retirement (R132, R183, R268, R315) and completion (R312). -/

namespace Sys2Proof.Machine

/-! ## Which launch goes first (R309, R314) -/

/-- Saved teams of a launch, oldest save first. -/
def State.savedOf (s : State) (l : Launch) : List SavedTeam := s.saved.filter fun (x : SavedTeam) => x.team.launch == l.id

/-- The bound queue is full or aged (R314). -/
def State.queueReady (s : State) (l : Launch) : Bool :=
  let q := s.queueOf l
  s.queueAged l || (l.disp < q.commit && q.teamItems ≤ q.commit - l.disp)

/-- A launch has a team to place. -/
def State.hasTeam (s : State) (l : Launch) : Bool :=
  !(s.savedOf l).isEmpty || (if l.lrec.qbound then s.queueReady l else l.placed < l.lrec.nteam)

/-- An earlier launch of the same queue has not yet placed its first team. -/
def State.firstHeld (s : State) (l : Launch) : Bool :=
  s.launches.any fun k => k.die == l.die && k.queue == l.queue && k.id < l.id && k.stage != .complete && k.placed == 0

/-- Teams of a context may be placed (R349). -/
def State.ctxOpen (s : State) (ctx : Nat) : Bool :=
  (s.ctx ctx).preempt.isNone && (s.ctx ctx).saving.isNone && !(s.ctx ctx).dying

def State.launchReady (s : State) (l : Launch) : Bool :=
  (l.stage == .ready || l.stage == .stopped) && s.ctxOpen l.lrec.ctx && !s.firstHeld l && s.hasTeam l

/-- Groups of queue-bound launches: aged queues, full ones, and launches with saved teams only. -/
def State.queueGroup (s : State) (l : Launch) : Nat := if s.queueAged l then 0 else if s.queueReady l then 1 else 2

/-- The queue manager's order (R314). -/
def State.queueBefore (s : State) (a b : Launch) : Bool :=
  let tie := a.lrec.qdesc.toNat < b.lrec.qdesc.toNat || (a.lrec.qdesc == b.lrec.qdesc && a.id < b.id)
  let qa := s.queueOf a
  let qb := s.queueOf b
  if s.queueGroup a != s.queueGroup b then s.queueGroup a < s.queueGroup b
  else if s.queueGroup a == 0 then
    let ta := ((s.commitTime (s.queuePa a) a.disp).getD 0).toNat
    let tb := ((s.commitTime (s.queuePa b) b.disp).getD 0).toNat
    if ta != tb then ta < tb else tie
  else if s.queueGroup a == 1 then
    let fa := (qa.commit - a.disp) * qb.cap
    let fb := (qb.commit - b.disp) * qa.cap
    if fa != fb then fb < fa else tie
  else tie

/-- Step 1 of R309. -/
def State.launchBefore (s : State) (a b : Launch) : Bool :=
  if a.lrec.prio != b.lrec.prio then b.lrec.prio < a.lrec.prio
  else if a.lrec.qbound != b.lrec.qbound then b.lrec.qbound
  else if a.lrec.qbound then s.queueBefore a b
  else a.id < b.id

def insertBy {α : Type} (lt : α → α → Bool) (x : α) : List α → List α
  | [] => [x]
  | y :: ys => if lt x y then x :: y :: ys else y :: insertBy lt x ys

def State.readyLaunches (s : State) : List Launch :=
  (s.launches.filter s.launchReady).foldl (fun a l => insertBy s.launchBefore l a) []

/-! ## What a core has -/

def freeBanks (c : Core) : List Nat := (List.range c.banks.length).filter fun k => (c.banks.getD k (Bank.reset 8)).role == .free
def l1Banks (c : Core) : List Nat := (List.range c.banks.length).filter fun k => (c.banks.getD k (Bank.reset 8)).role == .l1
/-- Free pool banks: free scratchpad, and L1 ways above 2 (R309). -/
def poolBanks (c : Core) : Nat := (freeBanks c).length + ((l1Banks c).length - 2)

/-- Launches with a register share on a core. -/
def shareHolders (c : Core) : List Nat := (c.banks.filterMap fun b => match b.role with | .regShare l => some l | _ => none).eraseDups
def shareCount (c : Core) : Nat := (c.banks.filter fun b => match b.role with | .regShare _ => true | _ => false).length
def fifoCount (c : Core) : Nat := (c.banks.filter fun b => match b.role with | .fifo _ _ _ => true | _ => false).length

/-- Slots that other launches have reserved on a core (R180). -/
def State.reservedBy (s : State) (core launch : Nat) : Nat :=
  (((shareHolders (s.core core)).filter (· != launch)).map fun l => ((s.launch? l).map fun (x : Launch) => x.lrec.smax).getD 0).foldl (· + ·) 0

/-- Slot numbers that resident teams fill on a core. -/
def State.busySlots (s : State) (core : Nat) : List Nat :=
  s.teams.flatMap fun (t : Team) => (t.slots.filter fun (x : Slot) => x.core == core).map (·.num)

/-- Slots that teams of a launch fill on a core. -/
def State.slotsUsed (s : State) (core launch : Nat) : Nat :=
  ((s.teams.filter fun (t : Team) => t.launch == launch).flatMap fun (t : Team) => t.slots.filter fun (x : Slot) => x.core == core).length

/-- Free slots of a core as a launch sees them: neither reserved for another launch nor filled. -/
def State.freeSlots (s : State) (core launch : Nat) : Nat := 16 - s.reservedBy core launch - s.slotsUsed core launch

/-! ## What a team needs of one core -/

structure Need where
  slots : Nat
  share : Nat
  scratch : List (Nat × Nat)      -- banks to grant: j and aliased bytes
  ring : Nat
  accs : Nat
  bins : Nat
  reqs : Nat

/-- The scratchpad banks of a new team on each of its cores (R182). -/
def newScratch (r : LaunchRec) : List (Nat × Nat) :=
  (List.range r.scrBanks).map fun j => (j, min KiB32 (r.scrBytes - j * KiB32))

def relOf (fid : Nat) : Nat := if fid < 64 then 0 else 1

def needOf (r : LaunchRec) (x : Option SavedTeam) (rel : Nat) : Need where
  slots := r.slotsOn rel
  share := if r.fibresOn rel == 0 then 0 else r.shareBanks
  scratch := match x with
    | none => newScratch r
    | some x => (x.banks.filter fun b => b.1 == rel).map fun b => b.2
  ring := r.ringOn rel
  accs := match x with
    | none => if r.accDyn then 0 else r.accN
    | some x => if rel == 0 then x.accs.length else x.accs2.length
  bins := match x with
    | none => 0
    | some x => (x.bins.filter fun b => b.1 == rel).length
  reqs := match x with
    | none => 0
    | some x => (x.reqs.filter fun (g : GReq) => relOf g.owner.fid == rel).length

/-- A core can take its part of a team within R180 and R181. -/
def State.coreTakes (s : State) (l : Launch) (n : Need) (core : Nat) : Bool :=
  let c := s.core core
  let has := (shareHolders c).contains l.id
  let share := if has then 0 else n.share
  (n.slots == 0 || (if has then s.slotsUsed core l.id + n.slots ≤ l.lrec.smax
    else n.slots ≤ l.lrec.smax && s.reservedBy core l.id + l.lrec.smax ≤ 16)) &&
    shareCount c + share ≤ 44 && fifoCount c + n.ring ≤ 8 && share + n.scratch.length + n.ring ≤ poolBanks c &&
    n.accs ≤ (freeAccs c).length && n.bins ≤ (c.gallery.filter Option.isNone).length && (s.reqsOf core).length + n.reqs ≤ 16

/-! ## Message queues (R269) -/

/-- Queues that a team's context needs on a cluster: those of the launch's mask, and those that wait there in its save area. -/
def State.queuesFor (s : State) (l : Launch) (cluster : Nat) : List Nat :=
  (List.range 16).filter fun q => l.lrec.qmask.getLsbD q || (s.ctx l.lrec.ctx).stash.any fun x => x.1 == cluster && x.2.1 == q

/-- Every team of the context is saved. -/
def State.fullySaved (s : State) (ctx : Nat) : Bool := !s.teams.any fun (t : Team) => t.ctx == ctx

def State.queuesOpen (s : State) (l : Launch) (cluster : Nat) : Bool :=
  (s.queuesFor l cluster).all fun q => match (s.msgQueue cluster q).owner with
    | none => true
    | some c => c == l.lrec.ctx || s.fullySaved c

/-- The context takes one queue: another context's contents go to that context's save area, and its own come back. -/
def State.takeQueue (s : State) (ctx cluster q : Nat) : State :=
  let x := s.msgQueue cluster q
  if x.owner == some ctx then s
  else
    let s1 := match x.owner with
      | some c => s.modCtx c fun k => { k with stash := k.stash ++ [(cluster, q, x.msgs)] }
      | none => s
    let back := ((s1.ctx ctx).stash.find? fun y => y.1 == cluster && y.2.1 == q).map (·.2.2)
    (s1.modQueue cluster q fun _ => ⟨some ctx, back.getD []⟩).modCtx ctx fun k =>
      { k with stash := k.stash.filter fun y => !(y.1 == cluster && y.2.1 == q) }

/-- A context has a team resident on a cluster, or saved from there. -/
def State.ctxOnCluster (s : State) (ctx cluster : Nat) : Bool :=
  (s.teams.any fun (t : Team) => t.ctx == ctx && t.core / 4 == cluster) ||
    s.saved.any fun (x : SavedTeam) => x.team.ctx == ctx && x.cluster == cluster

/-- Queues of contexts that have left a cluster are emptied and freed (R269). -/
def State.releaseQueues (s : State) : State :=
  { s with
    clusters := s.clusters.zipIdx.map fun ((c : Cluster), n) => { c with
      queues := c.queues.map fun (q : MsgQ) => match q.owner with
        | some k => if s.ctxOnCluster k n then q else ⟨none, []⟩
        | none => q }
    ctxs := s.ctxs.zipIdx.map fun ((k : Context), n) => { k with stash := k.stash.filter fun x => s.ctxOnCluster n x.1 } }

/-! ## The choice of a core (R309 step 3, R266) -/

/-- Cores, or leaders of hinged pairs, on the dies that a launch may use. -/
def Launch.dies (l : Launch) : List Nat := if l.lrec.both then [0, 1] else [l.die]
def Launch.places (l : Launch) : List Nat :=
  (l.dies.flatMap fun d => (List.range 64).map (64 * d + ·)).filter fun c => !l.lrec.pair || c % 2 == 0

/-- A core or pair has every resource of the team at once. -/
def State.placeTakes (s : State) (l : Launch) (x : Option SavedTeam) (core : Nat) : Bool :=
  (l.lrec.rels.all fun k => s.coreTakes l (needOf l.lrec x k) (core + k)) && s.queuesOpen l (core / 4) &&
    (s.cluster (core / 4)).table.length + ((l.lrec.rels.map fun k => (needOf l.lrec x k).reqs).foldl (· + ·) 0) ≤ 32

/-- Free slots, then free pool banks, of a core or pair. -/
def State.placeKey (s : State) (l : Launch) (core : Nat) : Nat × Nat :=
  l.lrec.rels.foldl (fun (a : Nat × Nat) k => (a.1 + s.freeSlots (core + k) l.id, a.2 + poolBanks (s.core (core + k)))) (0, 0)

/-- The place with the most free slots, then pool banks, then the lowest core. -/
def State.bestPlace (s : State) (l : Launch) (x : Option SavedTeam) (closed : List Nat) : Option Nat :=
  (l.places.filter fun c => !closed.contains (c / 64) && s.placeTakes l x c).foldl (fun (a : Option Nat) c =>
    match a with
    | none => some c
    | some b =>
      let kb := s.placeKey l b
      let kc := s.placeKey l c
      if kb.1 < kc.1 || (kb.1 == kc.1 && kb.2 < kc.2) then some c else some b) none

/-! ## Resources granted -/

/-- The next bank: a free one, the highest or the lowest, else the highest-numbered L1 way above the minimum of 2 (R180, R182). -/
def nextBank (high : Bool) (c : Core) : Option Nat :=
  match (if high then (freeBanks c).getLast? else (freeBanks c).head?) with
  | some k => some k
  | none => if 2 < (l1Banks c).length then (l1Banks c).getLast? else none

/-- Banks in new roles; they read zero. -/
def grantPool (high : Bool) : List Role → Core → Core
  | [], c => c
  | r :: rs, c => match nextBank high c with
    | some k => grantPool high rs { c with banks := c.banks.set k ⟨r, [], []⟩ }
    | none => c

/-- Slot numbers of a team, ascending among the free slots: those that belong to nobody, within the launch's S, and its own idle ones
(R174, R180). -/
def pickSlots (launch smax n : Nat) (busy : List Nat) (c : Core) : List Nat :=
  let owned := (c.slots.filter (· == some launch)).length
  ((List.range c.slots.length).foldl (fun (a : List Nat × Nat) k =>
    if a.1.length == n then a
    else match c.slots.getD k none with
      | some x => if x == launch && !busy.contains k then (a.1 ++ [k], a.2) else a
      | none => if owned + a.2 < smax then (a.1 ++ [k], a.2 + 1) else a) ([], 0)).1

/-- A core after it takes its part of a team, with the slot numbers and accumulator banks given. -/
def coreGrant (l : Launch) (uid : Nat) (n : Need) (busy : List Nat) (c : Core) : Core × List Nat × List Nat :=
  let c1 := if (shareHolders c).contains l.id then c else grantPool true (List.replicate n.share (.regShare l.id)) c
  let c2 := grantPool false (n.scratch.map fun b => Role.scratch uid b.1 b.2) c1
  let c3 := grantPool false (List.replicate n.ring (.fifo uid true none)) c2
  let slots := pickSlots l.id l.lrec.smax n.slots busy c3
  let accs := (freeAccs c3).take n.accs
  (grantBanks uid accs { c3 with slots := c3.slots.zipIdx.map fun (x, k) => if slots.contains k then some l.id else x }, slots, accs)

/-! ## A saved team comes back (R353) -/

/-- One alias page of a bank is read back from its backing. A page that does not then translate to local memory with write
permission was lost; the bank then has its initial contents, which R299 allows (R183; assumption 120). -/
def State.refillPage (s : State) (t : Team) (core bank j p : Nat) : State :=
  let va := aliasStart (s.recOf t) t core j + p * 4096
  let lost (s : State) : State := s.modCore core fun c => { c with
    banks := c.banks.modify bank fun (b : Bank) => { b with
      data := cellsSet b.data (p * 4096) (List.replicate 4096 0) } }
  match s.translate t.ctx va with
  | .leaf l =>
    let pa := l.frame + va % l.size
    let la := localOf pa
    if l.w && pkgOf pa == s.pkg.toNat && (isHbm la || isHost la) then
      let bad := ((s.poison.filter fun x => la / 64 ≤ x && x < la / 64 + 64).flatMap fun x =>
        (List.range 8).map fun k => p * 512 + (x - la / 64) * 8 + k)
      s.modCore core fun c => { c with
        banks := c.banks.modify bank fun (b : Bank) => { b with
          data := cellsSplice b.data (p * 4096) 4096 s.mem la
          poison := marks b.poison bad } }
    else lost s
  | _ => lost s

/-- Every scratchpad bank of a resumed team holds what its backing holds. -/
def State.refillBanks (s : State) (t : Team) : State :=
  (t.cores (s.recOf t)).foldl (fun (s : State) c =>
    (s.scratchBanks t.uid c).foldl (fun (s : State) (k, j, len) =>
      (List.range (len / 4096)).foldl (fun (s : State) p => s.refillPage t c k j p) s) s) s

/-- Accumulator contents in logical order. -/
def restoreAccs (uid : Nat) (ks : List Nat) (old : List AccBank) (c : Core) : Core :=
  (ks.zip old).foldl (fun (c : Core) (k, b) => { c with acc := c.acc.set k { b with owner := some uid } }) c

/-- Bins return to free places of the gallery, with the ages they had. -/
def restoreBins (clock : Nat) (bins : List Bin) (c : Core) : Core :=
  bins.foldl (fun (c : Core) b => match c.gallery.findIdx? Option.isNone with
    | some i => { c with gallery := c.gallery.set i (some { b with opened := clock - b.opened }) }
    | none => c) c

/-- The watchdog does not count the time that a team was away (R355). -/
def shiftThread (d : Word) (t : Thread) : Thread :=
  match t.st with
  | .blocked k i since => { t with st := .blocked k i (since + d) }
  | _ => t

/-- A fibre that waited for a page retries (R347); every fibre fetches anew. -/
def resumeFibre (d : Word) (f : Fibre) : Fibre :=
  { f with
    pageWait := none
    fetched := false
    arriveStall := f.arriveStall.map fun x => (x.1, x.2 + d)
    threads := f.threads.map (shiftThread d) }

/-- The removed requests are posted again in their order, with their ages; their granules are engine-owned again (R208). -/
def State.repost (s : State) (uid core : Nat) (reqs : List GReq) : State :=
  reqs.foldl (fun (s : State) g =>
    let k := core + relOf g.owner.fid
    let g1 : GReq := { g with
      core := k
      posted := s.clock - g.posted
      state := .queued }
    let gs := match s.team? uid with
      | some t => ([g.ta, g.tb].flatMap fun d => (tileOf d).granules s t k).eraseDups
      | none => []
    (s.modCluster (core / 4) fun (c : Cluster) => { c with table := c.table ++ [g1] }).modFibre g.owner fun f => { f with
      ops := f.ops.map fun (o : Op) => if o.id == g.id then { o with granules := gs } else o }) s

/-! ## A team on its core -/

/-- Slots of a team with their cores and numbers. -/
def reslot (slots : List Slot) (places : List (Nat × Nat)) : List Slot :=
  slots.zipIdx.map fun (x, k) => match places[k]? with
    | some p => { x with core := p.1, num := p.2 }
    | none => x

/-- The items that a team of a bound queue receives (R315). -/
def State.dispatch (s : State) (l : Launch) : Nat × Nat :=
  if l.lrec.qbound then (l.disp, min (s.queueOf l).teamItems ((s.queueOf l).commit - l.disp)) else (0, 0)

/-- DISP of a bound queue moves, for every launch bound to it. -/
def State.setDisp (s : State) (l : Launch) (disp : Nat) : State :=
  { s with launches := s.launches.map fun (k : Launch) => if k.id == l.id || (l.lrec.qbound && s.bindsQueue (s.queuePa l) k) then { k with
      disp := disp
      aged := false } else k }

/-- One team goes to a core or pair: the oldest saved team of the launch, or its next new one. -/
def State.placeAt (s : State) (l : Launch) (x : Option SavedTeam) (core : Nat) : State :=
  let r := l.lrec
  let uid := match x with | some x => x.team.uid | none => s.fresh
  let got := r.rels.map fun k => (core + k, coreGrant l uid (needOf r x k) (s.busySlots (core + k)) (s.core (core + k)))
  let s1 := got.foldl (fun (s : State) g => s.modCore g.1 fun _ => g.2.1) s
  let places := got.flatMap fun g => g.2.2.1.map fun n => (g.1, n)
  let accs := (got.head?.map fun g => g.2.2.2).getD []
  let accs2 := ((got.drop 1).head?.map fun g => g.2.2.2).getD []
  let s2 := (s1.queuesFor l (core / 4)).foldl (fun (s : State) q => s.takeQueue r.ctx (core / 4) q) s1
  match x with
  | none =>
    let q := s.dispatch l
    let t : Team := { freshTeam r uid l.id l.placed core places s.tick with
      accs := accs
      accs2 := accs2
      qrange := q }
    let s3 := { s2 with
      fresh := s2.fresh + 1
      teams := s2.teams ++ [t] }.modLaunch l.id fun (l : Launch) => { l with placed := l.placed + 1 }
    if q.2 == 0 then s3 else s3.setDisp l (l.disp + q.2)
  | some x =>
    let t : Team := { x.team with
      core := core
      die := core / 64
      fibres := x.team.fibres.map (resumeFibre (s.time - x.stoppedAt))
      slots := reslot x.team.slots places
      accs := accs
      accs2 := accs2 }
    let s3 : State := { s2 with
      teams := s2.teams ++ [t]
      saved := s2.saved.filter fun (y : SavedTeam) => y.team.uid != uid }
    let s4 := (s3.modCore core (restoreAccs uid accs x.accs)).modCore (core + 1) (restoreAccs uid accs2 x.accs2)
    let s5 := r.rels.foldl (fun (s : State) k =>
      s.modCore (core + k) (restoreBins s.clock ((x.bins.filter fun b => b.1 == k).map (·.2)))) (s4.refillBanks t)
    ((s5.repost uid core x.reqs).modCtx r.ctx fun (c : Context) => { c with saveUsed := c.saveUsed - x.bytes }).releaseQueues

/-- The next team of a launch on the best place of the dies that are not closed to it. -/
def State.placeOne (s : State) (id : Nat) (closed : List Nat) : Option State :=
  match s.launch? id with
  | none => none
  | some l =>
    let x := (s.savedOf l).head?
    (s.bestPlace l x closed).map fun c => s.placeAt l x c

/-- All teams of a cooperative launch at once (R310). -/
def State.placeAll (s : State) (l : Launch) (closed : List Nat) : Option State :=
  (List.range ((s.savedOf l).length + (l.lrec.nteam - l.placed))).foldl (fun (so : Option State) _ => so.bind fun s => s.placeOne l.id closed) (some s)

/-- The launches in their order; one that waits closes the dies that it may use to those after it (R309 step 4). A launch of the other
die goes in its own step. -/
def State.placeNext (s : State) (die : Nat) : List Nat → List Launch → Option State
  | _, [] => none
  | closed, l :: rest =>
    match (if l.die != die then none else if l.lrec.coop && !l.lrec.qbound then s.placeAll l closed else s.placeOne l.id closed) with
    | some s' => some s'
    | none => s.placeNext die (closed ++ l.dies) rest

/-- TEAM_PLACEMENT: the command processor of a die places the next team. -/
def execTeamPlacement (die : Nat) (s : State) : Host.Outcome State Fault Refusal :=
  match s.placeNext die [] s.readyLaunches with
  | some s' => .next s'
  | none => .fault .notDue

/-! ## Retirement (R132, R183, R268) -/

/-- An operation that keeps its team from retiring: one of a wait-mask class that is not complete. -/
def Op.pending (o : Op) : Bool := !o.done && !o.classes.isEmpty

/-- Engine work of a team that is accepted and not complete. -/
def State.engineBusy (s : State) (uid : Nat) : Bool :=
  (s.cores.any fun (c : Core) => c.array.any fun (o : ArrayOp) => o.owner.team == uid) ||
    s.clusters.any fun (c : Cluster) => c.table.any fun (g : GReq) => g.owner.team == uid

def State.teamDone (s : State) (t : Team) : Bool :=
  (t.fibres.all fun (f : Fibre) => f.live.isEmpty && !f.ops.any Op.pending) && (s.filedOf t.uid).isEmpty && !s.engineBusy t.uid

/-- HEAD after the consumed ranges that follow it without a gap, and the ranges left (R315). -/
def consume : Nat → Nat → List (Nat × Nat) → Nat × List (Nat × Nat)
  | 0, head, l => (head, l)
  | n + 1, head, l => match l.find? fun x => x.1 == head && 0 < x.2 with
    | some x => consume n (head + x.2) (l.filter (· != x))
    | none => (head, l)

/-- The range of a retired team is consumed, and HEAD and OLDEST advance in one event. -/
def State.consumeRange (s : State) (l : Launch) (t : Team) : State :=
  if !l.lrec.qbound then s
  else
    let all := l.consumed ++ [t.qrange]
    let head := (s.queueOf l).head
    let r := consume all.length head all
    let s1 := if r.1 == head then s else s.advanceHead (s.queuePa l) r.1
    { s1 with launches := s1.launches.map fun (k : Launch) =>
        if k.id == l.id || s.bindsQueue (s.queuePa l) k then { k with consumed := r.2 } else k }

/-- A team's resources return: banks, accumulator banks, waiting requests, slots, register shares and message queues. -/
def State.dropTeam (s : State) (t : Team) : State :=
  let s1 := (s.releaseBanks t).releaseAccs t
  let s2 : State := { s1 with
    teams := s1.teams.filter fun (x : Team) => x.uid != t.uid
    cores := s1.cores.map fun (c : Core) => { c with accWait := c.accWait.filter fun (q : AccReq) => q.team != t.uid } }
  (s2.releaseShares t.launch).releaseQueues

/-- TEAM_RETIREMENT. -/
def execTeamRetirement (team : Nat) (s : State) : Host.Outcome State Fault Refusal :=
  match s.team? team with
  | none => .fault .notDue
  | some t =>
    if !s.teamDone t || (s.ctx t.ctx).dying then .fault .notDue
    else match s.launch? t.launch with
      | none => .next (s.dropTeam t)
      | some l =>
        let s1 := ((s.dropTeam t).consumeRange l t).modLaunch l.id fun (l : Launch) => { l with retired := l.retired + 1 }
        .next (s1.updateStatus { l with retired := l.retired + 1 })

/-! ## Completion (R312, R316) -/

def State.launchDone (s : State) (l : Launch) : Bool :=
  (s.savedOf l).isEmpty && !(s.teams.any fun (t : Team) => t.launch == l.id) &&
    (if l.lrec.qbound then l.stage == .stopped && (s.queueOf l).commit ≤ l.disp
     else l.stage == .ready && l.retired == l.lrec.nteam)

/-- Every whole sector of a discarded range is dropped (assumption 6). -/
def State.discardPiece (s : State) (la n : Nat) : State :=
  if isHbm la || isHost la then (wholeSectors la n).foldl (fun (s : State) k => s.dropSector k) s else s

/-- Sectors wholly in [va, va + n), page by page: pages hold whole sectors, and the range is aligned to them. -/
def State.discardRange (s : State) (ctx va n : Nat) : State :=
  (s.physRange ctx va n).foldl (fun (s : State) (pa, k) => if pkgOf pa == s.pkg.toNat then s.discardPiece (localOf pa) k else s) s

def State.translates (s : State) (ctx va n : Nat) : Bool :=
  va + n ≤ 2 ^ 56 && (pagesOf va n).all fun p => match s.translate ctx p with | .leaf _ => true | _ => false

/-- Step 3 of R312: the state, and whether an entry was skipped. -/
def State.discards (s : State) (r : LaunchRec) : State × Bool :=
  (s.listEntries r.ctx r.dList r.ndisc).foldl (fun (a : State × Bool) e => match e with
    | none => (a.1, true)
    | some (va, n) => if a.1.translates r.ctx va n then (a.1.discardRange r.ctx va n, a.2) else (a.1, true)) (s, false)

/-- LAUNCH_COMPLETION. -/
def execLaunchCompletion (launch : Nat) (s : State) : Host.Outcome State Fault Refusal :=
  match s.launch? launch with
  | none => .fault .notDue
  | some l =>
    if !s.launchDone l || !s.canPost then .fault .notDue
    else
      let s1 := s.finalise l fun _ => true
      if (s1.ctx l.lrec.ctx).dying then .next s1
      else
        let (s2, skip) := s1.discards l.lrec
        let s3 := s2.writeStatus { l with dskip := skip } 2
        let s4 := if l.lrec.cen then s3.addCounter l.lrec.ctx l.die l.lrec.cctr l.lrec.cinc else s3
        .next { s4 with launches := s4.launches.filter fun (x : Launch) => x.id != launch }

end Sys2Proof.Machine
end

