-- ==== Sys2Proof/Machine/Requant.lean ====
section
/-! DEFINITION. The requantiser: the pick of a format page, its conversion and commit (R322 to R327). -/

namespace Sys2Proof.Machine

/-- A page is idle for longer than the threshold of its die, which 0 disables (R322). -/
def State.pageIdle (s : State) (base : Nat) : Bool :=
  let ms := (s.die (homeDie base)).threshold
  ms != 0 && ms * 1000000 < s.time.toNat - s.ramWord (base + 8)

/-- The format pages that a pick can take: none without a reclaim queue (R322, R326). -/
def State.formatPages (s : State) : List Nat := if s.reclaim.isNone then [] else s.namedPages

/-- REQUANTISER_PICK: a page with a bad header is skipped once per generation (R327); an idle, unpinned FP8 page is picked. -/
def execRequantiserPick (page : Nat) (s : State) : Host.Outcome State Fault Refusal :=
  if !s.formatPages.contains page || !s.reclaimFree || (s.die (homeDie page)).threshold == 0 || (s.convs.any (·.1 == page)) then .fault .notDue
  else if !s.headerOk page then
    if s.skipped.contains (page, BitVec.ofNat 64 (s.ramWord page)) || !s.canPost then .fault .notDue else .next (s.skipPage page)
  else if s.pageFmt page == 10 || s.pagePin page || !s.pageIdle page then .fault .notDue
  else .next { s with convs := s.convs ++ [(page, s.time)] }

/-- One block of 32 FP8 codes: the scale and the E2M1 codes (R323). -/
def requantBlock (f : Fmt) (codes : List Nat) : Nat × List Nat :=
  let vs := codes.map f.value
  let sc := blockScale 10 vs
  (sc, vs.map fun v => rne fmtE2m1 true (scaledBy v (e8m0Value sc)))

/-- Pairs of nibbles as bytes, the even element low (R319). -/
def nibbleBytes : List Nat → List Byte
  | a :: b :: rest => BitVec.ofNat 8 (b * 16 + a) :: nibbleBytes rest
  | _ => []

/-- Blocks of a page with a poisoned element (R327). -/
def State.poisonedBlocks (s : State) (base : Nat) : List Nat :=
  (List.range 2040).filter fun b => (touchedSectors (base + 0x100 + 32 * b) 32).any s.poison.contains

/-- Bytes 0x100 to 0x8FFF of the MXFP4 form: elements, scales, and zeros (R319). -/
def State.mxBytes (s : State) (base : Nat) : List Byte :=
  let f := if s.pageFmt base == 4 then fmtE4m3 else fmtE5m2
  let blocks := (List.range 2040).map fun b => requantBlock f ((cellsGet s.mem (base + 0x100 + 32 * b) 32).map (·.toNat))
  blocks.flatMap (fun x => nibbleBytes x.2) ++ blocks.map (fun x => BitVec.ofNat 8 x.1) ++ List.replicate (0x9000 - 0x8878) 0

/-- The frames that no longer belong to the page are dropped without write-back (R324; assumption 6). -/
def State.dropFrames (s : State) (base : Nat) : State :=
  (List.range (0x7000 / 64)).foldl (fun (s : State) k => s.dropSector ((base + 0x9000) / 64 + k)) s

/-- The commit: data, header and frames change in one event. -/
def State.commitPage (s : State) (base : Nat) : State :=
  let bad := s.poisonedBlocks base
  let s1 := s.ramWrite (base + 0x100) (s.mxBytes base) false
  let s2 := { s1 with poison := bad.foldl (fun l b => marks l (touchedSectors (base + 0x100 + 16 * b) 16 ++ touchedSectors (base + 0x8080 + b) 1)) s1.poison }
  let dw2 := 0x8080 * 2 ^ 32 + 0xFE00 * 2 ^ 16 + 0xA0 + (if s.pagePin base then 4 else 0)
  (s2.setHeader base ((s.ramWord base + 1) % 2 ^ 64) (s.ramWord (base + 8)) dw2).dropFrames base

/-- REQUANTISER_COMMIT: a conversion that no store, pin or abort has ended commits, and its reclaim entry follows (R324, R326). -/
def execRequantiserCommit (page : Nat) (s : State) : Host.Outcome State Fault Refusal :=
  if !(s.convs.any (·.1 == page)) then .fault .notDue
  else
    let bad := !(s.poisonedBlocks page).isEmpty
    if bad && !s.canPost then .fault .notDue
    else
      let s1 := s.commitPage page
      let s2 := if bad then s1.event 3 false (memRecord s.time 1 4 (s.pkg.toNat * 2 ^ 46 + page)) else s1
      .next { s2.writeReclaim page 0xFE00 0 with convs := s2.convs.filter (·.1 != page) }

end Sys2Proof.Machine
end

