-- ==== Sys2Proof/Machine/Save.lean ====
section
/-! DEFINITION. Pre-emption (R349): the mid-team save (R350 to R352), its deadlines, the park-swap rule (R354), the barrier-timeout
watchdog (R355 to R357), and the end of a termination (R358). -/

namespace Sys2Proof.Machine

/-! ## The stop of a save (R350 step 1) -/

/-- A window whose values are not known goes on without a wait point; its writes land when they come (R351). -/
def Op.unwindow (o : Op) : Op := if o.isWindow && !o.known then { o with ahead := .async } else o

/-- Operations that belong to an instruction which issues again on resumption: reads for a stalled walker, the test of a `wait`, and
those of parked `qpush`, `msnd` and `mrcv`. -/
def Fibre.redone (f : Fibre) (o : Op) : Bool :=
  let parked (g : Nat) : Bool := f.threads.any fun (t : Thread) => (t.parkGroup.map fun x => x.1) == some g
  match o.kind with
  | .access (.wait _ _) _ _ => true
  | .access _ [] _ => o.classes.isEmpty
  | .queue g => parked g
  | .message g => parked g
  | _ => false

/-- A parked thread is recorded at its parking instruction. -/
def saveThread (t : Thread) : Thread := match t.st with | .parked _ _ _ => { t with st := .waiting } | _ => t

/-- A fibre stops before its next unissued instruction; held writes land (R88). -/
def State.stopForSave (s : State) (r : FibreRef) : State :=
  let s1 := (s.modFibre r fun f => { f with ops := (f.ops.filter fun o => !f.redone o).map Op.unwindow }).landWindows r
  s1.modFibre r fun f => { f with
    issue := none
    fetched := false
    threads := (match f.issue with
      | some i => f.threads.map (Thread.unissue i)
      | none => f.threads).map saveThread }

def State.stopTeam (s : State) (t : Team) : State :=
  let s1 := t.fibres.foldl (fun (s : State) f => s.stopForSave ⟨t.uid, f.fid⟩) s
  { s1 with cores := s1.cores.map fun (c : Core) => { c with accWait := c.accWait.filter fun (q : AccReq) => q.team != t.uid } }

/-! ## Drain (R350 step 2) -/

def State.reqsOfTeam (s : State) (uid : Nat) : List GReq :=
  s.clusters.flatMap fun (c : Cluster) => c.table.filter fun (g : GReq) => g.owner.team == uid

/-- Every operation is complete, and landed, but for queued requests. -/
def State.drained (s : State) (t : Team) : Bool :=
  let queued := s.reqsOfTeam t.uid
  queued.all (fun (g : GReq) => g.state == .queued) &&
    !(s.cores.any fun (c : Core) => c.array.any fun (o : ArrayOp) => o.owner.team == t.uid) &&
    t.fibres.all fun (f : Fibre) => f.ops.all fun (o : Op) => queued.any fun (g : GReq) => g.id == o.id

/-! ## The image (R350 steps 3 and 4, R352) -/

/-- Tile descriptors of a removed request: those of its operands, and of its destination unless it goes to the scatter units. -/
def reqTiles (g : GReq) : Nat := if g.scat.isSome then 2 else 3

/-- Bytes of the parts of a block with a fixed size (R352). -/
def blockFixed (r : LaunchRec) (bins : Nat) (reqs : List GReq) (accs : Nat) : Nat :=
  256 + 16 * ((r.fibres * r.width + 7) / 8) + 32 * bins + (reqs.map fun g => 32 + 64 * reqTiles g).foldl (· + ·) 0 + 65536 * accs +
    64 * (r.fibres / r.fps) + 2048 * r.fibres

/-- The most that a register of W rows takes. -/
def regBytes (w : Nat) : Nat := 32 + 8 * w + 8 * ((w + 15) / 16)

/-- A register, by its shape tag (R216). -/
def regSize (v : VReg) : Nat := regCharge v (List.range v.rows.length)

/-- The carried registers of a bin, over its threads in filing order: uniform ones by CARRYU, the others general (R45). -/
def binRegs (r : LaunchRec) (b : Bin) : Nat :=
  (((List.range 56).filter fun n => r.carryV.getLsbD n).map fun n =>
    let rows := b.threads.filterMap fun x => (x.regs.find? (·.1 == n)).map (·.2)
    regSize ⟨rows, if r.carryU.getLsbD n then .uniform else .general⟩).foldl (· + ·) 0

/-- Registers of a team: shared windows, private windows, and those carried in its bins. -/
def blockRegs (r : LaunchRec) (t : Team) (bins : List Bin) : Nat :=
  ((t.slots.flatMap (·.shared) ++ t.fibres.flatMap (·.priv)).map regSize ++ bins.map (binRegs r)).foldl (· + ·) 0

/-- The bytes that a block takes. The 64 values of a fibre that are kept as registers have no shape tag: what they take between the least
and the most of a register is free (assumption 80). -/
def blockBytes (tick : Nat) (r : LaunchRec) (t : Team) (bins : List Bin) (reqs : List GReq) (accs : Nat) : Nat :=
  blockFixed r bins.length reqs accs + blockRegs r t bins + 64 * 16 * r.fibres +
    (Config.freeWord tick).toNat % (64 * (regBytes r.width - 16) * r.fibres + 1)

/-- Gallery bins of a team, with the core of the pair and their ages. -/
def State.binsOf (s : State) (t : Team) : List (Nat × Bin) :=
  (t.cores (s.recOf t)).flatMap fun c => (s.core c).gallery.filterMap fun (b : Option Bin) => match b with
    | some b => if b.team == t.uid then some (c - t.core, { b with opened := s.clock - b.opened }) else none
    | none => none

def accImage (c : Core) (ks : List Nat) : List AccBank := ks.map fun k => { c.acc.getD k .reset with owner := none }

/-- A fibre of the image: its queued requests keep their operations, and their granules return. -/
def saveFibre (f : Fibre) : Fibre := { f with
  pageWait := none
  ops := f.ops.map fun (o : Op) => { o with granules := [] } }

/-- The image of a drained team. -/
def State.image (s : State) (t : Team) (stopped : Word) : SavedTeam :=
  let r := s.recOf t
  let bins := s.binsOf t
  let reqs := (s.reqsOfTeam t.uid).map fun (g : GReq) => { g with posted := g.age s.clock }
  { team := { t with
      ring := []
      fibres := t.fibres.map saveFibre }
    banks := (t.cores r).flatMap fun c => (s.scratchBanks t.uid c).map fun b => (c - t.core, b.2)
    accs := accImage (s.core t.core) t.accs
    accs2 := accImage (s.core (t.core + 1)) t.accs2
    bins := bins
    reqs := reqs
    bytes := blockBytes s.tick r t (bins.map (·.2)) reqs (t.accs.length + t.accs2.length)
    stoppedAt := stopped
    savedAt := s.time
    cluster := t.core / 4 }

/-- The save area's bytes in memory: the context header and the team blocks, whose internal layout is free. -/
def State.writeSaveArea (s : State) (ctx : Nat) : State :=
  let c := s.ctx ctx
  let la := localOf c.saveBase
  s.ramWrite la ((List.range (256 + c.saveUsed)).map fun i => (Config.freeWord (s.tick * 2 ^ 64 + la + i)).extractLsb' 0 8) false

/-- The block of a team fits the save area (R352). -/
def State.saveFits (s : State) (x : SavedTeam) : Bool := 256 + (s.ctx x.team.ctx).saveUsed + x.bytes ≤ (s.ctx x.team.ctx).saveSize

/-- TEAM_SAVE, its last part: the image is kept, the team's requests and bins leave their units, and its resources are freed. -/
def State.saveTeam (s : State) (t : Team) (x : SavedTeam) : State :=
  let s1 : State := { s with
    saved := s.saved ++ [x]
    clusters := s.clusters.map fun (c : Cluster) => { c with table := c.table.filter fun (g : GReq) => g.owner.team != t.uid }
    cores := s.cores.map fun (c : Core) => { c with gallery := c.gallery.map fun (b : Option Bin) => b.filter fun y => y.team != t.uid } }
  let s2 := s1.modCtx t.ctx fun (c : Context) => { c with saveUsed := c.saveUsed + x.bytes }
  (s2.dropTeam t).writeSaveArea t.ctx

/-! ## Deadlines (R349) -/

/-- DRAIN and SAVEDL in ns; 0 means 200 µs and 2,000 µs (R342). -/
def Context.drainNs (c : Context) : Nat := (if c.drain == 0 then 200 else c.drain) * 1000
def Context.saveNs (c : Context) : Nat := (if c.saveDl == 0 then 2000 else c.saveDl) * 1000

def State.teamsOf (s : State) (ctx : Nat) : List Team := s.teams.filter fun (t : Team) => t.ctx == ctx

/-- All teams of the context stop. -/
def State.beginSave (s : State) (ctx : Nat) : State :=
  ((s.teamsOf ctx).foldl (fun (s : State) t => s.stopTeam t) s).modCtx ctx fun c => { c with saving := some s.time }

/-- DRAIN_DEADLINE: at T0 + DRAIN the teams still resident stop; then each is saved once it has drained. A block that does not fit
terminates the context with cause 4. -/
def execDrainDeadline (ctx : Nat) (s : State) : Host.Outcome State Fault Refusal :=
  let c := s.ctx ctx
  match c.saving with
  | none => match c.preempt with
    | none => .fault .notDue
    | some t0 =>
      if (s.time - t0).toNat < c.drainNs || (s.teamsOf ctx).isEmpty then .fault .notDue else .next (s.beginSave ctx)
  | some t1 =>
    match (s.teamsOf ctx).find? s.drained with
    | some t =>
      let x := s.image t t1
      if s.saveFits x then .next (s.saveTeam t x)
      else if s.canPost then .next (s.terminate ctx 4 0 0)
      else .fault .notDue
    | none => if (s.teamsOf ctx).isEmpty then .next (s.modCtx ctx fun c => { c with saving := none }) else .fault .notDue

/-- SAVE_DEADLINE: a team is still resident after T0 + DRAIN + SAVEDL, and the context is terminated with cause 3. -/
def execSaveDeadline (ctx : Nat) (s : State) : Host.Outcome State Fault Refusal :=
  let c := s.ctx ctx
  let late := match c.preempt, c.saving with
    | some t0, _ => decide (c.drainNs + c.saveNs < (s.time - t0).toNat)
    | none, some t1 => decide (c.saveNs < (s.time - t1).toNat)
    | none, none => false
  if late && !(s.teamsOf ctx).isEmpty && s.canPost then .next (s.terminate ctx 3 0 0) else .fault .notDue

/-! ## The park-swap rule (R354) -/

/-- Every live, unfiled thread of the team on a core has been Parked for more than 100 µs (R354), and there is one (DEDUCED: a team
whose threads have all exited waits to retire, not to be saved). -/
def State.swapCandidate (s : State) (core : Nat) (t : Team) : Bool :=
  (t.fibres.any fun (f : Fibre) => t.coreOf f.fid == core && !f.live.isEmpty) &&
  t.fibres.all fun (f : Fibre) => t.coreOf f.fid != core || f.live.all fun l =>
    !f.frozen l && (match (f.thread l).st with
      | .parked _ _ since => decide (100000 < (s.time - since).toNat)
      | _ => false)

def State.teamsOn (s : State) (core : Nat) : List Team := s.teams.filter fun (t : Team) => (t.cores (s.recOf t)).contains core

/-- A launch of a context waits for resources of a core: no place takes its next team. -/
def State.waitsFor (s : State) (core : Nat) (l : Launch) : Bool :=
  (l.places.any fun p => p == core || (l.lrec.pair && p + 1 == core)) && (s.bestPlace l ((s.savedOf l).head?) []).isNone

/-- The candidates of a context on a core are saved, when all have drained and fit. -/
def State.saveAll (s : State) : List Team → Option State
  | [] => some s
  | t :: ts =>
    let s1 := s.stopTeam t
    match s1.team? t.uid with
    | none => s1.saveAll ts
    | some t1 =>
      if !s1.drained t1 then none
      else
        let x := s1.image t1 s.time
        if s1.saveFits x then (s1.saveTeam t1 x).saveAll ts
        else if s1.canPost then some (s1.terminate t1.ctx 4 0 0)
        else none

/-- The team that waited goes to a place that now takes it (R309). -/
def State.placeWaiting (s : State) (l : Launch) (x : Option SavedTeam) : Option State :=
  if l.lrec.coop && !l.lrec.qbound then s.placeAll l []
  else match s.launch? l.id with
    | none => none
    | some k => (s.bestPlace k x []).map fun c => s.placeAt k x c

/-- PARK_SWAP: every resident team of the core is a candidate and a team of an owning context waits; that context's candidates are
saved, and the waiting team is placed, in one event, or waits on where no place takes it yet. -/
def execParkSwap (core : Nat) (s : State) : Host.Outcome State Fault Refusal :=
  let here := s.teamsOn core
  if here.isEmpty || !here.all (s.swapCandidate core) then .fault .notDue
  else match s.readyLaunches.find? fun l => (here.any fun (t : Team) => t.ctx == l.lrec.ctx) && s.waitsFor core l with
    | none => .fault .notDue
    | some l => match s.saveAll (here.filter fun (t : Team) => t.ctx == l.lrec.ctx) with
      | none => .fault .notDue
      | some s1 =>
        if (s1.ctx l.lrec.ctx).dying then .next s1
        else .next ((s1.placeWaiting l (s.savedOf l).head?).getD s1)

/-! ## The watchdog (R355, R356) -/

/-- A barrier or rendezvous with a count: kind and id, fibre or slot, the address of the first waiter, since when it counts, and
what the capture says: members needed, members arrived, and the lanes arrived of each fibre. -/
structure Watched where
  kind : Nat
  id : Nat
  place : Nat
  pc : Word
  since : Word
  expect : Nat
  arrived : Nat
  lanes : Fibre → List Nat

/-- Threads of a team that are Blocked where a test says: fibre, lane, address and time. -/
def Team.blockedAt (t : Team) (p : Fibre → BlockKind → Bool) : List (Nat × Nat × Word × Word) :=
  t.fibres.flatMap fun (f : Fibre) => f.live.filterMap fun l => match (f.thread l).st with
    | .blocked k _ since => if p f k then some (f.fid, l, (f.thread l).pc, since) else none
    | _ => none

/-- The first waiter. -/
def firstWaiter : List (Nat × Nat × Word × Word) → Option (Word × Word)
  | [] => none
  | x :: xs => some ((xs.foldl (fun (a : Nat × Nat × Word × Word) y => if y.2.2.2.toNat < a.2.2.2.toNat then y else a) x).2.2)

def isTbar (id : Nat) (k : BlockKind) : Bool := match k with | .tbar b _ _ => b == id | _ => false
def isFbar (id : Nat) (k : BlockKind) : Bool := match k with | .fbar b _ => b == id | _ => false

/-- Team barriers (kind 0). -/
def State.watchTbar (s : State) (t : Team) : List Watched :=
  (List.range 16).filterMap fun id => (firstWaiter (t.blockedAt fun _ k => isTbar id k)).map fun w =>
    let live := (t.fibres.flatMap fun (f : Fibre) => f.live.map f.thread) ++ s.filedOf t.uid
    ⟨0, id, 0, w.1, w.2, live.length, (live.filter (hasArrived id)).length, fun f => f.live.filter fun l => hasArrived id (f.thread l)⟩

/-- A fibre stalls in `fbar.arrive` at a barrier of its slot (R141). -/
def Team.stallsAt (t : Team) (slot id : Nat) : List (Nat × Nat × Word × Word) :=
  let sl := t.slots.getD slot noSlot
  let b := sl.bars.getD id noBar
  t.fibres.filterMap fun (f : Fibre) => match f.arriveStall with
    | some (k, since) =>
      if f.slot == slot && k == id && b.phases < b.arrivals.getD (f.fid - sl.first) 0 then
        some (f.fid, 0, (match f.issue with | some i => i.addr | none => 0), since)
      else none
    | none => none

/-- Fibre barriers (kind 1). -/
def State.watchFbar (t : Team) : List Watched :=
  (List.range t.slots.length).flatMap fun slot => (List.range 4).filterMap fun id =>
    (firstWaiter ((t.blockedAt fun f k => f.slot == slot && isFbar id k) ++ t.stallsAt slot id)).map fun w =>
      let sl := t.slots.getD slot noSlot
      let b := sl.bars.getD id noBar
      ⟨1, id, sl.num, w.1, w.2, if b.target == 0 then (t.liveIn slot).length else b.target,
        (b.arrivals.filter (b.phases < ·)).length, fun f => if f.slot != slot then [] else f.live.filter fun l => match (f.thread l).st with
          | .blocked k _ _ => isFbar id k
          | _ => false⟩

/-- The live members of a rendezvous: of `join` every live thread, of `tret` those of the handler path, otherwise those named. -/
def Fibre.members (f : Fibre) (i : Instr) (m : Word) : List Nat :=
  match i with
  | .join _ => f.live
  | _ => f.live.filter fun l => m.getLsbD l

/-- `join` (kind 2), and the other rendezvous (kind 3). -/
def State.watchJoin (t : Team) : List Watched :=
  t.fibres.flatMap fun (f : Fibre) =>
    let at_ := f.live.filterMap fun l => match (f.thread l).st with
      | .blocked (.rendezvous m) i since => some ((f.thread l).pc, m, i, since)
      | _ => none
    ((at_.map fun x => (x.1, x.2.1)).eraseDups).filterMap fun (pc, m) =>
      (at_.find? fun x => x.1 == pc && x.2.1 == m).map fun x =>
        let since := ((at_.filter fun y => y.1 == pc && y.2.1 == m).map fun y => y.2.2.2).foldl (fun (a : Word) y => if y.toNat < a.toNat then y else a) x.2.2.2
        let g := f.group pc m
        ⟨match x.2.2.1 with | .join _ => 2 | .joinM _ => 2 | _ => 3, 0, f.fid, pc, since, (f.members x.2.2.1 m).length, g.length,
          fun h => if h.fid == f.fid then g else []⟩

/-- The counts of a team that exceed WDOG. -/
def State.watchDue (s : State) (t : Team) : List Watched :=
  (s.watchTbar t ++ State.watchFbar t ++ State.watchJoin t).filter fun w => decide ((s.ctx t.ctx).wdogNs < (s.time - w.since).toNat)

/-- PC of the path served next, or of the live thread in the lowest lane (R356). -/
def Fibre.watchPc (f : Fibre) : Word :=
  match f.select with
  | some p => p.1
  | none => match f.issue, f.live with
    | _, [] => 0
    | some i, l :: _ => if f.bundle.isEmpty then (f.thread l).pc else i.addr
    | none, l :: _ => (f.thread l).pc

/-- The entry of one fibre position. -/
def State.watchEntry (s : State) (t : Team) (arr : List Nat) (f : Fibre) : List Word :=
  let frozen := f.live.filter f.frozen
  let cnt (p : TState → Bool) : Nat := (f.live.filter fun l => !f.frozen l && p (f.thread l).st).length
  let iss := cnt fun st => match st with | .issuing => true | .waiting => true | _ => false
  let park := cnt fun st => match st with | .parked _ _ _ => true | _ => false
  let blk := cnt fun st => match st with | .blocked _ _ _ => true | _ => false
  let ext := (f.lanesWhere fun th => th.st == .exited).length
  let fcode := if frozen.isEmpty then 0 else f.frec.w0.toNat / 2 ^ 56
  [maskOf f.live, maskOf arr, BitVec.ofNat 64 (f.fid * 2 ^ 56 + f.watchPc.toNat % 2 ^ 56),
    BitVec.ofNat 64 (iss * 2 ^ 57 + park * 2 ^ 50 + blk * 2 ^ 43 + frozen.length * 2 ^ 36 + (s.filedFrom ⟨t.uid, f.fid⟩).length * 2 ^ 29 +
      ext * 2 ^ 22 + fcode * 2 ^ 8)]

/-- The capture record. -/
def State.capture (s : State) (t : Team) (w : Watched) : List Word :=
  let l := s.launch? t.launch
  let queue := (l.map (·.queue)).getD 0
  let index := (l.map (·.index)).getD 0
  [s.time, BitVec.ofNat 64 (t.ctx % 64 * 2 ^ 58 + queue % 16 * 2 ^ 54 + w.kind * 2 ^ 52 + w.id % 16 * 2 ^ 48 + index % 2 ^ 16 * 2 ^ 32 + t.index.toNat),
    w.pc, BitVec.ofNat 64 (t.fibres.length * 2 ^ 48 + w.place * 2 ^ 32 + w.expect * 2 ^ 16 + w.arrived), 0, 0, 0, 0] ++
    t.fibres.flatMap fun (f : Fibre) => s.watchEntry t (w.lanes f) f

/-- WATCHDOG_FIRE: the capture is written, and the context is terminated with cause 0 (R357). When several counts exceed WDOG, which
one fires is free. -/
def execWatchdogFire (team : Nat) (s : State) : Host.Outcome State Fault Refusal :=
  match s.team? team with
  | none => .fault .notDue
  | some t =>
    if (s.ctx t.ctx).saving.isSome || (s.ctx t.ctx).dying || !s.canPost2 then .fault .notDue
    else
      let due := s.watchDue t
      match due[Config.choice s.tick % due.length]? with
      | none => .fault .notDue
      | some w => .next ((s.event 5 false (s.capture t w)).terminate t.ctx 0 0 0)

/-! ## The end of a termination (R358) -/

/-- Engine work of a context that has started: array operations, requests, transfers and collectives. -/
def State.ctxEngines (s : State) (ctx : Nat) : Bool :=
  ((s.teamsOf ctx).any fun (t : Team) => s.engineBusy t.uid) || s.dies.any fun (d : Die) => d.xfers.any fun (x : Xfer) => x.ctx == ctx

/-- TERMINATION_COMPLETE: the last engine operation has finished, the freed resources serve other launches, and the record of R359 is written
(R432, R434). -/
def execTerminationComplete (ctx : Nat) (s : State) : Host.Outcome State Fault Refusal :=
  if !(s.ctx ctx).dying || s.ctxEngines ctx || !s.canPost then .fault .notDue
  else
    let s1 := (s.teamsOf ctx).foldl (fun (s : State) t => s.dropTeam t) s
    .next (({ s1 with launches := s1.launches.filter fun (l : Launch) => l.lrec.ctx != ctx }.modCtx ctx fun c => { c with dying := false }).event 6 false
      [s.time, (s.ctx ctx).termRec])

end Sys2Proof.Machine
end

