-- ==== Sys2Proof/Machine/Mailbox.lean ====
section
/-! DEFINITION. The management mailbox: registers (R364), the command ring and its commands (R365 to R367, R302, R326, R342, R347, R349,
R358, R389). -/

namespace Sys2Proof.Machine

/-! ## The command ring (R365) -/

/-- The ring is set up as R364 states, and a command waits. -/
def Mailbox.cmdReady (m : Mailbox) : Bool :=
  let n := m.cmdSize.toNat
  n == 2 ^ n.log2 && 16 ≤ n && n ≤ 4096 && m.cmdBase.toNat % 64 == 0 && m.cmdHead.toNat < m.cmdTail.toNat

/-- Local address of the entry at CMDHEAD. -/
def Mailbox.cmdAddr (m : Mailbox) : Nat := hostBase + (m.cmdBase.toNat + m.cmdHead.toNat % m.cmdSize.toNat * 64) % 2 ^ 45

def cmdOf (ws : List Word) : Cmd :=
  let w := ws.getD 0 0
  ⟨w.extractLsb' 48 16, w.getLsbD 8, w.extractLsb' 0 8, (List.range 7).map fun k => ws.getD (k + 1) 0⟩

/-- The next command, read through CXL.cache once the host has enabled it; in recovery CXL.io serves the ring (R372, R373; assumption
122). A package that needs a reset reads none (R361). -/
def State.nextCmd (s : State) : Option Cmd :=
  if s.mbox.cmdReady && (s.attach.cacheOn || s.fw.recovery) && !s.down && !s.attach.retry then some (cmdOf (bytesWords (cellsGet s.mem s.mbox.cmdAddr 64) 8)) else none

/-- STATUS is written, then CMDHEAD advances. -/
def State.finishCmd (s : State) (status : Nat) : State :=
  let s1 := s.writePlace (.ram (s.mbox.cmdAddr + 5)) [BitVec.ofNat 8 status] false
  { s1 with mbox := { s1.mbox with cmdHead := s1.mbox.cmdHead + 1 } }

/-- Operand k, in DWk. -/
def cmdDw (c : Cmd) (k : Nat) : Word := c.dws.getD (k - 1) 0
def cmdNat (c : Cmd) (k : Nat) : Nat := (cmdDw c k).toNat
def cmdDie (c : Cmd) : Nat := if c.die then 1 else 0

/-- A command executes when it is the next one of the ring; in recovery every command but 0x0B returns 0x03 (R373). The body answers
the state and STATUS, or none while a record that it needs cannot be held. -/
def command (op : Nat → Bool) (c : Cmd) (body : State → Option (State × Nat)) (s : State) : Host.Outcome State Fault Refusal :=
  if s.nextCmd != some c || !op c.op.toNat then .fault .notDue
  else if s.fw.recovery && c.op != 0x0B then .next (s.finishCmd 3)
  else match body s with
    | some (s', st) => .next (s'.finishCmd st)
    | none => .fault .notDue

/-! ## Contexts (R342, R366) -/

def State.admittedCtx (s : State) (ctx : Nat) : Bool := s.launches.any fun l => l.lrec.ctx == ctx && l.stage != .complete

/-- The descriptor's limits. -/
def ctxOk (root base size : Word) : Bool :=
  !root.getLsbD 0 || (base.toNat % 2 ^ 52 % 4096 == 0 && size.toNat % 4096 == 0)

/-- The number begins anew: no keys, counters zero, no armed triggers, no message queues. -/
def State.renewContext (s : State) (ctx : Nat) (w0 w1 w2 w3 : Word) : State :=
  let s1 : State := { s with
    dies := s.dies.map fun (d : Die) => { d with trigs := d.trigs.filter fun (t : Trig) => t.ctx != ctx }
    clusters := s.clusters.map fun (c : Cluster) => { c with
      queues := c.queues.map fun (q : MsgQ) => if q.owner == some ctx then ⟨none, []⟩ else q } }
  s1.modCtx ctx fun (c : Context) => { Context.reset with
    valid := w0.getLsbD 0
    sys := w0.getLsbD 1
    root := w0.field 12 40 * 4096
    saveBase := w1.field 0 52
    saveSize := w2.toNat
    wdog := w3.field 32 16
    drain := w3.field 16 16
    saveDl := w3.field 0 16
    dying := c.dying }

/-- REGISTER_CONTEXT: DW1 holds the number, DW2 to DW5 the doublewords of R342. -/
def execRegisterContext (c : Cmd) (s : State) : Host.Outcome State Fault Refusal :=
  command (· == 0x01) c (fun s =>
    let ctx := cmdNat c 1
    if 64 ≤ ctx then some (s, 2)
    else if (s.ctx ctx).valid && s.admittedCtx ctx then some (s, 3)
    else if !ctxOk (cmdDw c 2) (cmdDw c 3) (cmdDw c 4) then some (s, 2)
    else some (s.renewContext ctx (cmdDw c 2) (cmdDw c 3) (cmdDw c 4) (cmdDw c 5), 0)) s

/-! ## Queues (R302, R326) -/

def State.setQueue (s : State) (die q : Nat) (r : QueueReg) : State :=
  s.modDie die fun (d : Die) => { d with queues := d.queues.set q (some r) }

/-- REGISTER_LAUNCH_QUEUE: DW1 queue, DW2 context, DW3 descriptor address, DW4 enable. A queue whose descriptor fails a check stays
disabled. -/
def execRegisterLaunchQueue (c : Cmd) (s : State) : Host.Outcome State Fault Refusal :=
  command (· == 0x02) c (fun s =>
    let ctx := cmdNat c 2
    if 16 ≤ cmdNat c 1 || 64 ≤ ctx then some (s, 2)
    else
      let r (on : Bool) : State := s.setQueue (cmdDie c) (cmdNat c 1) ⟨ctx, cmdDw c 3, on⟩
      if !(cmdDw c 4).getLsbD 0 then some (r false, 0)
      else if (s.ctx ctx).valid && (s.goodQueue ctx (cmdNat c 3)).isSome then some (r true, 0)
      else some (r false, 2)) s

/-- REGISTER_RECLAIM_QUEUE: DW1 base, DW2 capacity, DW3 head address, as local physical addresses. -/
def execRegisterReclaimQueue (c : Cmd) (s : State) : Host.Outcome State Fault Refusal :=
  command (· == 0x03) c (fun s =>
    let b := cmdNat c 1
    let n := cmdNat c 2
    let h := cmdNat c 3
    if b % 16 != 0 || n == 0 || n != 2 ^ n.log2 || h % 8 != 0 || !(isHbm b || isHost b) || !(isHbm h || isHost h) then some (s, 2)
    else some ({ s with reclaim := some ⟨b, n, h, 0⟩ }, 0)) s

/-- REQUANTISER_THRESHOLD: DW1 the threshold in ms (R322). -/
def execRequantiserThreshold (c : Cmd) (s : State) : Host.Outcome State Fault Refusal :=
  command (· == 0x04) c (fun s => some (s.modDie (cmdDie c) fun (d : Die) => { d with threshold := cmdNat c 1 }, 0)) s

/-! ## Translation and pages (R346 to R348, R366, R367) -/

/-- INVALIDATE_TRANSLATION: DW1 context, DW2 virtual address, DW3 bit 0 all. -/
def execInvalidateTranslation (c : Cmd) (s : State) : Host.Outcome State Fault Refusal :=
  command (· == 0x05) c (fun s =>
    if 64 ≤ cmdNat c 1 then some (s, 2)
    else some (s.invalidate (cmdNat c 1) (if (cmdDw c 3).getLsbD 0 then none else some (cmdNat c 2)), 0)) s

/-- Fibres that a page request freezes: of the context, on the die, with an address in the page. -/
def State.attached (s : State) (ctx die page : Nat) : List (FibreRef × PageWait) :=
  (s.teamsOf ctx).flatMap fun (t : Team) => t.fibres.filterMap fun (f : Fibre) => match f.pageWait with
    | some w => if (w.vas.any fun a => a.toNat / 4096 == page) && t.coreOf f.fid / 64 == die then some (⟨t.uid, f.fid⟩, w) else none
    | none => none

/-- The fibre leaves the page request: it executes again from its stop. -/
def State.retryPage (s : State) (r : FibreRef) : State := s.modFibre r fun f => { f with
  pageWait := none
  fetched := false }

/-- The fibre takes the fault of its request at the stop. A context that an earlier fibre has ended takes no more. -/
def State.failPage (s : State) (r : FibreRef) (w : PageWait) : State :=
  match s.fibre? r with
  | none => s
  | some f =>
    if f.pageWait.isNone then s
    else
      let lanes := lanesOf w.lanes f.width
      let t := f.thread (lanes.headD 0)
      (s.retryPage r).trap r lanes (t.clause.getD t.pc) f.tpc w.flt

/-- PAGE_REPLY: DW1 context, DW2 virtual address, DW3 bit 0: 0 retry, 1 fail; the die is that of DW0. -/
def execPageReply (c : Cmd) (s : State) : Host.Outcome State Fault Refusal :=
  command (· == 0x06) c (fun s =>
    let ctx := cmdNat c 1
    let q : PageReq := ⟨ctx, cmdNat c 2 / 4096, cmdDie c⟩
    if 64 ≤ ctx then some (s, 2)
    else if (s.ctx ctx).dying || !s.pageReqs.contains q then some (s, 1)
    else
      let s1 := { s with pageReqs := s.pageReqs.filter (· != q) }
      let fs := s.attached ctx (cmdDie c) q.vpage
      if !(cmdDw c 3).getLsbD 0 then some (fs.foldl (fun (s : State) x => s.retryPage x.1) s1, 0)
      else if !s.canPost then none
      else some (fs.foldl (fun (s : State) x => s.failPage x.1 x.2) s1, 0)) s

/-! ## Pre-emption and termination (R349, R358, R366) -/

/-- PREEMPT_CONTEXT: DW1 the context. -/
def execPreemptContext (c : Cmd) (s : State) : Host.Outcome State Fault Refusal :=
  command (· == 0x07) c (fun s =>
    let ctx := cmdNat c 1
    if 64 ≤ ctx || !(s.ctx ctx).valid then some (s, 2)
    else if (s.ctx ctx).preempt.isSome then some (s, 1)
    else some (s.modCtx ctx fun (k : Context) => { k with preempt := some s.time }, 0)) s

/-- LIFT_PREEMPTION: DW1 the context; its saved teams become placeable. -/
def execLiftPreemption (c : Cmd) (s : State) : Host.Outcome State Fault Refusal :=
  command (· == 0x08) c (fun s =>
    let ctx := cmdNat c 1
    if 64 ≤ ctx then some (s, 2)
    else if (s.ctx ctx).preempt.isNone then some (s, 1)
    else some (s.modCtx ctx fun (k : Context) => { k with preempt := none }, 0)) s

/-- TERMINATE_CONTEXT: DW1 the context; cause 7. -/
def execTerminateContext (c : Cmd) (s : State) : Host.Outcome State Fault Refusal :=
  command (· == 0x09) c (fun s =>
    let ctx := cmdNat c 1
    if 64 ≤ ctx || !(s.ctx ctx).valid then some (s, 2)
    else if (s.ctx ctx).dying then some (s, 1)
    else if !s.canPost then none
    else some (s.terminate ctx 7 0 0, 0)) s

/-! ## Window keys (R389) -/

def keyOf (c : Cmd) : WKey :=
  let w := cmdDw c 1
  ⟨w.getLsbD 57, w.field 48 8, w.field 42 6, w.getLsbD 2, w.getLsbD 1, w.getLsbD 0, (cmdDw c 2).field 0 52, cmdNat c 3, (cmdDw c 4).extractLsb' 0 32,
    cmdDw c 5⟩

/-- Why R389 refuses an entry: a reserved bit, a BASE or SIZE that is not whole pages, a foreign import base, an export that is not local. -/
def keyBad (pkg : Nat) (c : Cmd) : Bool :=
  let k := keyOf c
  (cmdDw c 1).field 3 39 != 0 || (cmdDw c 2).field 52 12 != 0 || (cmdDw c 4).field 32 32 != 0 || cmdDw c 6 != 0 || cmdDw c 7 != 0 ||
    k.base % 4096 != 0 || k.size % 4096 != 0 || k.size == 0 ||
    (if k.exp then k.peer != 0 || pkgOf k.base != pkg || pkgOf (k.base + k.size - 1) != pkg else k.sources != 0 || pkgOf k.base != k.peer)

/-- REGISTER_WINDOW_KEY installs or removes an entry. -/
def execRegisterWindowKey (c : Cmd) (s : State) : Host.Outcome State Fault Refusal :=
  command (· == 0x0A) c (fun s =>
    let k := keyOf c
    if keyBad s.pkg.toNat c then some (s, 2)
    else some (s.modCtx ((cmdDw c 1).field 58 6) fun (x : Context) => { x with
      keys := (if (cmdDw c 1).getLsbD 56 then [k] else []) ++ x.keys.filter fun (y : WKey) => !(y.exp == k.exp && y.index == k.index) }, 0)) s

/-! ## Firmware, power, reserved codes -/

/-- FIRMWARE_CHUNK: DW1 offset, DW2 length, DW3 host address; the bytes go to flash (R373). -/
def execFirmwareChunk (c : Cmd) (s : State) : Host.Outcome State Fault Refusal :=
  command (· == 0x0B) c (fun s =>
    let bs := cellsGet s.mem (hostBase + cmdNat c 3 % 2 ^ 45) (cmdNat c 2)
    some ({ s with fw := { s.fw with chunks := s.fw.chunks ++ [(cmdDw c 1, bs)] } }, 0)) s

/-- LIMIT at a junction temperature: 25 W less for each degree above 100 °C (R375). -/
def limitAt (setLimit : BitVec 16) (tj : BitVec 8) : BitVec 16 := setLimit - BitVec.ofNat 16 (25 * (tj.toNat - 100))

/-- SET_POWER_LIMIT: DW1 watts, 1,200 to 2,400. -/
def execSetPowerLimit (c : Cmd) (s : State) : Host.Outcome State Fault Refusal :=
  command (· == 0x0C) c (fun s =>
    let w := cmdNat c 1
    if w < 1200 || 2400 < w then some (s, 2)
    else some ({ s with power := { s.power with
      setLimit := BitVec.ofNat 16 w
      limit := limitAt (BitVec.ofNat 16 w) s.power.tjmax } }, 0)) s

/-- RESERVED_COMMAND: STATUS 0x02. -/
def execReservedCommand (c : Cmd) (s : State) : Host.Outcome State Fault Refusal :=
  command (fun n => n == 0 || 0x0D ≤ n) c (fun s => some (s, 2)) s

/-- The device executes the next command of the ring. -/
def runCommand (c : Cmd) (s : State) : Host.Outcome State Fault Refusal :=
  match c.op.toNat with
  | 0x01 => execRegisterContext c s
  | 0x02 => execRegisterLaunchQueue c s
  | 0x03 => execRegisterReclaimQueue c s
  | 0x04 => execRequantiserThreshold c s
  | 0x05 => execInvalidateTranslation c s
  | 0x06 => execPageReply c s
  | 0x07 => execPreemptContext c s
  | 0x08 => execLiftPreemption c s
  | 0x09 => execTerminateContext c s
  | 0x0A => execRegisterWindowKey c s
  | 0x0B => execFirmwareChunk c s
  | 0x0C => execSetPowerLimit c s
  | _ => execReservedCommand c s

/-! ## Registers (R364) -/

/-- A write of a mailbox register; read-only and unlisted offsets ignore it. Held events move when the ring gains room (R369). -/
def Mailbox.write (m : Mailbox) (offset : Nat) (v : Word) : Mailbox :=
  match offset with
  | 0x00 => { m with cmdBase := v }
  | 0x08 => { m with cmdSize := v }
  | 0x10 => { m with cmdTail := v }
  | 0x20 => { m with evBase := v }
  | 0x28 => { m with evSize := v }
  | 0x30 => { m with evHead := v }
  | _ => m

/-- FWSTAT (R373). -/
def Firmware.stat (f : Firmware) : Word :=
  BitVec.ofNat 64 (f.version.toNat * 2 ^ 32 + f.svn.toNat * 2 ^ 16 + (if f.rsaOk then 4 else 0) + (if f.slhOk then 2 else 0) +
    (if f.recovery then 1 else 0))

/-- PWRSTAT (R371). -/
def Power.stat (p : Power) : Word :=
  BitVec.ofNat 64 (p.draw.toNat * 2 ^ 48 + p.limit.toNat * 2 ^ 32 + p.gcap.toNat * 2 ^ 28 + p.fcap.toNat * 2 ^ 24 + p.tjmax.toNat * 2 ^ 16 +
    (if p.therm then 2 else 0) + (if p.gcap.toNat < 8 || p.fcap.toNat < 8 then 1 else 0))

/-- What a read of BAR0 yields (R364); offsets that are not listed read zero. -/
def State.mailboxRead (s : State) (offset : Nat) : Word :=
  match offset with
  | 0x00 => s.mbox.cmdBase
  | 0x08 => s.mbox.cmdSize
  | 0x10 => s.mbox.cmdTail
  | 0x18 => s.mbox.cmdHead
  | 0x20 => s.mbox.evBase
  | 0x28 => s.mbox.evSize
  | 0x30 => s.mbox.evHead
  | 0x38 => s.mbox.evTail
  | 0x40 => s.mbox.evLost
  | 0x48 => s.power.stat
  | 0x50 => s.fw.stat
  | _ => 0

/-- MAILBOX_REGISTER_WRITE: a write of CMDTAIL is the doorbell. -/
def execMailboxRegisterWrite (offset : Nat) (v : BitVec 64) (s : State) : Host.Outcome State Fault Refusal :=
  let s1 := { s with mbox := s.mbox.write offset v }
  .next s1.drainEvents

end Sys2Proof.Machine
end

