-- ==== Sys2Proof/Machine/Package.lean ====
section
/-! DEFINITION. The package: errors in arrays and memory (R189, R237, R277, R285, R360, R361), host accesses (R283, R293), reset and
firmware (R372, R373), power and temperature (R374, R375), SPDM and IDE (R363, R372). -/

namespace Sys2Proof.Machine

/-! ## Errors in a core (R189, R190, R360) -/

/-- ARRAY of a core error record. -/
def sramArray : SramTarget → Nat
  | .accElem _ _ => 1
  | .clauseCache => 2
  | .galleryRow _ _ _ => 3
  | _ => 0

def poisonRow (x : Row) : Row := { x with poison := true }

/-- A row of a register of a fibre. -/
def Team.poisonReg (t : Team) (fid reg lane : Nat) : Team :=
  match t.fibre? fid with
  | none => t
  | some f => let v := t.reg f reg; t.putReg fid reg [(lane, poisonRow (v.row lane))] v.shape

/-- Every record of a tape, with its checkpoints and its local tape. -/
def Tape.records (t : Tape) : List TapeRec := t.spans.flatMap (fun (sp : Span) => sp.recs ++ sp.ckpt.toList) ++ t.localRecs

def Tape.mapRecs (g : TapeRec → TapeRec) (t : Tape) : Tape :=
  { t with
    spans := t.spans.map fun (sp : Span) => { sp with
      recs := sp.recs.map g
      ckpt := sp.ckpt.map g }
    localRecs := t.localRecs.map g }

/-- The row of a register in the record of an entry. -/
def TapeRec.poison (entry reg : Nat) (x : TapeRec) : TapeRec :=
  if x.entry != entry then x
  else { x with regs := x.regs.map fun (n, r, u) => if n == reg then (n, poisonRow r, u) else (n, r, u) }

/-- A row that a tape holds: the tape's team and thread, entry and register, and whether one word serves all members (R216). -/
structure TapeRow where
  team : BitVec 32
  tid : BitVec 32
  entry : Nat
  reg : Nat
  shared : Bool

def Tape.rows (t : Tape) : List TapeRow := t.records.flatMap fun (x : TapeRec) => x.regs.map fun (n, _, u) => ⟨t.team, t.tid, x.entry, n, u⟩

def TapeArea.poisonRow (a : TapeArea) (x : TapeRow) : TapeArea :=
  { a with tapes := a.tapes.map fun (t : Tape) =>
      if t.team == x.team && (x.shared || t.tid == x.tid) then t.mapRecs (TapeRec.poison x.entry x.reg) else t }

/-- One of the rows of some tapes of an area is poisoned: which one a word holds is internal to the engine, and free (R213; assumption 123). -/
def State.poisonOne (s : State) (a : TapeArea) (rows : List TapeRow) (k : Nat) : State :=
  match rows[Config.choice (s.tick * 2 ^ 16 + k) % rows.length]? with
  | some x => s.putArea (a.poisonRow x)
  | none => s

/-- A word of the ring of a team: of an entry that stands in the ring, of the thread. -/
def State.poisonTape (s : State) (team tid : Nat) : State :=
  match s.team? team with
  | none => s
  | some t => match s.area? (s.recOf t) with
    | none => s
    | some a => s.poisonOne a ((a.tapes.flatMap Tape.rows).filter fun x =>
        x.team == t.index && x.tid.toNat == tid && t.ring.any fun i => i.entry == x.entry) 0

/-- Entries of an area that stand in no ring. -/
def State.spilledRows (s : State) (a : TapeArea) : List TapeRow :=
  (a.tapes.flatMap Tape.rows).filter fun x => !s.teams.any fun (t : Team) =>
    t.ctx == a.ctx && (s.recOf t).tbase == a.base && t.ring.any fun i => i.entry == x.entry

/-- A page of a tape area has its frame at a local address. -/
def State.areaCovers (s : State) (a : TapeArea) (la : Nat) : Bool :=
  (List.range (a.quota / 4096)).any fun k => match s.translate a.ctx (a.base.toNat + 4096 * k) with
    | .leaf l => l.frame + (a.base.toNat + 4096 * k) % l.size == s.pkg.toNat * 2 ^ 46 + la / 4096 * 4096
    | _ => false

/-- A sector of a tape area holds up to eight words of spilled rows (R221, R237). -/
def State.poisonAreas (s : State) (la : Nat) : State :=
  (s.areas.filter fun a => s.areaCovers a la).foldl (fun (s : State) a =>
    (List.range 8).foldl (fun (s : State) k => match s.areas.find? fun (b : TapeArea) => b.ctx == a.ctx && b.base == a.base with
      | some b => s.poisonOne b (s.spilledRows b) k
      | none => s) s) s

def FiledThread.poison (x : FiledThread) (reg : Nat) : FiledThread :=
  { x with regs := x.regs.map fun (n, r) => if n == reg then (n, poisonRow r) else (n, r) }

/-- What an uncorrectable error does to its array. L1 lines and clause cache lines are fetched again. -/
def State.sramLoss (s : State) (e : SramError) : State :=
  match e.target with
  | .regRow r reg lane => s.modTeam r.team fun t => t.poisonReg r.fid reg lane
  | .scratchWord bank off => s.modCore e.core fun c => { c with banks := c.banks.modify bank fun (b : Bank) => { b with poison := marks b.poison [off / 8] } }
  | .fifoWord team tid => s.poisonTape team tid
  | .accElem bank off => s.modCore e.core fun c => { c with acc := c.acc.modify bank fun (b : AccBank) => { b with poison := marks b.poison [off / 4] } }
  | .galleryRow bin thread reg => s.modCore e.core fun c => { c with
      gallery := c.gallery.modify bin fun (b : Option Bin) => b.map fun b => { b with threads := b.threads.modify thread fun x => x.poison reg } }
  | .l1Line _ => s
  | .clauseCache => s

/-- The context of a team. -/
def State.teamCtx (s : State) (uid : Nat) : Option Nat := (s.team? uid).map (·.ctx)

/-- CTX, BANK and WORD of an error are those of its target (R190): a pool bank has 4,096 words and an accumulator bank 8,192. Which bank of
a register share, or of a ring, holds a row is internal to the core. -/
def State.sramOk (s : State) (e : SramError) : Bool :=
  let role (k : Nat) : Role := ((s.core e.core).banks.getD k (Bank.reset 8)).role
  let ctxIs (uid : Nat) : Bool := s.teamCtx uid == some e.ctx.toNat
  match e.target with
  | .regRow r _ _ => (match s.team? r.team with
    | some t => t.ctx == e.ctx.toNat && t.coreOf r.fid == e.core && role e.bank.toNat == .regShare t.launch && e.word.toNat < 4096
    | none => false)
  | .scratchWord bank off => bank == e.bank.toNat && off / 8 == e.word.toNat && (match role bank with
    | .scratch u _ _ => ctxIs u
    | r => r == .free)
  | .l1Line bank => bank == e.bank.toNat && e.word.toNat < 4096 && role bank == .l1
  | .fifoWord team _ => (match role e.bank.toNat with | .fifo u _ _ => u == team | _ => false) && ctxIs team && e.word.toNat < 4096
  | .accElem bank off => bank < 8 && bank == e.bank.toNat && off / 8 == e.word.toNat && (match ((s.core e.core).acc.getD bank .reset).owner with
    | some u => ctxIs u
    | none => true)
  | .clauseCache => true
  | .galleryRow bin _ _ => (match (s.core e.core).gallery.getD bin none with | some b => ctxIs b.team | none => false)

/-- SRAM_ECC_ERROR: a corrected error is counted; an uncorrectable one is handled by its array; both are recorded. -/
def execSramEccError (e : SramError) (s : State) : Host.Outcome State Fault Refusal :=
  let record := coreRecord s.time e.ctx.toNat e.bank.toNat e.word.toNat e.syn.toNat (sramArray e.target)
  if s.cores.length ≤ e.core || !s.sramOk e then .fault .notDue
  else if e.uncorrectable then (if s.canPost then .next ((s.sramLoss e).event 1 false (record 1)) else .fault .notDue)
  else .next ((s.modCore e.core fun c => { c with corrected := c.corrected + 1 }).event 1 true (record 0))

/-- ARRAY of the record for state without poison: the gallery for a bin header; the spec names no array for the rest. -/
def stateArray (tick : Nat) : StateKind → Nat
  | .binHeader => 3
  | _ => (Config.freeWord tick).toNat % 16

/-- UNCORRECTABLE_STATE_ERROR: a record, and the owning context is terminated with cause 8; a corrected error changes nothing else. -/
def execUncorrectableStateError (e : StateError) (s : State) : Host.Outcome State Fault Refusal :=
  let record := coreRecord s.time e.ctx.toNat e.bank.toNat e.word.toNat e.syn.toNat (stateArray s.tick e.what)
  if s.cores.length ≤ e.core then .fault .notDue
  else if e.uncorrectable then
    (if s.canPost2 then .next ((s.event 1 false (record 1)).terminate e.ctx.toNat 8 0 0) else .fault .notDue)
  else .next ((s.modCore e.core fun c => { c with corrected := c.corrected + 1 }).event 1 true (record 0))

/-! ## Errors in a cluster (R277) -/

/-- UNIT and ENTRY of a cluster error record. -/
def clusterUnit : ClusterTarget → Nat × Nat
  | .messageRow q _ _ => (0, q)
  | .messageHeader q _ => (0, q)
  | .reservation k => (1, k)
  | .rasteriser k => (2, k)

def Msg.poisonRow (m : Msg) (lane : Nat) : Msg := { m with rows := m.rows.modify lane fun (x : Option Row) => x.map Machine.poisonRow }

def Cluster.loss (c : Cluster) : ClusterTarget → Cluster
  | .messageRow q m lane => { c with queues := c.queues.modify q fun (x : MsgQ) => { x with msgs := x.msgs.modify m fun y => y.poisonRow lane } }
  | .messageHeader q m => { c with queues := c.queues.modify q fun (x : MsgQ) => { x with msgs := x.msgs.modify m fun (y : Msg) => { y with poison := true } } }
  | .reservation k => { c with table := c.table.modify k fun (g : GReq) => { g with poison := true } }
  | .rasteriser _ => c

/-- CLUSTER_ECC_ERROR: a message row or header is delivered poisoned, a request's results are poisoned, and the rasteriser ends the
context of its triangle. -/
def execClusterEccError (e : ClusterError) (s : State) : Host.Outcome State Fault Refusal :=
  let u := clusterUnit e.target
  let record := clusterRecord s.time e.ctx.toNat e.cluster u.2 e.syn.toNat u.1
  if s.clusters.length ≤ e.cluster then .fault .notDue
  else if !e.uncorrectable then .next (s.event 2 true (record 0))
  else match e.target with
    | .rasteriser k => if s.canPost2 then .next (s.rasterFails e.cluster e.ctx.toNat k e.syn.toNat 2) else .fault .notDue
    | t => if s.canPost then .next ((s.modCluster e.cluster fun c => c.loss t).event 2 false (record 1)) else .fault .notDue

/-! ## Errors in memory and scatter units (R237, R285, R361, R362) -/

/-- MEMORY_ECC_ERROR: an uncorrectable error poisons its sector, and rows that a tape has spilled there. -/
def execMemoryEccError (e : MemoryError) (s : State) : Host.Outcome State Fault Refusal :=
  let record := memRecord s.time (if e.uncorrectable then 1 else 0) e.unit.toNat (s.pkg.toNat * 2 ^ 46 + e.addr / 64 * 64)
  if !(isHbm e.addr || isHost e.addr) || 1 < e.unit.toNat then .fault .notDue
  else if !e.uncorrectable then .next ({ s with corrected := s.corrected + 1 }.event 3 true record)
  else if s.canPost then .next ((State.poisonAreas { s with poison := marks s.poison [e.addr / 64] } e.addr).event 3 false record)
  else .fault .notDue

/-- One sum of a target is poisoned, in its accumulator or in its spill record; of which launch, where several have one, is free. -/
def State.poisonSum (s : State) (target : Nat) (record : Bool) : State :=
  if record then
    let sums := s.launches.filterMap fun (l : Launch) => (l.recordOf target).map fun k => (l, k)
    match sums[Config.choice s.tick % sums.length]? with
    | some (l, k) => if s.recordOk l k then s.writeRecord l k { s.readRecord l k with pois := true } else s
    | none => s
  else
    let sums := s.accs.filter fun (a : ScatAcc) => a.target == target
    match sums[Config.choice s.tick % sums.length]? with
    | some x => { s with accs := s.accs.map fun (a : ScatAcc) => if a == x then { a with pois := true } else a }
    | none => s

/-- SCATTER_UNIT_ERROR. -/
def execScatterUnitError (target : Nat) (record : Bool) (s : State) : Host.Outcome State Fault Refusal :=
  if s.canPost then .next ((s.poisonSum target record).event 3 false (memRecord s.time 1 2 target)) else .fault .notDue

/-- PATROL_SCRUB: a word of HBM is read and corrected; an error that it finds is an event of its own. -/
def execPatrolScrub (addr : Nat) (s : State) : Host.Outcome State Fault Refusal := if isHbm addr then .next s else .fault .notDue

/-- Every context in use ends with cause uncorrectable state, and the package needs a reset. -/
def State.endAll (s : State) : State :=
  { (List.range s.ctxs.length).foldl (fun (s : State) c => if (s.ctx c).valid then s.terminate c 8 0 0 else s) s with down := true }

/-- BRIDGE_FLIT_FAILURE: up to 16 replays change nothing; a flit that still fails ends every context (R361). -/
def execBridgeFlitFailure (replays : Nat) (s : State) : Host.Outcome State Fault Refusal :=
  if replays < 16 then .next s
  else if s.mbox.held.length + (s.ctxs.filter fun (c : Context) => c.valid).length ≤ 1024 then .next s.endAll
  else .fault .notDue

/-! ## The host (R283, R293, R363) -/

/-- HOST_SNOOP: the host's stores to a line of its memory, if any, come with the snoop of the line; the slice answers after it has given
up its copy. -/
def execHostSnoop (line : Nat) (stores : List Host.Cell) (s : State) : Host.Outcome State Fault Refusal :=
  if !s.attach.cacheOn || s.fw.recovery || !isHost line || line % 64 != 0 || stores.any (fun c => c.1 < line || line + 64 ≤ c.1) then .fault .notDue
  else
    let whole := (List.range 64).all fun k => stores.any fun c => c.1 == line + k
    let s1 := stores.foldl (fun (s : State) c => s.writePlace (s.place (s.pkg.toNat * 2 ^ 46 + c.1)) [c.2] false) s
    let s2 := if whole then { s1 with poison := markClear s1.poison (line / 64) } else s1
    .next { s2 with attach := { s2.attach with snooped := s2.attach.snooped ++ [line] } }

/-- The local address of a host physical address inside the HDM window, which maps the HBM of die 0 and then that of die 1. -/
def hdmLocal (hdmBase addr : Nat) : Option Nat :=
  if addr < hdmBase then none
  else
    let k := addr - hdmBase
    if k < 0x3000000000 then some k else if k < 0x6000000000 then some (k + 0x1000000000) else none

/-- HOST_MEM_ACCESS: a host access through CXL.mem inside one 4 KiB page, at its home slice or forwarded to a registered bank. -/
def execHostMemAccess (a : HostAccess) (s : State) : Host.Outcome State Fault Refusal :=
  let go (addr n : Nat) (k : Place → State) : Host.Outcome State Fault Refusal :=
    match hdmLocal s.attach.hdmBase addr with
    | none => .fault .notDue
    | some la =>
      if !s.attach.memOn || s.fw.recovery || n == 0 || la / 4096 != (la + n - 1) / 4096 then .fault .notDue
      else .next (k (s.place (s.pkg.toNat * 2 ^ 46 + la)))
  match a with
  | .read addr n => go addr n fun p => { s with attach := { s.attach with reads := s.attach.reads ++ [(s.readPlace p n).1] } }
  | .write addr bs => go addr bs.length fun p => s.storeAt p bs false

/-- CONFIGURATION_REQUEST: answered with retry until bring-up ends; the host enables CXL.mem and CXL.cache (R372 step 5). -/
def execConfigurationRequest (q : ConfigReq) (s : State) : Host.Outcome State Fault Refusal :=
  if s.attach.retry then .next s
  else match q with
    | .read => .next s
    | .enable mem cache base => .next { s with attach := { s.attach with
        memOn := mem
        cacheOn := cache
        hdmBase := base } }

/-! ## Reset, firmware, main power (R370, R372, R373) -/

/-- Host memory is the host's, and stays. -/
def hostCells (m : List Host.Cell) : List Host.Cell := m.filter fun c => isHost c.1

/-- The state after all of it is lost: what is fused or in flash stays, and the model's own counters go on. -/
def State.lost (s : State) : State := { State.reset with
  mem := hostCells s.mem
  home := hostCells s.home
  tick := s.tick
  fresh := s.fresh
  inbox := s.inbox
  fw := { s.fw with
    version := 0
    recovery := false } }

/-- The image that the boot ROM reads: the chunks written since the last boot make a new one (R373). -/
def Firmware.found (fw : Firmware) : FirmwareImage :=
  if fw.chunks.isEmpty then fw.image
  else ⟨Config.flashVersion fw.chunks, Config.flashSvn fw.chunks, Config.flashRsa fw.chunks, Config.flashSlh fw.chunks⟩

/-- FIRMWARE_VERIFY: both signatures, and a security version not below the fused minimum. -/
def imageOk (fw : Firmware) (img : FirmwareImage) : Bool := img.rsaOk && img.slhOk && fw.svn.toNat ≤ img.svn.toNat

/-- A passing image raises the fused minimum; a failing one leaves the recovery state. -/
def bootFirmware (fw : Firmware) : Firmware :=
  let img := fw.found
  { version := if imageOk fw img then img.version else 0
    svn := if imageOk fw img then img.svn else fw.svn
    rsaOk := img.rsaOk
    slhOk := img.slhOk
    recovery := !imageOk fw img
    chunks := []
    image := img }

/-- PACKAGE_RESET: the boot ROM verifies the image that it finds in flash, HBM is zero, and every reset value of R8 is set. The package is
given its id, and answers configuration requests with retry until its bring-up has ended (R372). -/
def execPackageReset (pkg : BitVec 6) (s : State) : Host.Outcome State Fault Refusal :=
  .next { s.lost with
    pkg := pkg
    fw := bootFirmware s.fw
    attach := { Attach.reset with retry := true } }

/-- The package is off until its next reset. -/
def State.off (s : State) : State := { s.lost with on := false }

/-- POWER_LOSS: all state is lost (R370). -/
def execPowerLoss (s : State) : Host.Outcome State Fault Refusal := .next s.off

/-! ## Power and temperature (R371, R374, R375) -/

/-- Package demand at caps g and f, in eighths of a watt: each engine draws 22 W and each array 6 W at the full rate (R374). -/
def demandAt (full busyGrad busyFwd g f : Nat) : Nat := 8 * full - busyGrad * 22 * (8 - g) - busyFwd * 6 * (8 - f)

/-- GCAP falls one eighth at a time down to 1, and only then FCAP (R374). -/
def lowerCaps (demand : Nat → Nat → Nat) (limit : Nat) : Nat → Nat × Nat → Nat × Nat
  | 0, c => c
  | n + 1, (g, f) =>
    if demand g f ≤ limit then (g, f)
    else if 1 < g then lowerCaps demand limit n (g - 1, f)
    else if 1 < f then lowerCaps demand limit n (g, f - 1)
    else (g, f)

/-- Caps rise one eighth while the demand stays within the limit; FCAP first, since it is below 8 only while GCAP is 1. -/
def raiseCaps (demand : Nat → Nat → Nat) (limit : Nat) (c : Nat × Nat) : Nat × Nat :=
  if c.2 < 8 then (if demand c.1 (c.2 + 1) ≤ limit then (c.1, c.2 + 1) else c)
  else if c.1 < 8 then (if demand (c.1 + 1) c.2 ≤ limit then (c.1 + 1, c.2) else c)
  else c

/-- POWER_ARBITER_PERIOD: the demand at the full rate, and the engines and arrays that are busy. -/
def execPowerArbiterPeriod (draw : BitVec 16) (busyGrad busyFwd : Nat) (s : State) : Host.Outcome State Fault Refusal :=
  let d := demandAt draw.toNat busyGrad busyFwd
  let lim := 8 * s.power.limit.toNat
  let now := (s.power.gcap.toNat, s.power.fcap.toNat)
  let c := if lim < d now.1 now.2 then lowerCaps d lim 16 now else raiseCaps d lim now
  .next { s with power := { s.power with
    draw := BitVec.ofNat 16 (d c.1 c.2 / 8)
    gcap := BitVec.ofNat 4 c.1
    fcap := BitVec.ofNat 4 c.2 } }

/-- THERMAL_LIMIT_CHANGE: the hottest junction; above 100 °C LIMIT falls and THERM is set, with a KIND 7 event at each change. -/
def execThermalLimitChange (celsius : BitVec 8) (s : State) : Host.Outcome State Fault Refusal :=
  if 110 ≤ celsius.toNat then .fault .notDue
  else
    let p := { s.power with
      tjmax := celsius
      limit := limitAt s.power.setLimit celsius
      therm := decide (100 < celsius.toNat) }
    let s1 := { s with power := p }
    if p.limit == s.power.limit && p.therm == s.power.therm then .next s1
    else if s.canPost then .next (s1.event 7 false [s.time, p.stat])
    else .fault .notDue

/-- THERMAL_TRIP: at 110 °C the package stops as at a loss of main power. -/
def execThermalTrip (s : State) : Host.Outcome State Fault Refusal := .next s.off

/-! ## SPDM and IDE over DOE (R363, R372) -/

/-- A DOE request is answered. The contents of answers are free (assumption 7). -/
def State.doeAnswer (s : State) (kind : Nat) (req : List Byte) : State :=
  { s with attach := { s.attach with doe := s.attach.doe ++ [(kind, Config.doeAnswer kind req)] } }

/-- The transcript that a measurement's signatures cover: the exchange so far, the request and the answer. -/
def State.transcript (s : State) (req : List Byte) : List Byte := (s.attach.doe.flatMap (·.2)) ++ req ++ Config.doeAnswer 6 req

def execGetVersion (req : List (BitVec 8)) (s : State) : Host.Outcome State Fault Refusal := .next (s.doeAnswer 0 req)
def execGetCapabilities (req : List (BitVec 8)) (s : State) : Host.Outcome State Fault Refusal := .next (s.doeAnswer 1 req)
def execNegotiateAlgorithms (req : List (BitVec 8)) (s : State) : Host.Outcome State Fault Refusal := .next (s.doeAnswer 2 req)
def execGetDigests (req : List (BitVec 8)) (s : State) : Host.Outcome State Fault Refusal := .next (s.doeAnswer 3 req)
def execGetCertificate (req : List (BitVec 8)) (s : State) : Host.Outcome State Fault Refusal := .next (s.doeAnswer 4 req)
def execChallenge (req : List (BitVec 8)) (s : State) : Host.Outcome State Fault Refusal := .next (s.doeAnswer 5 req)

/-- GET_MEASUREMENTS: the answer carries both signatures over one transcript. -/
def execGetMeasurements (req : List (BitVec 8)) (s : State) : Host.Outcome State Fault Refusal :=
  let t := s.transcript req
  .next { s with attach := { s.attach with
    doe := s.attach.doe ++ [(6, Config.doeAnswer 6 req ++ Config.rsaSignature t ++ Config.slhSignature t)] } }

def execKeyExchange (req : List (BitVec 8)) (s : State) : Host.Outcome State Fault Refusal := .next (s.doeAnswer 7 req)

/-- IDE_KM: the key message is taken and answered. -/
def execIdeKm (req : List (BitVec 8)) (s : State) : Host.Outcome State Fault Refusal :=
  let s1 := s.doeAnswer 8 req
  .next { s1 with attach := { s1.attach with ideKeys := s1.attach.ideKeys ++ [req] } }

end Sys2Proof.Machine
end

