-- ==== Sys2Proof/Machine/Dispatch.lean ====
section
/-! DEFINITION. exec: one arm per constructor of Instr, each a direct call of its meaning. -/

namespace Sys2Proof.Machine

open Sys2Proof

def exec (i : Instr) (s : State) : Host.Outcome State Fault Refusal :=
  match i with
  | .iadd ty f => Sys2Proof.Machine.execIadd ty f s
  | .isub ty f => Sys2Proof.Machine.execIsub ty f s
  | .imul ty f => Sys2Proof.Machine.execImul ty f s
  | .imad ty f => Sys2Proof.Machine.execImad ty f s
  | .idiv ty f => Sys2Proof.Machine.execIdiv ty f s
  | .irem ty f => Sys2Proof.Machine.execIrem ty f s
  | .imin ty f => Sys2Proof.Machine.execImin ty f s
  | .imax ty f => Sys2Proof.Machine.execImax ty f s
  | .iabsd ty f => Sys2Proof.Machine.execIabsd ty f s
  | .and ty f => Sys2Proof.Machine.execAnd ty f s
  | .or ty f => Sys2Proof.Machine.execOr ty f s
  | .xor ty f => Sys2Proof.Machine.execXor ty f s
  | .shl ty f => Sys2Proof.Machine.execShl ty f s
  | .shr ty f => Sys2Proof.Machine.execShr ty f s
  | .sar ty f => Sys2Proof.Machine.execSar ty f s
  | .rot ty f => Sys2Proof.Machine.execRot ty f s
  | .bfx ty f => Sys2Proof.Machine.execBfx ty f s
  | .bfi ty f => Sys2Proof.Machine.execBfi ty f s
  | .popc ty f => Sys2Proof.Machine.execPopc ty f s
  | .clz ty f => Sys2Proof.Machine.execClz ty f s
  | .brev ty f => Sys2Proof.Machine.execBrev ty f s
  | .sel f => Sys2Proof.Machine.execSel f s
  | .icmp ty f => Sys2Proof.Machine.execIcmp ty f s
  | .lea ty f => Sys2Proof.Machine.execLea ty f s
  | .mov f => Sys2Proof.Machine.execMov f s
  | .subx ty f => Sys2Proof.Machine.execSubx ty f s
  | .movi f => Sys2Proof.Machine.execMovi f s
  | .iaddi ty f => Sys2Proof.Machine.execIaddi ty f s
  | .andi f => Sys2Proof.Machine.execAndi f s
  | .ori f => Sys2Proof.Machine.execOri f s
  | .xori f => Sys2Proof.Machine.execXori f s
  | .icmpi ty f => Sys2Proof.Machine.execIcmpi ty f s
  | .movhi f => Sys2Proof.Machine.execMovhi f s
  | .fadd ty f => Sys2Proof.Machine.execFadd ty f s
  | .fmul ty f => Sys2Proof.Machine.execFmul ty f s
  | .ffma ty f => Sys2Proof.Machine.execFfma ty f s
  | .fmin ty f => Sys2Proof.Machine.execFmin ty f s
  | .fmax ty f => Sys2Proof.Machine.execFmax ty f s
  | .fcmp ty f => Sys2Proof.Machine.execFcmp ty f s
  | .fclass ty f => Sys2Proof.Machine.execFclass ty f s
  | .fdot ty f => Sys2Proof.Machine.execFdot ty f s
  | .frcp ty f => Sys2Proof.Machine.execFrcp ty f s
  | .frsq ty f => Sys2Proof.Machine.execFrsq ty f s
  | .fsqrt ty f => Sys2Proof.Machine.execFsqrt ty f s
  | .fdiv ty f => Sys2Proof.Machine.execFdiv ty f s
  | .fexp2 ty f => Sys2Proof.Machine.execFexp2 ty f s
  | .flog2 ty f => Sys2Proof.Machine.execFlog2 ty f s
  | .fsin ty f => Sys2Proof.Machine.execFsin ty f s
  | .fcos ty f => Sys2Proof.Machine.execFcos ty f s
  | .fcvt sub f => Sys2Proof.Machine.execFcvt sub f s
  | .icvt sub f => Sys2Proof.Machine.execIcvt sub f s
  | .fcvti sub f => Sys2Proof.Machine.execFcvti sub f s
  | .fround sub f => Sys2Proof.Machine.execFround sub f s
  | .fscale ty f => Sys2Proof.Machine.execFscale ty f s
  | .bcvtScale sub f => Sys2Proof.Machine.execBcvtScale sub f s
  | .bcvtEnc sub f => Sys2Proof.Machine.execBcvtEnc sub f s
  | .bcvtDec sub f => Sys2Proof.Machine.execBcvtDec sub f s
  | .shfl sub f => Sys2Proof.Machine.execShfl sub f s
  | .voteAny f => Sys2Proof.Machine.execVoteAny f s
  | .voteAll f => Sys2Proof.Machine.execVoteAll f s
  | .voteBallot f => Sys2Proof.Machine.execVoteBallot f s
  | .voteCount f => Sys2Proof.Machine.execVoteCount f s
  | .cdetMask f => Sys2Proof.Machine.execCdetMask f s
  | .cdetFadd f => Sys2Proof.Machine.execCdetFadd f s
  | .cdetIadd f => Sys2Proof.Machine.execCdetIadd f s
  | .lred sub f => Sys2Proof.Machine.execLred sub f s
  | .lscan sub f => Sys2Proof.Machine.execLscan sub f s
  | .wbind sub f => Sys2Proof.Machine.execWbind sub f s
  | .wctlEnds sub f => Sys2Proof.Machine.execWctlEnds sub f s
  | .wctlVtype sub f => Sys2Proof.Machine.execWctlVtype sub f s
  | .wctlShift sub f => Sys2Proof.Machine.execWctlShift sub f s
  | .wctlRew sub f => Sys2Proof.Machine.execWctlRew sub f s
  | .wctlUnbind sub f => Sys2Proof.Machine.execWctlUnbind sub f s
  | .wctlTell sub f => Sys2Proof.Machine.execWctlTell sub f s
  | .wctlSkip sub f => Sys2Proof.Machine.execWctlSkip sub f s
  | .shapeGet f => Sys2Proof.Machine.execShapeGet f s
  | .shapeGen f => Sys2Proof.Machine.execShapeGen f s
  | .shapeUni f => Sys2Proof.Machine.execShapeUni f s
  | .shapeAff f => Sys2Proof.Machine.execShapeAff f s
  | .ftagGet f => Sys2Proof.Machine.execFtagGet f s
  | .ftagSet f => Sys2Proof.Machine.execFtagSet f s
  | .ftagTget f => Sys2Proof.Machine.execFtagTget f s
  | .ftagTset f => Sys2Proof.Machine.execFtagTset f s
  | .bra f => Sys2Proof.Machine.execBra f s
  | .brx f => Sys2Proof.Machine.execBrx f s
  | .call f => Sys2Proof.Machine.execCall f s
  | .callX f => Sys2Proof.Machine.execCallX f s
  | .ret f => Sys2Proof.Machine.execRet f s
  | .exit f => Sys2Proof.Machine.execExit f s
  | .join f => Sys2Proof.Machine.execJoin f s
  | .joinM f => Sys2Proof.Machine.execJoinM f s
  | .reform f => Sys2Proof.Machine.execReform f s
  | .reformX f => Sys2Proof.Machine.execReformX f s
  | .galleryDraw core bin => Sys2Proof.Machine.execGalleryDraw core bin s
  | .binAgeLimit core bin => Sys2Proof.Machine.execBinAgeLimit core bin s
  | .yield f => Sys2Proof.Machine.execYield f s
  | .nop f => Sys2Proof.Machine.execNop f s
  | .fbarArrive f => Sys2Proof.Machine.execFbarArrive f s
  | .fbarWait f => Sys2Proof.Machine.execFbarWait f s
  | .tbar f => Sys2Proof.Machine.execTbar f s
  | .tbarArrive f => Sys2Proof.Machine.execTbarArrive f s
  | .ld ty f => Sys2Proof.Machine.execLd ty f s
  | .st ty f => Sys2Proof.Machine.execSt ty f s
  | .ld2 ty f => Sys2Proof.Machine.execLd2 ty f s
  | .st2 ty f => Sys2Proof.Machine.execSt2 ty f s
  | .ldn f => Sys2Proof.Machine.execLdn f s
  | .stn f => Sys2Proof.Machine.execStn f s
  | .atom sub f => Sys2Proof.Machine.execAtom sub f s
  | .red sub f => Sys2Proof.Machine.execRed sub f s
  | .fence f => Sys2Proof.Machine.execFence f s
  | .fenceDom f => Sys2Proof.Machine.execFenceDom f s
  | .wait ty f => Sys2Proof.Machine.execWait ty f s
  | .waitRetestWrite r lane => Sys2Proof.Machine.execWaitRetestWrite r lane s
  | .waitRetestTimer r lane => Sys2Proof.Machine.execWaitRetestTimer r lane s
  | .prefetch sub f => Sys2Proof.Machine.execPrefetch sub f s
  | .ldt sub f => Sys2Proof.Machine.execLdt sub f s
  | .stt sub f => Sys2Proof.Machine.execStt sub f s
  | .cpy f => Sys2Proof.Machine.execCpy f s
  | .cpyComplete r op => Sys2Proof.Machine.execCpyComplete r op s
  | .lockWait f => Sys2Proof.Machine.execLockWait f s
  | .lockTest f => Sys2Proof.Machine.execLockTest f s
  | .bmodeL1 f => Sys2Proof.Machine.execBmodeL1 f s
  | .bmodeScr f => Sys2Proof.Machine.execBmodeScr f s
  | .bmodeFifo f => Sys2Proof.Machine.execBmodeFifo f s
  | .fpgQuery f => Sys2Proof.Machine.execFpgQuery f s
  | .fpgPin f => Sys2Proof.Machine.execFpgPin f s
  | .fpgUnpin f => Sys2Proof.Machine.execFpgUnpin f s
  | .fpgForce f => Sys2Proof.Machine.execFpgForce f s
  | .parkedAccessResume r => Sys2Proof.Machine.execParkedAccessResume r s
  | .tdesc f => Sys2Proof.Machine.execTdesc f s
  | .tget f => Sys2Proof.Machine.execTget f s
  | .mma sub f => Sys2Proof.Machine.execMma sub f s
  | .mdist f => Sys2Proof.Machine.execMdist f s
  | .gmma f => Sys2Proof.Machine.execGmma f s
  | .acqa f => Sys2Proof.Machine.execAcqa f s
  | .rela f => Sys2Proof.Machine.execRela f s
  | .mzero f => Sys2Proof.Machine.execMzero f s
  | .mld sub f => Sys2Proof.Machine.execMld sub f s
  | .mst sub f => Sys2Proof.Machine.execMst sub f s
  | .mcancel f => Sys2Proof.Machine.execMcancel f s
  | .mcancelTeam f => Sys2Proof.Machine.execMcancelTeam f s
  | .accumulatorGrant core => Sys2Proof.Machine.execAccumulatorGrant core s
  | .forwardArrayComplete core => Sys2Proof.Machine.execForwardArrayComplete core s
  | .gradientEngineStart cluster => Sys2Proof.Machine.execGradientEngineStart cluster s
  | .gradientEngineComplete cluster => Sys2Proof.Machine.execGradientEngineComplete cluster s
  | .trec f => Sys2Proof.Machine.execTrec f s
  | .tmarkRec f => Sys2Proof.Machine.execTmarkRec f s
  | .tmarkRc f => Sys2Proof.Machine.execTmarkRc f s
  | .tpop f => Sys2Proof.Machine.execTpop f s
  | .tend f => Sys2Proof.Machine.execTend f s
  | .tqueryNext f => Sys2Proof.Machine.execTqueryNext f s
  | .tqueryUsed f => Sys2Proof.Machine.execTqueryUsed f s
  | .tqueryQuota f => Sys2Proof.Machine.execTqueryQuota f s
  | .tapeSpill team => Sys2Proof.Machine.execTapeSpill team s
  | .tapeRefill r op => Sys2Proof.Machine.execTapeRefill r op s
  | .gscat sub f => Sys2Proof.Machine.execGscat sub f s
  | .scatterAddition idx => Sys2Proof.Machine.execScatterAddition idx s
  | .gflush f => Sys2Proof.Machine.execGflush f s
  | .gflushAll f => Sys2Proof.Machine.execGflushAll f s
  | .triadj f => Sys2Proof.Machine.execTriadj f s
  | .texadjLod f => Sys2Proof.Machine.execTexadjLod f s
  | .texadjGrad f => Sys2Proof.Machine.execTexadjGrad f s
  | .edgeq f => Sys2Proof.Machine.execEdgeq f s
  | .boxt f => Sys2Proof.Machine.execBoxt f s
  | .trit sub f => Sys2Proof.Machine.execTrit sub f s
  | .spush f => Sys2Proof.Machine.execSpush f s
  | .spop f => Sys2Proof.Machine.execSpop f s
  | .spopDepth f => Sys2Proof.Machine.execSpopDepth f s
  | .spopClear f => Sys2Proof.Machine.execSpopClear f s
  | .cull f => Sys2Proof.Machine.execCull f s
  | .exptri f => Sys2Proof.Machine.execExptri f s
  | .rasterBufferEntry core => Sys2Proof.Machine.execRasterBufferEntry core s
  | .rasteriseTriangle cluster => Sys2Proof.Machine.execRasteriseTriangle cluster s
  | .texLod f => Sys2Proof.Machine.execTexLod f s
  | .texGrad f => Sys2Proof.Machine.execTexGrad f s
  | .texqSize f => Sys2Proof.Machine.execTexqSize f s
  | .texqLod f => Sys2Proof.Machine.execTexqLod f s
  | .qpush sub f => Sys2Proof.Machine.execQpush sub f s
  | .qpushUnpark r => Sys2Proof.Machine.execQpushUnpark r s
  | .qpushCommit idx => Sys2Proof.Machine.execQpushCommit idx s
  | .qinfoRange f => Sys2Proof.Machine.execQinfoRange f s
  | .qinfoFill f => Sys2Proof.Machine.execQinfoFill f s
  | .qinfoSpace f => Sys2Proof.Machine.execQinfoSpace f s
  | .msnd sub f => Sys2Proof.Machine.execMsnd sub f s
  | .mrcv sub f => Sys2Proof.Machine.execMrcv sub f s
  | .msndUnpark r => Sys2Proof.Machine.execMsndUnpark r s
  | .mrcvUnpark r => Sys2Proof.Machine.execMrcvUnpark r s
  | .put f => Sys2Proof.Machine.execPut f s
  | .get f => Sys2Proof.Machine.execGet f s
  | .putComplete die id => Sys2Proof.Machine.execPutComplete die id s
  | .getComplete die id => Sys2Proof.Machine.execGetComplete die id s
  | .cntrRead f => Sys2Proof.Machine.execCntrRead f s
  | .cntrAdd f => Sys2Proof.Machine.execCntrAdd f s
  | .cntrSet f => Sys2Proof.Machine.execCntrSet f s
  | .trigPut f => Sys2Proof.Machine.execTrigPut f s
  | .trigGet f => Sys2Proof.Machine.execTrigGet f s
  | .triggerFire die idx => Sys2Proof.Machine.execTriggerFire die idx s
  | .collAllreduce f => Sys2Proof.Machine.execCollAllreduce f s
  | .collRscatter f => Sys2Proof.Machine.execCollRscatter f s
  | .collBcast f => Sys2Proof.Machine.execCollBcast f s
  | .collComplete die id members => Sys2Proof.Machine.execCollComplete die id members s
  | .collTimeout die id seen => Sys2Proof.Machine.execCollTimeout die id seen s
  | .sget f => Sys2Proof.Machine.execSget f s
  | .sset f => Sys2Proof.Machine.execSset f s
  | .trap f => Sys2Proof.Machine.execTrap f s
  | .tret f => Sys2Proof.Machine.execTret f s
  | .tinv f => Sys2Proof.Machine.execTinv f s
  | .copInv f => Sys2Proof.Machine.execCopInv f s
  | .copInvall f => Sys2Proof.Machine.execCopInvall f s
  | .halt f => Sys2Proof.Machine.execHalt f s
  | .brk f => Sys2Proof.Machine.execBrk f s
  | .clauseIssue r => Sys2Proof.Machine.execClauseIssue r s
  | .pathAgeing r => Sys2Proof.Machine.execPathAgeing r s
  | .clauseFetchFill r => Sys2Proof.Machine.execClauseFetchFill r s
  | .lookaheadLanding r op => Sys2Proof.Machine.execLookaheadLanding r op s
  | .scoreboardLanding r op => Sys2Proof.Machine.execScoreboardLanding r op s
  | .storeAcknowledged r op => Sys2Proof.Machine.execStoreAcknowledged r op s
  | .loadReply r op => Sys2Proof.Machine.execLoadReply r op s
  | .tileTransferComplete r op => Sys2Proof.Machine.execTileTransferComplete r op s
  | .launchRecordTake die queue => Sys2Proof.Machine.execLaunchRecordTake die queue s
  | .launchDependenceMet launch => Sys2Proof.Machine.execLaunchDependenceMet launch s
  | .teamPlacement die => Sys2Proof.Machine.execTeamPlacement die s
  | .teamRetirement team => Sys2Proof.Machine.execTeamRetirement team s
  | .launchCompletion launch => Sys2Proof.Machine.execLaunchCompletion launch s
  | .queueAgeLimit launch => Sys2Proof.Machine.execQueueAgeLimit launch s
  | .launchStop launch => Sys2Proof.Machine.execLaunchStop launch s
  | .requantiserPick page => Sys2Proof.Machine.execRequantiserPick page s
  | .requantiserCommit page => Sys2Proof.Machine.execRequantiserCommit page s
  | .drainDeadline ctx => Sys2Proof.Machine.execDrainDeadline ctx s
  | .saveDeadline ctx => Sys2Proof.Machine.execSaveDeadline ctx s
  | .parkSwap core => Sys2Proof.Machine.execParkSwap core s
  | .watchdogFire team => Sys2Proof.Machine.execWatchdogFire team s
  | .terminationComplete ctx => Sys2Proof.Machine.execTerminationComplete ctx s
  | .fabricRequestTimeout unit tag => Sys2Proof.Machine.execFabricRequestTimeout unit tag s
  | .sramEccError e => Sys2Proof.Machine.execSramEccError e s
  | .uncorrectableStateError e => Sys2Proof.Machine.execUncorrectableStateError e s
  | .clusterEccError e => Sys2Proof.Machine.execClusterEccError e s
  | .memoryEccError e => Sys2Proof.Machine.execMemoryEccError e s
  | .scatterUnitError target record => Sys2Proof.Machine.execScatterUnitError target record s
  | .patrolScrub addr => Sys2Proof.Machine.execPatrolScrub addr s
  | .hostSnoop line stores => Sys2Proof.Machine.execHostSnoop line stores s
  | .hostMemAccess a => Sys2Proof.Machine.execHostMemAccess a s
  | .bridgeFlitFailure replays => Sys2Proof.Machine.execBridgeFlitFailure replays s
  | .packageReset pkg => Sys2Proof.Machine.execPackageReset pkg s
  | .powerLoss => Sys2Proof.Machine.execPowerLoss s
  | .powerArbiterPeriod draw busyGrad busyFwd => Sys2Proof.Machine.execPowerArbiterPeriod draw busyGrad busyFwd s
  | .thermalLimitChange celsius => Sys2Proof.Machine.execThermalLimitChange celsius s
  | .thermalTrip => Sys2Proof.Machine.execThermalTrip s
  | .registerContext c => Sys2Proof.Machine.execRegisterContext c s
  | .registerLaunchQueue c => Sys2Proof.Machine.execRegisterLaunchQueue c s
  | .registerReclaimQueue c => Sys2Proof.Machine.execRegisterReclaimQueue c s
  | .requantiserThreshold c => Sys2Proof.Machine.execRequantiserThreshold c s
  | .invalidateTranslation c => Sys2Proof.Machine.execInvalidateTranslation c s
  | .pageReply c => Sys2Proof.Machine.execPageReply c s
  | .preemptContext c => Sys2Proof.Machine.execPreemptContext c s
  | .liftPreemption c => Sys2Proof.Machine.execLiftPreemption c s
  | .terminateContext c => Sys2Proof.Machine.execTerminateContext c s
  | .registerWindowKey c => Sys2Proof.Machine.execRegisterWindowKey c s
  | .firmwareChunk c => Sys2Proof.Machine.execFirmwareChunk c s
  | .setPowerLimit c => Sys2Proof.Machine.execSetPowerLimit c s
  | .reservedCommand c => Sys2Proof.Machine.execReservedCommand c s
  | .mailboxRegisterWrite offset value => Sys2Proof.Machine.execMailboxRegisterWrite offset value s
  | .getVersion req => Sys2Proof.Machine.execGetVersion req s
  | .getCapabilities req => Sys2Proof.Machine.execGetCapabilities req s
  | .negotiateAlgorithms req => Sys2Proof.Machine.execNegotiateAlgorithms req s
  | .getDigests req => Sys2Proof.Machine.execGetDigests req s
  | .getCertificate req => Sys2Proof.Machine.execGetCertificate req s
  | .challenge req => Sys2Proof.Machine.execChallenge req s
  | .getMeasurements req => Sys2Proof.Machine.execGetMeasurements req s
  | .keyExchange req => Sys2Proof.Machine.execKeyExchange req s
  | .ideKm req => Sys2Proof.Machine.execIdeKm req s
  | .slotMarker slot time => Sys2Proof.Machine.execSlotMarker slot time s
  | .calendarLoad start table => Sys2Proof.Machine.execCalendarLoad start table s
  | .bulkSend idx => Sys2Proof.Machine.execBulkSend idx s
  | .relayFlitArrival flit => Sys2Proof.Machine.execRelayFlitArrival flit s
  | .relayForward idx => Sys2Proof.Machine.execRelayForward idx s
  | .creditUpdateSend peer => Sys2Proof.Machine.execCreditUpdateSend peer s
  | .creditUpdateReceived peer freed => Sys2Proof.Machine.execCreditUpdateReceived peer freed s
  | .creditIncrementFlit peer => Sys2Proof.Machine.execCreditIncrementFlit peer s
  | .flitAck flit => Sys2Proof.Machine.execFlitAck flit s
  | .flitReplay idx => Sys2Proof.Machine.execFlitReplay idx s
  | .remoteRequestArrival q => Sys2Proof.Machine.execRemoteRequestArrival q s
  | .skipNoticeArrival src num => Sys2Proof.Machine.execSkipNoticeArrival src num s
  | .fabricResponseArrival a => Sys2Proof.Machine.execFabricResponseArrival a s
  | .portFailure port laser => Sys2Proof.Machine.execPortFailure port laser s
  | .spareSwitchComplete port => Sys2Proof.Machine.execSpareSwitchComplete port s
  | .tapeEntryInRing r op => Sys2Proof.Machine.execTapeEntryInRing r op s
  | .configurationRequest q => Sys2Proof.Machine.execConfigurationRequest q s
  | .guardIntervalEnd => Sys2Proof.Machine.execGuardIntervalEnd s
  | .blackoutNotice peer port live => Sys2Proof.Machine.execBlackoutNotice peer port live s

end Sys2Proof.Machine
end

