-- ==== Sys2Proof/Machine/Run.lean ====
section
/-! DEFINITION. What a step runs: the instruction that a bundle issues, a machine event that is due, the next command of the mailbox, or the next input from outside;
and the bundle that the host's question places (R41, R175, R288). -/

namespace Sys2Proof.Machine

/-- What one step does. -/
inductive Work where
  | instr (r : FibreRef) (w : Word)
  | event (i : Instr)
  | command (c : Cmd)
  | input (i : Instr)
  | idle
deriving DecidableEq, Repr

/-- The word that the fibre's bundle issues next. -/
def State.issuing? (s : State) (r : FibreRef) : Option Word :=
  match s.team? r.team with
  | some t => match t.fibre? r.fid with
    | some f => match f.issue with
      | some is => if is.ended || f.pageWait.isSome || !s.mayIssue t f then none else some is.word
      | none => none
    | none => none
  | none => none

def State.refs (s : State) : List FibreRef := s.teams.flatMap fun t => t.fibres.map fun f => ⟨t.uid, f.fid⟩

/-- Events of a fibre that may be due. -/
def Fibre.events (r : FibreRef) (f : Fibre) : List Instr :=
  [.clauseIssue r, .pathAgeing r, .clauseFetchFill r, .parkedAccessResume r, .qpushUnpark r, .msndUnpark r, .mrcvUnpark r] ++
    (f.ops.map (·.id)).flatMap (fun op => [.lookaheadLanding r op, .scoreboardLanding r op, .storeAcknowledged r op, .loadReply r op,
      .tileTransferComplete r op, .cpyComplete r op, .tapeRefill r op, .tapeEntryInRing r op]) ++
    (List.range f.width).flatMap fun l => [.waitRetestWrite r l, .waitRetestTimer r l]

def Die.events (d : Nat) (x : Die) : List Instr :=
  .teamPlacement d :: (List.range 16).map (Instr.launchRecordTake d) ++
    (x.xfers.map (·.id)).flatMap (fun id => [.putComplete d id, .getComplete d id, .collTimeout d id none]) ++
    (List.range x.trigs.length).map (Instr.triggerFire d)

def Core.events (c : Nat) (x : Core) : List Instr :=
  [.accumulatorGrant c, .forwardArrayComplete c, .rasterBufferEntry c, .parkSwap c] ++
    (x.gallery.zipIdx.filter fun p => p.1.isSome).flatMap fun p => [.galleryDraw c p.2, .binAgeLimit c p.2]

def Fabric.events (x : Fabric) : List Instr :=
  (x.reqs.map fun q => Instr.fabricRequestTimeout q.unit q.tag) ++
    (x.seqIn.flatMap fun q => q.held.map Instr.remoteRequestArrival) ++
    (List.range (x.ports.flatMap (·.replay)).length).map Instr.flitReplay ++
    (List.range x.landing.length).map Instr.relayForward ++
    (x.credits.map (·.peer)).flatMap (fun p => [.creditUpdateSend p, .creditIncrementFlit p]) ++
    (List.range x.ports.length).map Instr.spareSwitchComplete ++ [.guardIntervalEnd]

/-- Machine events that may be due; a meaning refuses the ones that are not. -/
def State.events (s : State) : List Instr :=
  (s.teams.flatMap fun t => .teamRetirement t.uid :: .watchdogFire t.uid :: .tapeSpill t.uid ::
    t.fibres.flatMap fun f => f.events ⟨t.uid, f.fid⟩) ++
    (s.launches.map (·.id)).flatMap (fun id => [.launchDependenceMet id, .launchCompletion id, .queueAgeLimit id, .launchStop id]) ++
    s.dies.zipIdx.flatMap (fun (x, d) => x.events d) ++ s.cores.zipIdx.flatMap (fun (x, c) => x.events c) ++
    (List.range s.clusters.length).flatMap (fun c => [.gradientEngineStart c, .gradientEngineComplete c, .rasteriseTriangle c]) ++
    (List.range s.ctxs.length).flatMap (fun c => [.drainDeadline c, .saveDeadline c, .terminationComplete c]) ++
    (List.range s.adds.length).map Instr.scatterAddition ++ (List.range s.reservs.length).map Instr.qpushCommit ++
    s.formatPages.map Instr.requantiserPick ++
    (s.convs.map fun x => Instr.requantiserCommit x.1) ++
    (List.range (s.dies.flatMap (·.xfers)).length).map Instr.bulkSend ++ s.fab.events

/-- The meaning answers a next state. -/
def runs (i : Instr) (s : State) : Bool := match exec i s with | .next _ => true | _ => false

/-- What is answered before the bring-up after a package reset has ended (R372). -/
def earlyInput (i : Instr) : Bool :=
  match i with
  | .configurationRequest _ | .packageReset _ | .powerLoss | .thermalTrip => true
  | _ => false

/-- The inputs from outside, in order: the next one, when it can be taken. -/
def State.inputWork (s : State) : List Work :=
  match s.inbox with
  | i :: rest => if (!s.attach.retry || earlyInput i) && runs i { s with inbox := rest } then [.input i] else []
  | [] => []

/-- The next command of the mailbox, when it can execute (R365). -/
def State.commandWork (s : State) : List Work :=
  match s.nextCmd with
  | some c => match runCommand c s with
    | .next _ => [.command c]
    | _ => []
  | none => []

/-- Corrections of device time in e ns: at most one in every 100 ticks, and no more ticks are held back than pass (R370). -/
def Fabric.corrections (f : Fabric) (e : Nat) : Nat :=
  min (min f.skew.natAbs ((e + f.age) / 100)) (if f.skew < 0 then e else f.skew.natAbs)

/-- Ticks of device time in e ns, with the corrections that fall in them. -/
def Fabric.ticks (f : Fabric) (e : Nat) : Nat := if f.skew < 0 then e - f.corrections e else e + f.corrections e

def Fabric.corrected (f : Fabric) (e : Nat) : Fabric :=
  { f with
    skew := if f.skew < 0 then f.skew + f.corrections e else f.skew - f.corrections e
    age := min 100 (e + f.age - 100 * f.corrections e) }

/-- Time passes (assumption 2), a bring-up may end, and the port controller sends what it can (R380). -/
def State.advance (s : State) : State :=
  State.sendWaiting { s with
    time := s.time + BitVec.ofNat 64 (s.fab.ticks (Config.elapsedNs s.tick))
    clock := s.clock + Config.elapsedClocks s.tick
    tick := s.tick + 1
    attach := { s.attach with retry := s.attach.retry && !Config.broughtUp s.tick }
    fab := s.fab.corrected (Config.elapsedNs s.tick)
    cur := none }

/-- The instruction of a word, or its illegal-instruction fault (R75). -/
def State.runWord (s : State) (r : FibreRef) (w : Word) : Host.Outcome State Fault Refusal :=
  match decodeWord w with
  | .ok i => exec i { s with cur := some r }
  | .error e => .next (illegalWord s r e.bit)

def afterStep (o : Host.Outcome State Fault Refusal) : Host.Outcome State Fault Refusal :=
  match o with
  | .next s => .next s.advance
  | .fault e => .fault e
  | .refused e => .refused e

/-- One step's work. -/
def State.perform (s : State) : Work → Host.Outcome State Fault Refusal
  | .instr r w => s.runWord r w
  | .event i => exec i s
  | .command c => runCommand c s
  | .input i => exec i { s with inbox := s.inbox.drop 1 }
  | .idle => .next s

/-! ## The schedulers (R41, R174, R175) -/

/-- The fibre that a work issues or serves. -/
def Work.fibre? (w : Work) : Option FibreRef :=
  match w with
  | .instr r _ | .event (.clauseIssue r) | .event (.pathAgeing r) => some r
  | _ => none

/-- A fibre's core, its scheduler, and the time of its slot's last issue (R174). -/
def State.slotKey (s : State) (r : FibreRef) : Option (Nat × Nat × Nat) :=
  match s.team? r.team, s.fibre? r with
  | some t, some f => let sl := t.slotOf f; some (sl.core, sl.num % 4, sl.last)
  | _, _ => none

/-- The work issues from its slot, and does not only stall. -/
def State.issues (s : State) (w : Work) : Bool :=
  match w.fibre? with
  | none => false
  | some r => match s.perform w with
    | .next t => (match t.slotKey r with | some k => k.2.2 == s.tick + 1 | none => false)
    | _ => false

/-- A `reform` waits for the next clock when a fibre of a higher position has filed in this one (R135). -/
def State.reformWaits (s : State) (w : Work) : Bool :=
  match w with
  | .instr r x => (match decodeWord x, s.slotKey r with
    | .ok (.reform _), some k | .ok (.reformX _), some k => (match (s.core k.1).reform with
      | some (clock, fid) => clock == s.clock && r.fid < fid
      | none => false)
    | _, _ => false)
  | _ => false

/-- Another slot of the same scheduler that could issue has gone longer without issue (R41 item 2). -/
def State.behind (s : State) (others : List Work) (w : Work) : Bool :=
  match w.fibre?.bind s.slotKey with
  | none => false
  | some k => others.any fun v => match v.fibre?.bind s.slotKey with
    | some j => j.1 == k.1 && j.2.1 == k.2.1 && j.2.2 < k.2.2
    | none => false

/-- A slot has gone longer without issue than the bound of R41 item 3. -/
def State.overdue (s : State) (w : Work) : Bool :=
  match w.fibre?.bind s.slotKey with
  | none => false
  | some k => Config.issueBound < s.tick - k.2.2

/-- Each scheduler issues from the slot that has gone longest without issue, and a slot that is overdue goes first. -/
def State.scheduled (s : State) (ws : List Work) : List Work :=
  let issuing := ws.filter s.issues
  let fair := ws.filter fun w => !(s.issues w && s.behind issuing w)
  if (fair.filter fun w => s.issues w && s.overdue w).isEmpty then fair else fair.filter fun w => s.issues w && s.overdue w

/-- Everything that may come next. The order among it is free (R41, R288; assumption 1). -/
def State.works (s : State) : List Work :=
  if !s.on then s.inputWork.filter fun w => match w with | .input (.packageReset _) => true | _ => false
  else s.scheduled (((s.refs.filterMap fun r => (s.issuing? r).map (Work.instr r)).filter fun w => !s.reformWaits w) ++
    ((s.events.filter fun i => runs i s).map Work.event) ++ s.commandWork ++ s.inputWork)

/-- What the next step does: the bundle that `cur` names issues first. -/
def State.work (s : State) : Work :=
  match s.cur with
  | some r => match s.issuing? r with
    | some w => .instr r w
    | none => .idle
  | none => s.works.getD (Config.choice s.tick % s.works.length) .idle

/-! ## The host's question -/

/-- The launch record of the bundle that `withFetchWord` places: one fibre of 16 threads with 56 private registers, code region
[0, 4096) and handler address 0. -/
def fetchRec : LaunchRec := { noRec with
  nteam := 1
  codeSz := 4096
  priv := 56
  rage := 2048 }

/-- Its clause: one instruction of class 15 at address 0. -/
def fetchIssue (w : Word) : Issue := ⟨0, 0, [w], 0, 0xFFFF, false⟩

def fetchFibre (w : Word) : Fibre :=
  let f := freshFibre fetchRec 0
  { f with
    issue := some (fetchIssue w)
    issues := 1
    threads := f.threads.map fun (t : Thread) => { t with st := .issuing, served := 1 } }

def fetchTeam (uid launch : Nat) (w : Word) : Team :=
  { freshTeam fetchRec uid launch 0 0 [(0, 0)] 0 with
    fibres := [fetchFibre w]
    slots := [{ freshSlot fetchRec 0 0 0 0 with holder := 0 }] }

def fetchLaunch (id : Nat) : Launch := ⟨id, 0, 0, 0, 0, 0, fetchRec, .ready, 1, 0, false, false, 0, false, [], []⟩

/-- A placed team whose only bundle issues the word next. -/
def State.placeWord (s : State) (w : Word) : State :=
  { s with
    fresh := s.fresh + 2
    launches := fetchLaunch s.fresh :: s.launches
    teams := fetchTeam (s.fresh + 1) s.fresh w :: s.teams
    cur := some ⟨s.fresh + 1, 0⟩ }

end Sys2Proof.Machine
end

