-- ==== Sys2Proof/Machine/Step.lean ====
section
/-! DEFINITION. The step function, and the state in which a given instruction is the next one. -/

namespace Sys2Proof.Machine

/-- One step: an issuing instruction, a machine event or an input from outside; then time passes. -/
def step (s : State) : Host.Outcome State Fault Refusal := afterStep (s.perform s.work)

/-- A bundle that issues, at the next step, the instruction whose bits are w (bits above nbits zero). -/
def State.withFetchWord (s : State) (nbits w : Nat) : State := s.placeWord (BitVec.ofNat 64 (w % 2 ^ min nbits 64))

end Sys2Proof.Machine
end

