-- ==== Sys2Proof/Safety.lean ====
section
/-! DEFINITION. The terms that statements use: the invariant of memory, runs, the context in which an instruction issues, and what an
issue that writes registers, predicates and flags leaves. -/

namespace Sys2Proof.Safety

open Sys2Proof.Machine

/-! ## Runs -/

/-- The bytes of memory, what was last written back of it, and those of every pool and accumulator bank, saved teams' included, stand in
their one canonical form. -/
def memWf (s : State) : Prop :=
  Memory.wf s.mem = true ∧ Memory.wf s.home = true ∧
  (∀ c ∈ s.cores, (∀ b ∈ c.banks, Memory.wf b.data = true) ∧ ∀ b ∈ c.acc, Memory.wf b.data = true) ∧
  ∀ x ∈ s.saved, ∀ b ∈ x.accs ++ x.accs2, Memory.wf b.data = true

/-- A step that ends in the next state given. -/
def stepsTo (s t : State) : Prop := step s = .next t

/-- States that a run from a given state reaches. -/
inductive Reaches (s : State) : State → Prop where
  | refl : Reaches s s
  | step {t u : State} : Reaches s t → stepsTo t u → Reaches s u

/-! ## An instruction that issues -/

/-- Nothing holds instruction i of fibre f back: the bundle issues (R67), no page request or pending fault stands in the way (R347,
R173), no interlock holds (R20, R89), and the word is well formed with its registers inside the window (R17, R75). -/
def clear (i : Instr) (n : Names) (t : Team) (f : Fibre) (is : Issue) : Bool :=
  !is.ended && f.pageWait.isNone && (f.pending.find? (Pending.atIssue f f.bundle)).isNone && !f.interlocked t (n.regs.map (·.2)) &&
    i.firstBad.isNone && (n.regs.filter fun x => t.nregs f ≤ x.2).isEmpty

/-- The active lanes: threads of the bundle whose guard is true (R9). -/
def activeLanes (n : Names) (f : Fibre) : List Nat := f.bundle.filter fun l => guardTrue n.g (f.thread l)

/-- The fibre as the meaning sees it: local loads have their place (R288), and walkers that active lanes read have advanced (R126). -/
def afterReads (i : Instr) (n : Names) (f : Fibre) (ks : List Nat) : Fibre :=
  let act := activeLanes n f
  { f with
    ops := (f.ops.filter fun o => !o.kind.isWalkerRead i).map Op.fix
    threads := if ks.isEmpty then f.threads else f.threads.zipIdx.map fun (t, l) =>
      if act.contains l then ks.foldl (fun (t : Thread) k => t.walkStep k) t else t }

/-- The context that instruction i gets when it issues at s, or none where it is held back or stops before its meaning. -/
def issuing (i : Instr) (n : Names) (s : State) : Option Ctx :=
  match s.cur with
  | none => none
  | some r => match s.team? r.team with
    | none => none
    | some t => match t.fibre? r.fid with
      | none => none
      | some f => match f.issue with
        | none => none
        | some is =>
          if clear i n t f is then
            let u := s.setHolder r.team f.slot r.fid
            let who : Who := ⟨t.ctx, t.coreOf r.fid, t.uid⟩
            let act := activeLanes n f
            match readWalkers u who f act n.codes (f.walkerBytes i) with
            | .ok (wv, false) =>
              if (walkerOwned u who f act n.codes).isEmpty && !(f.acquiring && !(walkerPlaces u who f act n.codes).isEmpty) then
                let f1 := afterReads i n f (wv.map (·.1))
                let now (x : Team) : Team := (x.stamp f.slot u.tick).modFibre r.fid fun _ => f1
                some ⟨u.modTeam r.team now, r, now t, f1, u.recOf t, is, act, f.live, f.bundle, f, wv⟩
              else none
            | _ => none
          else none

/-! ## Parts of a state -/

/-- Thread l of fibre r. -/
def threadAt (s : State) (r : FibreRef) (l : Nat) : Thread := match s.fibre? r with | some f => f.thread l | none => noThread

/-- Register n of fibre r's window. -/
def regAt (s : State) (r : FibreRef) (n : Nat) : VReg := match s.team? r.team with
  | some t => (match t.fibre? r.fid with | some f => t.reg f n | none => .zero 0)
  | none => .zero 0

/-- Row of register n in lane l. -/
def rowAt (s : State) (r : FibreRef) (n l : Nat) : Row := (regAt s r n).row l

/-- The slot of fibre r. -/
def slotAt (s : State) (r : FibreRef) : Slot := match s.team? r.team with
  | some t => (match t.fibre? r.fid with | some f => t.slotOf f | none => noSlot)
  | none => noSlot

/-- Every byte of memory reads the same. -/
def sameMemory (s t : State) : Prop := ∀ a, cellGet t.mem a = cellGet s.mem a

/-- Every byte of memory below host memory reads the same: events go to a ring in host memory (R364). -/
def sameDevice (s t : State) : Prop := ∀ a < 0x200000000000, cellGet t.mem a = cellGet s.mem a

/-- A thread waits at a header for its path to be served. -/
def atHeader (t : Thread) (pc : Word) : Prop := t.st = .waiting ∧ t.pc = pc ∧ t.clause = none

/-! ## What an issue leaves -/

/-- What an instruction leaves: row of register n in lane l, shape of register n, the thread of lane l but for its position, the rest of
the fibre with its outstanding operations, and everything outside the teams. -/
structure Out where
  row : Nat → Nat → Row
  shape : Nat → Shape
  thread : Nat → Thread
  fibre : Fibre
  state : State

/-- They as the instruction finds them. -/
def now (c : Ctx) : Out := ⟨c.row, fun n => (c.reg n).shape, c.f.thread, c.f, c.s⟩

/-- Register d written in the active lanes; a write by every live thread gives the shape sh, any other is general (R32), and one without
active lanes leaves the register. -/
def Out.write (o : Out) (c : Ctx) (d : Nat) (v : Nat → Row) (sh : Shape) : Out := { o with
  row := fun n l => if n = d ∧ l ∈ c.act then v l else o.row n l
  shape := fun n => if n = d ∧ c.act ≠ [] then (if c.full then sh else .general) else o.shape n }

/-- A change of the threads of the active lanes. -/
def Out.onThreads (o : Out) (c : Ctx) (g : Nat → Thread → Thread) : Out := { o with
  thread := fun l => if l ∈ c.act then g l (o.thread l) else o.thread l }

/-- Predicate p written in the active lanes; p7 ignores writes (R25). -/
def Out.setPred (o : Out) (c : Ctx) (p : BitVec 3) (v : Nat → Bool) : Out :=
  o.onThreads c fun l t => t.setPred p (v l)

/-- Flags ORed into $flags of the active lanes (R65). -/
def Out.orFlags (o : Out) (c : Ctx) (v : Nat → Fl) : Out :=
  o.onThreads c fun l t => { t with flags := t.flags ||| (v l).setWidth 64 }

/-- A change of the fibre outside its registers and threads. -/
def Out.onFibre (o : Out) (g : Fibre → Fibre) : Out := { o with fibre := g o.fibre }

/-- A change outside the teams: memory, cores, clusters and the rest of the package. -/
def Out.onState (o : Out) (g : State → State) : Out := { o with state := g o.state }

/-- Thread y is thread x but for where it stands. -/
def sameThread (x y : Thread) : Prop :=
  y = { x with st := y.st, pc := y.pc, clause := y.clause, prevY := y.prevY, nxt := y.nxt, nxtIn := y.nxtIn }

/-- Slot y is slot x but for its shared registers, the fibre that issues from it, and the time of its last issue. -/
def sameSlot (x y : Slot) : Prop := y = { x with shared := y.shared, holder := y.holder, last := y.last }

/-- What the fibre's team looks like after an instruction that leaves the outputs o: every other fibre and slot is unchanged; the fibre
is as o says, its outstanding operations included, but for where its threads stand. -/
structure FibreAfter (c : Ctx) (T T' : Team) (g : Fibre) (o : Out) : Prop where
  fibre : T'.fibre? c.r.fid = some g
  team : T' = { T with fibres := T'.fibres, slots := T'.slots }
  others : ∀ k, k ≠ c.r.fid → T'.fibre? k = T.fibre? k
  slots : T'.slots.length = T.slots.length ∧ (∀ k, k ≠ c.f.slot → T'.slots.getD k noSlot = T.slots.getD k noSlot) ∧
    sameSlot (T.slots.getD c.f.slot noSlot) (T'.slots.getD c.f.slot noSlot)
  same : g = { o.fibre with priv := g.priv, threads := g.threads, issue := g.issue }
  window : T'.nregs g = T.nregs c.f
  regs : ∀ n, n < T.nregs c.f → (T'.reg g n).shape = o.shape n ∧ ∀ l, (T'.reg g n).row l = o.row n l
  threads : g.threads.length = c.f.threads.length ∧ ∀ l, sameThread (o.thread l) (g.thread l)

/-- State t is what an instruction of context c leaves, as o says: outside the teams everything, every byte of memory included, is as in
o, and of the teams only the instruction's fibre changes. -/
structure After (c : Ctx) (t : State) (o : Out) : Prop where
  rest : t = { o.state with teams := t.teams }
  memory : ∀ a, cellGet t.mem a = cellGet o.state.mem a
  others : ∀ u, u ≠ c.r.team → t.team? u = c.s.team? u
  own : ∃ T T' g, c.s.team? c.r.team = some T ∧ t.team? c.r.team = some T' ∧ FibreAfter c T T' g o

/-- Source rows that no check stops: in the active lanes no poison (R48) and only tags that R36 allows. -/
def clean (c : Ctx) (xs : List (Src × Option Tag)) : Prop := ∀ l ∈ c.act, laneRowErr xs l = none

/-- Instruction i answers a next state, and that state holds the outputs o. -/
def Completes (i : Instr) (s : State) (c : Ctx) (o : Out) : Prop := ∃ t, exec i s = .next t ∧ After c t o

/-- Instruction i of format V issues at s with context c: its permutes fit the fibre (R78) and its source rows pass their checks. -/
def ready (i : Instr) (n : Names) (f : VF) (s : State) (c : Ctx) (xs : List (Src × Option Tag)) : Prop :=
  issuing i n s = some c ∧ permWidthOk f c.w = true ∧ clean c xs

/-- Element q of source a, b or c in lane l, after permutes and modifiers of the type (R77, R78). -/
def elA (c : Ctx) (f : VF) (ty : ETy) (l q : Nat) : Nat := elem ty.bits q ((c.srcA f ty).val l)
def elB (c : Ctx) (f : VF) (ty : ETy) (l q : Nat) : Nat := elem ty.bits q ((c.srcB f ty).val l)
def elC (c : Ctx) (f : VF) (ty : ETy) (l q : Nat) : Nat := elem ty.bits q ((c.srcC f ty).val l)

/-- OR of the flags of n elements (R50). -/
def orOver (n : Nat) (e : Nat → Fl) : Fl := (List.range n).foldl (fun a q => a ||| e q) 0

/-- An operation becomes outstanding. -/
def Out.adds (o : Out) (op : Op) : Out :=
  (o.onFibre fun x => { x with ops := x.ops ++ [op] }).onState fun u => { u with fresh := u.fresh + 1 }

/-- The instruction completes with the row v for register d and the flags e. `late` tells an instruction of long latency: its flags are
raised at once, and a complete operation holds the row until it lands (R87, R99; assumption 113). -/
def Delivers (late : Bool) (i : Instr) (s : State) (c : Ctx) (d : BitVec 6) (tag : Tag) (sh : Shape) (v : Nat → Word) (e : Nat → Fl) : Prop :=
  Completes i s c (if late ∧ c.act ≠ [] then ((now c).orFlags c e).adds
      ⟨c.s.fresh, [], .alu, .async, 0, [⟨d.toNat, c.act.map fun l => (l, ⟨v l, tag, false⟩), if c.full then sh else .general⟩], [], [], c.s.time, true⟩
    else ((now c).write c d.toNat (fun l => ⟨v l, tag, false⟩) sh).orFlags c e)

/-- The instruction delivers register d, tag and shape as given; element q of lane l and the flags it raises satisfy P. -/
def ByElement (late : Bool) (i : Instr) (s : State) (c : Ctx) (ty : ETy) (d : BitVec 6) (tag : Tag) (sh : Shape)
    (P : Nat → Nat → Nat → Fl → Prop) : Prop :=
  ∃ (v : Nat → Word) (e : Nat → Nat → Fl),
    Delivers late i s c d tag sh v (fun l => orOver ty.count (e l)) ∧
    ∀ l ∈ c.act, ∀ q < ty.count, P l q (elem ty.bits q (v l)) (e l q)

/-- A one-source element-wise instruction: what element and flags satisfy, given the source's element. -/
def Elementwise1 (i : Instr) (ty : ETy) (f : VF) (tag : Tag) (ta : Option Tag) (P : Nat → Nat → Fl → Prop) (late : Bool := false) : Prop :=
  ∀ s c, ready i (vNames f true 1) f s c [(c.srcA f ty, ta)] →
    ByElement late i s c ty f.d tag (c.shapeOf .plain [c.srcA f ty]) fun l q r e => P (elA c f ty l q) r e

/-- A two-source one. -/
def Elementwise2 (i : Instr) (ty : ETy) (f : VF) (tag : Tag) (ta tb : Option Tag) (rule : ShapeRule) (P : Nat → Nat → Nat → Fl → Prop)
    (late : Bool := false) : Prop :=
  ∀ s c, ready i (vNames f true 2) f s c [(c.srcA f ty, ta), (c.srcB f ty, tb)] →
    ByElement late i s c ty f.d tag (c.shapeOf (if ty.bits = 64 then rule else .plain) [c.srcA f ty, c.srcB f ty])
      fun l q r e => P (elA c f ty l q) (elB c f ty l q) r e

/-- A three-source one. -/
def Elementwise3 (i : Instr) (ty : ETy) (f : VF) (tag : Tag) (ta : Option Tag) (P : Nat → Nat → Nat → Nat → Fl → Prop) : Prop :=
  ∀ s c, ready i (vNames f true 3) f s c [(c.srcA f ty, ta), (c.srcB f ty, ta), (c.srcC f ty, ta)] →
    ByElement false i s c ty f.d tag (c.shapeOf .plain [c.srcA f ty, c.srcB f ty, c.srcC f ty])
      fun l q r e => P (elA c f ty l q) (elB c f ty l q) (elC c f ty l q) r e

/-- An instruction that writes the whole row v of every active lane, raising no flag. -/
def WritesRow (i : Instr) (s : State) (c : Ctx) (d : BitVec 6) (tag : Tag) (sh : Shape) (v : Nat → Word) : Prop :=
  Completes i s c ((now c).write c d.toNat (fun l => ⟨v l, tag, false⟩) sh)

/-- A two-source instruction on whole rows. -/
def Rowwise2 (i : Instr) (ty : ETy) (f : VF) (g : Word → Word → Word) : Prop :=
  ∀ s c, ready i (vNames f true 2) f s c [(c.srcA f ty, none), (c.srcB f ty, none)] →
    WritesRow i s c f.d .raw (c.shapeOf .plain [c.srcA f ty, c.srcB f ty]) fun l => g ((c.srcA f ty).val l) ((c.srcB f ty).val l)

/-! ## What a statement says of the state after -/

/-- Instruction or event i answers a next state that satisfies P. -/
def Does (i : Instr) (s : State) (P : State → Prop) : Prop := ∃ t, exec i s = .next t ∧ P t

/-- Thread y is thread x but for where it stands and the team barriers at which it has arrived. -/
def sameWork (x y : Thread) : Prop :=
  y = { x with st := y.st, pc := y.pc, clause := y.clause, prevY := y.prevY, nxt := y.nxt, nxtIn := y.nxtIn, arrived := y.arrived }

/-- Every register and its shape, of every fibre, reads the same. -/
def sameRegs (s t : State) : Prop := ∀ r n, (regAt t r n).shape = (regAt s r n).shape ∧ ∀ l, rowAt t r n l = rowAt s r n l

/-- Nothing changes but where threads stand, barrier counts, the galleries, and the core's note of its latest `reform`. -/
structure OnlyMoves (s t : State) : Prop where
  rest : t = { s with teams := t.teams, cores := t.cores }
  cores : ∀ k, t.core k = { s.core k with
    gallery := (t.core k).gallery
    reform := (t.core k).reform }
  regs : sameRegs s t
  threads : ∀ r l, sameWork (threadAt s r l) (threadAt t r l)

/-- A thread continues after the instruction of context c. -/
def goesOn (c : Ctx) (t : Thread) : Prop :=
  t.st = .waiting ∧ t.pc = c.is.after.1 ∧ t.clause = if c.is.after.2 then some c.is.hdr else none

/-- The threads of the lanes given continue after the instruction, or issue its successor. -/
def continues (c : Ctx) (t : State) (l : Nat) : Prop :=
  goesOn c (threadAt t c.r l) ∨ ((threadAt t c.r l).st = .issuing ∧ c.is.after.2 = true)

/-- The instruction stalls, and that is the wait point of every window of its bundle (R134, R145; assumption 112): its fibre, and the rest of
the machine, are as before. -/
def Drains (i : Instr) (s : State) (c : Ctx) : Prop := Does i s fun t => OnlyMoves s t ∧ ∃ F, s.fibre? c.r = some F ∧
  t.fibre? c.r = some { F with ops := F.ops.map (Op.closeAt (maskOf c.bundle) c.is.idx) }

/-! ## Memory accesses -/

/-- The byte that stands at a place. -/
def placeByte (s : State) (p : Place) : Byte :=
  match p with
  | .ram la => cellGet s.mem la
  | .bank c k off => cellGet ((s.core c).banks.getD k ⟨.free, [], []⟩).data off
  | .far _ => 0

/-- The number that n bytes at a physical address hold, lowest byte first. -/
def numAt (s : State) (pa n : Nat) : Nat := leNat (s.readPlace (s.place pa) n).1

/-- Poison at n bytes at a physical address. -/
def poisAt (s : State) (pa n : Nat) : Bool := (s.readPlace (s.place pa) n).2

/-- Every active lane passes the checks of R149, gives the physical address pa, and that is local and in no engine-owned granule. -/
def accessOk (c : Ctx) (q : LaneReq) (n : Nat) (pa : Nat → Nat) : Prop := ∀ l ∈ c.act,
  c.checkLane q l = .ok (pa l) ∧ pkgOf (pa l) = c.s.pkg.toNat ∧ (∀ k < n, pkgOf (pa l + k) = c.s.pkg.toNat) ∧ ∀ g ∈ (c.s.place (pa l)).granules n, c.s.engineOwned g = false

/-- No outstanding acquire holds the access back, and a release finds no earlier access outstanding (R296). -/
def inOrder (c : Ctx) (release : Bool) : Prop :=
  c.f.acquiring = false ∧ (release = true → c.f.ops.any Op.accesses = false)

/-- The operation op becomes outstanding; translations may be cached. -/
def Out.issues (o : Out) (op : Op) (t : State) : Out := (o.adds op).onState fun u => { u with tlb := t.tlb }

/-- The window of an operation with lookahead code la (R86): the instruction before which its wait point lies and the bundle that waits
there; with code 15 it has none (R87). -/
def opens (c : Ctx) (la : Nat) (op : Op) : Prop :=
  if la = 15 then op.ahead = .async ∧ op.lanes = 0 else op.ahead = .window c.is.hdr (c.is.idx + 1 + la) ∧ op.lanes = maskOf c.bundle

/-- A read of the active lanes, made once, becomes outstanding: the operation holds, for each destination register and lane, the row that
out gives, and its predicates; flags are set now. -/
def LaneReads (i : Instr) (s : State) (c : Ctx) (classes : List WClass) (la : Nat) (regs : List Nat) (sh : Shape) (o : Out)
    (out : Nat → LaneOut) : Prop :=
  Does i s fun t => ∃ op : Op, After c t ((o.orFlags c fun l => (out l).fl).issues op t) ∧
    op.classes = classes ∧ op.kind = .load ∧ op.done = false ∧ opens c la op ∧
    (∀ h ∈ op.writes, h.reg ∈ regs ∧ h.shape = if c.full then sh else .general) ∧
    (∀ n l x, (∃ h ∈ op.writes, h.reg = n ∧ (l, x) ∈ h.rows) ↔ n ∈ regs ∧ l ∈ c.act ∧ ((out l).rows.find? fun y => y.1 == n) = some (n, x)) ∧
    ∀ l p v, ⟨l, p, v⟩ ∈ op.preds ↔ l ∈ c.act ∧ (p, v) ∈ (out l).preds

/-- Bytes in memory, banks and format pages may differ. -/
def Out.stores (o : Out) (t : State) : Out :=
  o.onState fun u => { u with mem := t.mem, home := t.home, poison := t.poison, cores := t.cores, convs := t.convs }

/-- The 32-byte header of the format page that holds a virtual address. -/
def headerBytes (c : Ctx) (va : Nat) (p : Place) : Prop :=
  ∃ b, c.s.fmtBase c.t.ctx va = some b ∧ ∃ k < 32, p = .ram (b + k)

/-- The stores of the active lanes of n bytes each at place (lane): byte k of lane l is data l k, unless a higher lane overwrites it;
every other byte of memory and of the pool banks, but for headers of format pages, is unchanged. -/
def stored (c : Ctx) (t : State) (va pa : Nat → Nat) (n : Nat) (data : Nat → Nat → Byte) : Prop :=
  let at_ (l k : Nat) : Place := (c.s.place (pa l)).add k
  let header (p : Place) : Prop := ∃ l ∈ c.act, headerBytes c (va l) p
  (∀ p, (∀ l ∈ c.act, ∀ k < n, at_ l k ≠ p) → ¬header p → placeByte t p = placeByte c.s p) ∧
  ∀ l ∈ c.act, ∀ k < n, (∀ m ∈ c.act, l < m → ∀ j < n, at_ m j ≠ at_ l k) → ¬header (at_ l k) → placeByte t (at_ l k) = data l k

/-- The parts of a transfer inside the package are performed: every byte of a destination that no other part writes is its source byte, and every
byte elsewhere, but for headers of the format pages given, is unchanged. -/
def moved (s t : State) (ps : List XPart) (pages : List Nat) : Prop :=
  let header (x : Place) : Prop := ∃ b ∈ pages, ∃ k < 32, x = .ram (b + k)
  (∀ x, (∀ p ∈ ps, ∀ k < p.len, (s.place p.dst).add k ≠ x) → ¬header x → placeByte t x = placeByte s x) ∧
  ∀ (i : Nat) (p : XPart), ps[i]? = some p → ∀ k < p.len, ¬header ((s.place p.dst).add k) →
    (∀ (j : Nat) (q : XPart), ps[j]? = some q → ∀ m < q.len, j ≠ i ∨ m ≠ k → (s.place q.dst).add m ≠ (s.place p.dst).add k) →
    placeByte t ((s.place p.dst).add k) = placeByte s ((s.place p.src).add k)

/-! ## Outstanding operations -/

/-- Operation id of fibre r is complete in t: it is marked done, or, holding nothing and without a wait point, gone; nothing else has
changed. -/
structure Completed (s t : State) (r : FibreRef) (id : Nat) : Prop where
  rest : t = { s with teams := t.teams }
  regs : sameRegs s t
  threads : ∀ k l, threadAt t k l = threadAt s k l
  ops : ∀ F, s.fibre? r = some F → ∃ G, t.fibre? r = some G ∧
    (∀ o ∈ F.ops, o.id ≠ id → o ∈ G.ops) ∧ (∀ o ∈ G.ops, o.id = id → o.done = true) ∧
    ∀ o ∈ F.ops, o.id = id → o.isWindow = true ∨ o.writes ≠ [] ∨ o.preds ≠ [] → { o with done := true } ∈ G.ops

/-! ## Exceptions and terminations -/

/-- The fibre of context c has taken the exception e in t, at the handler address it held (R330 to R333): the fault record and the stop point are
written, the stopped bundle stands at the handler, and nothing else has changed. -/
structure TrapEntered (c : Ctx) (tpc : Word) (e : Flt) (s t : State) : Prop where
  rest : t = { s with teams := t.teams }
  regs : sameRegs s t
  teams : ∀ u, u ≠ c.r.team → t.team? u = s.team? u
  own : ∃ T T' G, s.team? c.r.team = some T ∧ t.team? c.r.team = some T' ∧ T'.fibre? c.r.fid = some G ∧
    (∀ k, k ≠ c.r.fid → T'.fibre? k = T.fibre? k) ∧
    G = { c.f0 with
      frec := ⟨BitVec.ofNat 64 (e.code * 2 ^ 56 + e.src * 2 ^ 52 + e.detail % 2 ^ 16 * 2 ^ 32 + e.info % 2 ^ 32), e.addr, e.lanes, s.time⟩
      tpc := tpc
      tmask := maskOf c.bundle
      handler := some ⟨c.is.hdr, maskOf c.bundle⟩
      issue := none
      fetched := false
      pending := G.pending
      threads := G.threads } ∧
    ∀ l, if l ∈ c.bundle then G.thread l = { c.f0.thread l with st := .waiting, pc := c.f0.tvec, clause := none } else G.thread l = c.f0.thread l

/-- Context ctx is terminated in t with word 1 of its record as given: its threads have exited and its launches are complete. The record is
written when the termination has completed (R358, R359, R434). -/
structure Terminated (ctx : Nat) (w : Word) (s t : State) : Prop where
  dying : (t.ctx ctx).dying = true
  word : (t.ctx ctx).termRec = w
  threads : ∀ T ∈ t.teams, T.ctx = ctx → ∀ F ∈ T.fibres, F.issue = none ∧ F.ops = [] ∧ ∀ x ∈ F.threads, x.live = false
  launches : ∀ l ∈ t.launches, l.lrec.ctx = ctx → l.stage = .complete
  queues : ∀ d ∈ t.dies, ∀ q, some q ∈ d.queues → q.ctx = ctx → q.enabled = false
  saved : ∀ x ∈ t.saved, x.team.ctx ≠ ctx
  others : (s.teams.map (·.uid)).Nodup → ∀ u T, s.team? u = some T → T.ctx ≠ ctx → t.team? u = some T
  mbox : t.mbox = s.mbox

/-- Instruction i takes the exception e at the stop point: it enters the handler, or, in the handler or without a legal handler address,
terminates the context (R332). -/
def Traps (i : Instr) (s : State) (c : Ctx) (tpc : Word) (e : Flt) : Prop :=
  (c.f0.handler = none → targetOk c.lr c.f0.tvec = true → c.f0.ops.any Op.isWindow = false → Does i s (TrapEntered c tpc e s)) ∧
  (c.f0.handler.isSome = true ∨ targetOk c.lr c.f0.tvec = false → c.f0.mustWait = false → s.canPost = true → (s.ctx c.t.ctx).dying = false →
    c.t.ctx < s.ctxs.length → Does i s (Terminated c.t.ctx (termWord c.t.ctx (if c.f0.handler.isSome then 2 else 1) e.code e.info) s))

/-! ## Exact numbers -/

/-- The rational number that a fraction stands for. -/
def rat (x : Frac) : Rat := x.num / x.den

end Sys2Proof.Safety
end

