-- ==== Sys2Proof/Certificates/Slice0/Obligations.lean ====
section
/-! DEFINITION. The statements for the provers. `issuing i n s = some c` says that nothing holds instruction i back at s and that c is
what its meaning is given; `Completes` that exec answers a next state, and what it leaves. -/

open Sys2Proof Sys2Proof.Machine Sys2Proof.Safety

/-! ## Integer and logic instructions (format V and I) -/

/-- R101, R102, R52, R53: the element results of the arithmetic majors 0x01 to 0x09, modulo 2^n, with DZ in the exceptional divisions; every register,
predicate and flag else, and every byte of memory, is unchanged (`After`). -/
def Obligations.IntegerArithmeticResults : Prop := ∀ (ty : ETy) (f : VF),
  Elementwise2 (.iadd ty f) ty f .raw none none .add (fun x y r e => r = (x + y) % 2 ^ ty.bits ∧ e = 0) ∧
  Elementwise2 (.isub ty f) ty f .raw none none .sub (fun x y r e => (r : Int) = ((x : Int) - y) % 2 ^ ty.bits ∧ e = 0) ∧
  (f.c = 0 → Elementwise2 (.imul ty f) ty f .raw none none .mul fun x y r e => r = x * y % 2 ^ ty.bits ∧ e = 0) ∧
  (f.c = 1 → Elementwise2 (.imul ty f) ty f .raw none none .plain fun x y r e =>
    (r : Int) = intOf ty x * intOf ty y / 2 ^ ty.bits % 2 ^ ty.bits ∧ e = 0) ∧
  (f.c = 2 → ∀ s c, ready (.imul ty f) (vNames f true 2) f s c [(c.srcA f ty, none), (c.srcB f ty, none)] → ∃ v,
    WritesRow (.imul ty f) s c f.d .raw (c.shapeOf .plain [c.srcA f ty, c.srcB f ty]) v ∧
    ∀ l ∈ c.act, ∀ q < ty.count / 2,
      (elem (2 * ty.bits) q (v l) : Int) = intOf ty (elA c f ty l q) * intOf ty (elB c f ty l q) % 2 ^ (2 * ty.bits)) ∧
  Elementwise3 (.imad ty f) ty f .raw none (fun x y z r e => r = (x * y + z) % 2 ^ ty.bits ∧ e = 0) ∧
  Elementwise2 (.idiv ty f) ty f .raw none none .plain (fun x y r e =>
    if intOf ty y = 0 then r = 2 ^ ty.bits - 1 ∧ e = flDZ
    else if ty.isI = true ∧ intOf ty x = intMin ty ∧ intOf ty y = -1 then intOf ty r = intMin ty ∧ e = flDZ
    else intOf ty r = (intOf ty x).tdiv (intOf ty y) ∧ e = 0) (late := true) ∧
  Elementwise2 (.irem ty f) ty f .raw none none .plain (fun x y r e =>
    if intOf ty y = 0 then r = x ∧ e = flDZ
    else if ty.isI = true ∧ intOf ty x = intMin ty ∧ intOf ty y = -1 then r = 0 ∧ e = flDZ
    else intOf ty r = (intOf ty x).tmod (intOf ty y) ∧ e = 0) (late := true) ∧
  Elementwise2 (.imin ty f) ty f .raw none none .plain (fun x y r e => intOf ty r = min (intOf ty x) (intOf ty y) ∧ e = 0) ∧
  Elementwise2 (.imax ty f) ty f .raw none none .plain (fun x y r e => intOf ty r = max (intOf ty x) (intOf ty y) ∧ e = 0) ∧
  Elementwise2 (.iabsd ty f) ty f .raw none none .plain (fun x y r e => r = (intOf ty x - intOf ty y).natAbs ∧ e = 0)

/-- R103: shift counts are bits [7:0] of the element of b; a count of n or more gives 0, or n copies of the sign; rot takes it modulo n. -/
def Obligations.ShiftResults : Prop := ∀ (ty : ETy) (f : VF),
  Elementwise2 (.shl ty f) ty f .raw none none .plain (fun x y r e => e = 0 ∧
    r = if ty.bits ≤ y % 256 then 0 else x * 2 ^ (y % 256) % 2 ^ ty.bits) ∧
  Elementwise2 (.shr ty f) ty f .raw none none .plain (fun x y r e => e = 0 ∧
    r = if ty.bits ≤ y % 256 then 0 else x / 2 ^ (y % 256)) ∧
  Elementwise2 (.sar ty f) ty f .raw none none .plain (fun x y r e => e = 0 ∧
    sext ty.bits r = if ty.bits ≤ y % 256 then (if sext ty.bits x < 0 then -1 else 0) else sext ty.bits x / 2 ^ (y % 256)) ∧
  Elementwise2 (.rot ty f) ty f .raw none none .plain (fun x y r e => e = 0 ∧
    ∀ k < ty.bits, r.testBit ((k + y % 256) % ty.bits) = x.testBit k)

/-- R104, R101: the logic, field and bit-count instructions: `and`, `or`, `xor` by rows, `bfx` and `bfi` with a position and a length from b, `popc`,
`clz` and `brev` by elements. -/
def Obligations.LogicAndFieldResults : Prop := ∀ (ty : ETy) (f : VF),
  Rowwise2 (.and ty f) ty f (fun a b => a &&& b) ∧
  Rowwise2 (.or ty f) ty f (fun a b => a ||| b) ∧
  Rowwise2 (.xor ty f) ty f (fun a b => a ^^^ b) ∧
  Elementwise2 (.bfx ty f) ty f .raw none none .plain (fun x y r e => e = 0 ∧
    let len := min ty.bits (y / 256 % 256)
    if len = 0 then r = 0
    else if ty.isI then sext ty.bits r = sext len (x / 2 ^ (y % 256) % 2 ^ len) else r = x / 2 ^ (y % 256) % 2 ^ len) ∧
  Elementwise3 (.bfi ty f) ty f .raw none (fun x y z r e => e = 0 ∧
    ∀ k < ty.bits, r.testBit k = if y % 256 ≤ k ∧ k < y % 256 + min ty.bits (y / 256 % 256) then x.testBit (k - y % 256) else z.testBit k) ∧
  Elementwise1 (.popc ty f) ty f .raw none (fun x r e => e = 0 ∧ r = (List.range ty.bits).countP fun k => x.testBit k) ∧
  Elementwise1 (.clz ty f) ty f .raw none (fun x r e => e = 0 ∧ if x = 0 then r = ty.bits
    else r < ty.bits ∧ 2 ^ (ty.bits - 1 - r) ≤ x ∧ x < 2 ^ (ty.bits - r)) ∧
  Elementwise1 (.brev ty f) ty f .raw none (fun x r e => e = 0 ∧ ∀ k < ty.bits, r.testBit k = x.testBit (ty.bits - 1 - k))

/-- R105 (sel), R106, R107 and `mov`: the rows they write, and the shape of the `sel` and `mov` rows of R32. R108: the immediate forms; `movi` and
`movhi` give a uniform register. -/
def Obligations.MoveSelectAndImmediateResults : Prop :=
  (∀ (s : State) (c : Ctx) (ty : ETy) (f : VF),
  (ready (.sel f) (vNames f true 2) f s c [(c.srcA f .b64, none), (c.srcB f .b64, none)] →
    let p : BitVec 3 := f.c.extractLsb' 0 3
    let takesA (l : Nat) : Bool := (c.f0.thread l).pred p != f.c.getLsbD 3
    ∃ sh, WritesRow (.sel f) s c f.d .raw sh (fun l => if takesA l then (c.srcA f .b64).val l else (c.srcB f .b64).val l) ∧
      (sh = .uniform ∨ sh = .general) ∧
      (sh = .uniform ↔ (p = 7 ∧ (if f.c.getLsbD 3 then c.srcB f .b64 else c.srcA f .b64).shape = .uniform) ∨
        (p ≠ 7 ∧ (c.srcA f .b64).shape = .uniform ∧ (c.srcB f .b64).shape = .uniform ∧
          (c.srcA f .b64).val c.low = (c.srcB f .b64).val c.low))) ∧
  (ready (.mov f) (vNames f true 1) f s c [(c.srcA f .b64, none)] →
    WritesRow (.mov f) s c f.d .raw (c.srcA f .b64).shape (c.srcA f .b64).val) ∧
  (ready (.lea ty f) (vNames f true 2) f s c [(c.srcA f ty, none), (c.srcB f ty, none)] → ∃ v,
    WritesRow (.lea ty f) s c f.d .raw (c.shapeOf .plain [c.srcA f ty, c.srcB f ty]) v ∧
    ∀ l ∈ c.act, ((v l).toNat : Int) = (((c.srcA f ty).val l).toNat + intOf ty (elB c f ty l 0) * 2 ^ f.c.toNat) % 2 ^ 64) ∧
  (f.c.toNat / 16 = 0 → ready (.subx ty f) (vNames f true 1) f s c [(c.srcA f ty, none)] → ∃ v,
    WritesRow (.subx ty f) s c f.d .raw (c.shapeOf .plain [c.srcA f ty]) v ∧
    ∀ l ∈ c.act, ((v l).toNat : Int) = intOf ty (elA c f ty l (f.c.toNat % 8)) % 2 ^ 64) ∧
  (f.c.toNat / 16 = 1 → ready (.subx ty f) (vNames f true 2) f s c [(c.srcA f ty, none), (c.srcB f ty, none)] → ∃ v,
    WritesRow (.subx ty f) s c f.d .raw (c.shapeOf .plain [c.srcA f ty, c.srcB f ty]) v ∧
    ∀ l ∈ c.act, ∀ q < ty.count, elem ty.bits q (v l) = if q = f.c.toNat % 8 then elA c f ty l 0 else elB c f ty l q) ∧
  (f.c.toNat / 16 = 2 → ready (.subx ty f) (vNames f true 2) f s c [(c.srcA f ty, none), (c.srcB f ty, none)] → ∃ v,
    WritesRow (.subx ty f) s c f.d .raw (c.shapeOf .plain [c.srcA f ty, c.srcB f ty]) v ∧
    ∀ l ∈ c.act, ∀ q < ty.count,
      let x := if q < ty.count / 2 then elem (2 * ty.bits) q ((c.srcA f ty).val l)
        else elem (2 * ty.bits) (q - ty.count / 2) ((c.srcB f ty).val l)
      if ty.isB then elem ty.bits q (v l) = x % 2 ^ ty.bits
      else intOf ty (elem ty.bits q (v l)) = max (intMin ty) (min (intMax ty) (if ty.isI then sext (2 * ty.bits) x else x)))) ∧
  (∀ (s : State) (c : Ctx) (ty : ETy) (f : IF),
  let a := c.src 2 f.a 0 0
  let reads (i : Instr) (d : Bool) : Prop := issuing i (iNames f d true) s = some c ∧ clean c [(a, none)]
  (issuing (.movi f) (iNames f true false) s = some c → WritesRow (.movi f) s c f.d .raw .uniform fun _ => f.imm.signExtend 64) ∧
  (issuing (.movhi f) (iNames f true false) s = some c → ∃ v, WritesRow (.movhi f) s c f.d .raw .uniform (fun _ => v) ∧
    v.toNat = f.imm.toNat * 2 ^ 32) ∧
  let plain : Shape := match a.shape with | .uniform => .uniform | _ => .general
  (reads (.iaddi ty f) true → ∃ v, WritesRow (.iaddi ty f) s c f.d .raw
      (match a.shape with | .affine b st => if ty.bits = 64 then .affine (b + f.imm.signExtend 64) st else .general | _ => plain) v ∧
    ∀ l ∈ c.act, ∀ q < ty.count, (elem ty.bits q (v l) : Int) = (elem ty.bits q (a.val l) + f.imm.toInt) % 2 ^ ty.bits) ∧
  (reads (.andi f) true → WritesRow (.andi f) s c f.d .raw plain fun l => a.val l &&& f.imm.signExtend 64) ∧
  (reads (.ori f) true → WritesRow (.ori f) s c f.d .raw plain fun l => a.val l ||| f.imm.setWidth 64) ∧
  (reads (.xori f) true → WritesRow (.xori f) s c f.d .raw plain fun l => a.val l ^^^ f.imm.setWidth 64))

/-- R24: operand code 63 reads the clause constant, sign-extended, uniform and raw, in every source position; so `mov` of it, without modifiers,
writes that. -/
def Obligations.OperandSixtyThreeReadsKc : Prop := ∀ (s : State) (c : Ctx) (f : VF),
  (∀ (field : Nat) (perm : BitVec 3) (p : Nat), (c.src field 63 perm p).shape = .uniform ∧
    ∀ l < c.w, (c.src field 63 perm p).row l = ⟨c.is.kc.signExtend 64, .raw, false⟩) ∧
  (f.a = 63 → f.mods = 0 → ready (.mov f) (vNames f true 1) f s c [(c.srcA f .b64, none)] →
    WritesRow (.mov f) s c f.d .raw .uniform fun _ => c.is.kc.signExtend 64)

/-- R105, R108, R111: the compares write one predicate, by element 0; nothing else changes. -/
def Obligations.ComparesWriteOnePredicate : Prop := ∀ (s : State) (c : Ctx) (ty : ETy) (f : VF) (g : IF),
  let holds (k : Nat) (x y : Int) : Prop := (k = 0 ∧ x = y) ∨ (k = 1 ∧ x ≠ y) ∨ (k = 2 ∧ x < y) ∨ (k = 3 ∧ x ≤ y) ∨ (k = 4 ∧ x > y) ∨ (k = 5 ∧ x ≥ y)
  (ready (.icmp ty f) (vNames f false 2) f s c [(c.srcA f ty, none), (c.srcB f ty, none)] → ∃ b,
    Completes (.icmp ty f) s c ((now c).setPred c (f.d.extractLsb' 0 3) b) ∧
    ∀ l ∈ c.act, (b l = true ↔ holds f.c.toNat (intOf ty (elA c f ty l 0)) (intOf ty (elB c f ty l 0)))) ∧
  (issuing (.icmpi ty g) (iNames g false true) s = some c → clean c [(c.src 2 g.a 0 0, none)] → ∃ b,
    Completes (.icmpi ty g) s c ((now c).setPred c (g.d.extractLsb' 0 3) b) ∧
    ∀ l ∈ c.act, (b l = true ↔ holds (g.d.toNat / 8) (intOf ty (elem ty.bits 0 ((c.src 2 g.a 0 0).val l)))
      (if ty.isI then g.imm.toInt else g.imm.toNat))) ∧
  (ready (.fcmp ty f) (vNames f false 2) f s c [(c.srcA f ty, some (tagOf ty)), (c.srcB f ty, some (tagOf ty))] → ∃ b,
    Completes (.fcmp ty f) s c ((now c).setPred c (f.d.extractLsb' 0 3) b) ∧
    ∀ l ∈ c.act,
      let x := valOf ty (elA c f ty l 0)
      let y := valOf ty (elB c f ty l 0)
      if x.isNan ∨ y.isNan then (b l = true ↔ f.c.toNat = 1 ∨ f.c.toNat = 6)
      else (b l = true ↔ (f.c.toNat = 0 ∧ x.eq y) ∨ (f.c.toNat = 1 ∧ ¬x.eq y) ∨ (f.c.toNat = 2 ∧ x.lt y) ∨
        (f.c.toNat = 3 ∧ (x.lt y ∨ x.eq y)) ∨ (f.c.toNat = 4 ∧ y.lt x) ∨ (f.c.toNat = 5 ∧ (y.lt x ∨ x.eq y)) ∨ f.c.toNat = 7))

/-! ## Floating-point instructions -/

/-- R56, R57: the quantum count that each rounding mode chooses for the exact magnitude num/den × 2^ex in quanta of 2^qe, where n/d is that magnitude
in quanta; and the integer square root under `fsqrt` and `frsq` is the exact one, truncated (R113). R59, R61, R62: what rounding gives a NaN, an
infinity, and a finite value beyond the format: the canonical NaN or, in E2M1, +0 with NV; the infinity, or ±largest; and for an overflow saturation
or the IEEE-style result, with OF and NX. R65: a representable value rounds to itself with no flag; a result in range is the mode's choice of quanta
in the value's binade (those of the smallest normal below it); OF is set exactly when that lies beyond the largest finite value, NX exactly when the
result differs from the exact value, and UF when it is also nonzero and below the smallest normal. The model's own choices here: what sign a zero
keeps when a nonzero value rounds to it (assumption 125), and the accuracy of the square root before its one rounding (assumption 107). -/
def Obligations.RoundingResults : Prop :=
  ((∀ (neg : Bool) (dith num den : Nat) (ex qe : Int), 0 < den → dith < 32 →
    let n := num * pow2 (ex - qe)
    let d := den * pow2 (qe - ex)
    let q (m : Rnd) := (quanta m neg dith num den ex qe).1
    (∀ m, (quanta m neg dith num den ex qe).2 = true ↔ ¬d ∣ n) ∧
    (∀ m, d ∣ n → q m * d = n) ∧
    q .rtz = n / d ∧
    q .rdn = (if neg then (n + d - 1) / d else n / d) ∧
    q .rup = (if neg then n / d else (n + d - 1) / d) ∧
    (2 * (n : Int) - 2 * (q .rne * d) ≤ d ∧ 2 * (q .rne * d) - 2 * (n : Int) ≤ d ∧
      (2 * (n : Int) - 2 * (q .rne * d) = d ∨ 2 * (q .rne * d) - 2 * (n : Int) = d → q .rne % 2 = 0)) ∧
    q .rna = (2 * n + d) / (2 * d) ∧
    q .sd = (32 * n + dith * d) / (32 * d)) ∧
  ∀ n, isqrt n * isqrt n ≤ n ∧ n < (isqrt n + 1) * (isqrt n + 1)) ∧
  (∀ (mode : Rnd) (dith : Nat) (sat neg : Bool) (scale : Int) (num den : Nat) (ex : Int),
  (∀ f ∈ [fmtF32, fmtF16, fmtBf16, fmtE4m3, fmtE5m2], roundFV f mode dith sat scale .nan = (f.nan, 0)) ∧
  roundFV fmtE2m1 mode dith sat scale .nan = (0, flNV) ∧
  (∀ f ∈ [fmtF32, fmtF16, fmtBf16, fmtE5m2], roundFV f mode dith sat scale (.inf neg) = (f.withSign neg f.infCode, 0)) ∧
  roundFV fmtE4m3 mode dith true scale (.inf neg) = (if neg then 0xFE else 0x7E, flOF ||| flNX) ∧
  roundFV fmtE4m3 mode dith false scale (.inf neg) = (0x7F, flNV) ∧
  roundFV fmtE2m1 mode dith sat scale (.inf neg) = (if neg then 0xF else 0x7, flOF ||| flNX) ∧
  (∀ f ∈ [fmtF32, fmtF16, fmtBf16, fmtE4m3, fmtE5m2, fmtE2m1],
    let r := roundQ f mode dith sat neg num den ex
    0 < den →
    (r.2 &&& flNV = 0) ∧
    (r.2 &&& flOF = flOF → r.2 = flOF ||| flNX ∧
      r.1 = (match f.sp with
        | .none => f.withSign neg f.maxCode
        | .e4m3 => if sat then f.withSign neg f.maxCode else f.nan
        | .ieee => f.withSign neg (if sat then f.maxCode else f.infCode))) ∧
    (r.2 &&& flOF = 0 → ∃ c ≤ f.maxCode, r.1 = f.withSign neg c ∧
      (∀ m e, f.value c = .fin false m e → (r.2 &&& flNX = 0 ↔ m * den * pow2 (e - ex) = num * pow2 (ex - e))) ∧
      (r.2 &&& flUF = flUF ↔ r.2 &&& flNX = flNX ∧ 0 < c ∧ c < 2 ^ f.man)) ∧
    ∀ l : Int, l.natAbs ≤ 3000 → den * pow2 (l - ex) ≤ num * pow2 (ex - l) → num * pow2 (ex - l) < 2 * den * pow2 (l - ex) →
      let qe : Int := max f.emin l - f.man
      let q := (quanta mode neg dith num den ex qe).1
      (∀ m e, f.value f.maxCode = .fin false m e → (r.2 &&& flOF = flOF ↔ m * pow2 (e - qe) < q * pow2 (qe - e))) ∧
      ∀ c m e, r.2 &&& flOF = 0 → c ≤ f.maxCode → r.1 = f.withSign neg c → f.value c = .fin false m e → m * pow2 (e - qe) = q * pow2 (qe - e)) ∧
  ∀ f ∈ [fmtF32, fmtF16, fmtBf16, fmtE4m3, fmtE5m2, fmtE2m1], ∀ c ≤ f.maxCode, dith < 32 →
    roundFV f mode dith sat 0 (f.value (f.withSign neg c)) = (f.withSign neg c, 0))

/-- R109, R64, R36: the arithmetic of type F rounds the exact value once, with scale and clamp, and tags the row with its format. The model's own
choices here: NV beside a NaN operand (assumption 20), the sign of a value that rounds to zero (assumption 125), and that a long-latency row is held,
with its flags raised at issue (assumption 113). -/
def Obligations.FloatArithmeticResults : Prop := ∀ (ty : ETy) (f : VF),
  let t := some (tagOf ty)
  let rounds (x : FV) (inv : Fl) (r : Nat) (e : Fl) : Prop :=
    r = (finish (fmtOf ty) f.clamp f.scale x inv).1 % 2 ^ ty.bits ∧ e = (finish (fmtOf ty) f.clamp f.scale x inv).2
  let nv (b : Bool) : Fl := if b then flNV else 0
  Elementwise2 (.fadd ty f) ty f (tagOf ty) t t .plain (fun x y => rounds (sumFV [valOf ty x, valOf ty y]).1 (nv (sumFV [valOf ty x, valOf ty y]).2)) ∧
  Elementwise2 (.fmul ty f) ty f (tagOf ty) t t .plain (fun x y => rounds ((valOf ty x).mul (valOf ty y)).1 (nv ((valOf ty x).mul (valOf ty y)).2)) ∧
  Elementwise3 (.ffma ty f) ty f (tagOf ty) t (fun x y z =>
    let p := (valOf ty x).mul (valOf ty y)
    let w := sumFV [p.1, valOf ty z]
    rounds w.1 (nv (p.2 || w.2))) ∧
  Elementwise2 (.fmin ty f) ty f (tagOf ty) t t .plain (fun x y => rounds ((valOf ty x).minNum (valOf ty y)) 0) ∧
  Elementwise2 (.fmax ty f) ty f (tagOf ty) t t .plain (fun x y => rounds ((valOf ty x).maxNum (valOf ty y)) 0) ∧
  Elementwise2 (.fdiv ty f) ty f (tagOf ty) t t .plain (late := true)
    (fun x y => rounds (fdivV (valOf ty x) (valOf ty y)).1 (fdivV (valOf ty x) (valOf ty y)).2) ∧
  (∀ (n n' : Bool) (m k : Nat) (e e' : Int), 0 < m → 0 < k → ∃ q j : Nat, j ≤ 1 ∧
    fdivV (.fin n m e) (.fin n' k e') = (.fin (n != n') q (e - e' - 128 - j), 0) ∧ ((q * k : Int) - m * 2 ^ (128 + j)).natAbs < k) ∧
  ∀ s c, let b := c.srcB f (signedOf ty)
    ready (.fscale ty f) (vNames f true 2) f s c [(c.srcA f ty, t), (b, none)] →
    ByElement false (.fscale ty f) s c ty f.d (tagOf ty) (c.shapeOf .plain [c.srcA f ty, b]) fun l q r e =>
      rounds (fscaleV (valOf ty (elA c f ty l q)) (sext ty.bits (elem ty.bits q (b.val l)))) 0 r e

/-- R110, R112: `fdot` sums each half exactly with its addend and rounds once to f32; `fclass` writes the class code of each element. R113, R114: the
special functions and `fround` round one value once. That value is the reciprocal, root or reciprocal root to within one place in more than a hundred,
and for every function the table's result at the special operands and the exact cases. The model's own choices here: NV beside a NaN operand
(assumption 20), the computation of the elementary functions to 320 places before the one rounding (assumption 107), and the sign of a value that
rounds to zero (assumption 125). -/
def Obligations.DotClassAndSpecialResults : Prop :=
  (∀ (ty : ETy) (f : VF),
  (∀ s c, ready (.fdot ty f) (vNames f true 3) f s c
      [(c.srcA f ty, some (tagOf ty)), (c.srcB f ty, some (tagOf ty)), (c.srcC f .f32, some .f32)] → ∃ (v : Nat → Word) (e : Nat → Fl),
    Completes (.fdot ty f) s c (((now c).write c f.d.toNat (fun l => ⟨v l, .f32, false⟩)
      (c.shapeOf .plain [c.srcA f ty, c.srcB f ty, c.srcC f .f32])).orFlags c e) ∧
    ∀ l ∈ c.act,
      let half (h : Nat) : Nat × Fl :=
        let ps := (List.range (ty.count / 2)).map fun j =>
          (valOf ty (elA c f ty l (h * (ty.count / 2) + j))).mul (valOf ty (elB c f ty l (h * (ty.count / 2) + j)))
        let w := sumFV (ps.map (·.1) ++ [fmtF32.value (elC c f .f32 l h)])
        finish fmtF32 f.clamp f.scale w.1 (if w.2 || ps.any (·.2) then flNV else 0)
      elem 32 0 (v l) = (half 0).1 % 2 ^ 32 ∧ elem 32 1 (v l) = (half 1).1 % 2 ^ 32 ∧ e l = (half 0).2 ||| (half 1).2) ∧
  Elementwise1 (.fclass ty f) ty f .raw (some (tagOf ty)) (fun x r e => e = 0 ∧
    let ex := x / 2 ^ (fmtOf ty).man % 2 ^ (fmtOf ty).ex
    match valOf ty x with
    | .nan => r = 8
    | .inf neg => r = if neg then 0 else 7
    | .fin neg m _ => r = if m = 0 then (if neg then 3 else 4) else if ex = 0 then (if neg then 2 else 5) else (if neg then 1 else 6))) ∧
  (∀ (ty : ETy) (sub : BitVec 4) (f : VF),
  let by1 (late : Bool) (i : Instr) (ty : ETy) (g : FV → FV × Fl) : Prop := Elementwise1 i ty f (tagOf ty) (some (tagOf ty)) (late := late) fun x r e =>
    r = (finish (fmtOf ty) f.clamp f.scale (g (valOf ty x)).1 (g (valOf ty x)).2).1 % 2 ^ ty.bits ∧
    e = (finish (fmtOf ty) f.clamp f.scale (g (valOf ty x)).1 (g (valOf ty x)).2).2
  by1 true (.frcp ty f) ty frcpV ∧ by1 true (.frsq ty f) ty frsqV ∧ by1 true (.fsqrt ty f) ty fsqrtV ∧ by1 true (.fexp2 ty f) ty fexp2V ∧
  by1 true (.flog2 ty f) ty flog2V ∧ by1 true (.fsin ty f) ty fsinV ∧ by1 true (.fcos ty f) ty fcosV ∧
  by1 false (.fround sub f) (cvtTy f.c) (fun x => ((roundIntegral (.ofCode (sub.toNat % 8)) x).1,
    if (roundIntegral (.ofCode (sub.toNat % 8)) x).2 then flNX else 0)) ∧
  (∀ (n : Bool) (m : Nat) (e : Int), 0 < m → ∃ q j : Nat, j ≤ 1 ∧ frcpV (.fin n m e) = (.fin n q (-e - 128 - j), 0) ∧
    ((q * m : Int) - 2 ^ (128 + j)).natAbs < m) ∧
  (∀ (m : Nat) (e : Int), 0 < m → ∃ (q : Nat) (h : Int), fsqrtV (.fin false m e) = (.fin false q h, 0) ∧ 2 * h ≤ e ∧ 0 < q ∧
    let x := m * pow2 (e - 2 * h)
    2 ^ 128 ≤ x ∧ (q - 1) * (q - 1) < x ∧ x < (q + 1) * (q + 1)) ∧
  (∀ (m : Nat) (e : Int), 0 < m → ∃ (q : Nat) (h : Int), frsqV (.fin false m e) = (.fin false q h, 0) ∧ e + 2 * h ≤ -255 ∧
    let x := pow2 (-(e + 2 * h))
    (q - 1) * (q - 1) * m < x ∧ x < (q + 1) * (q + 1) * m) ∧
  (∀ (n : Bool) (m : Nat) (e : Int) (mode : Rnd), roundIntegral mode (.fin n m e) =
    if m = 0 ∨ 0 ≤ e then (.fin n m e, false) else (.fin n (quanta mode n 0 m 1 e 0).1 0, (quanta mode n 0 m 1 e 0).2)) ∧
  (∀ (g : FV → FV × Fl), g ∈ [frcpV, frsqV, fsqrtV, fexp2V, flog2V, fsinV, fcosV] → g .nan = (.nan, 0)) ∧
  (∀ (n : Bool) (e : Int), frcpV (.fin n 0 e) = (.inf n, flFZ) ∧ frsqV (.fin n 0 e) = (.inf n, 0) ∧ fsqrtV (.fin n 0 e) = (.fin n 0 0, 0) ∧
    fexp2V (.fin n 0 e) = (.fin false 1 0, 0) ∧ flog2V (.fin n 0 e) = (.inf true, 0) ∧ fsinV (.fin n 0 e) = (.fin n 0 0, 0) ∧
    fcosV (.fin n 0 e) = (.fin false 1 0, 0)) ∧
  (∀ n, frcpV (.inf n) = (.fin n 0 0, 0) ∧ frsqV (.inf n) = (if n then (.nan, flNV) else (.fin false 0 0, 0)) ∧
    fsqrtV (.inf n) = (if n then (.nan, flNV) else (.inf false, 0)) ∧ fexp2V (.inf n) = (if n then (.fin false 0 0, 0) else (.inf false, 0)) ∧
    flog2V (.inf n) = (if n then (.nan, flNV) else (.inf false, 0)) ∧ fsinV (.inf n) = (.nan, flNV) ∧ fcosV (.inf n) = (.nan, flNV)) ∧
  (∀ (m : Nat) (e : Int), 0 < m → frsqV (.fin true m e) = (.nan, flNV) ∧ fsqrtV (.fin true m e) = (.nan, flNV) ∧
    flog2V (.fin true m e) = (.nan, flNV)) ∧
  ∀ (n : Bool) (k : Nat), 0 < k → fsinV (.fin n k 0) = (.fin n 0 0, 0) ∧ fcosV (.fin n (2 * k - 1) (-1)) = (.fin false 0 0, 0) ∧
    flog2V (.fin false (2 ^ k) 0) = (.fin false k 0, 0))

/-- R115, R116: which elements a conversion writes and from which source elements; the others keep their bits; with the result tag; a float result is
the value rounded once, an integer result the chosen integer within the range, with NV beyond it and for NaN. R117, R118: the block scale of
`bcvt.scale` is the one that fits the largest magnitude of the live lanes of the block, or the code for values that have none; `bcvt.enc` and
`bcvt.dec` scale two elements per lane. The model's own choices here: the rows, inactive lanes and shape that `bcvt.scale` takes and gives (assumption
126), and the sign of a value that rounds to zero (assumption 125). -/
def Obligations.ConversionResults : Prop :=
  (∀ (sub : BitVec 4) (f : VF),
  let src := cvtTy f.c
  let dst := cvtTy f.b
  let g := f.c.toNat / 16
  let conv (i : Instr) : Prop := ∀ s c, issuing i (vNames f true 1) s = some c → permWidthOk f c.w = true →
    clean c ((c.srcA f src, if src.isFloat then some (tagOf src) else none) ::
      if src.count < dst.count then [(c.plain 1 f.d.toNat, none)] else []) →
    let sh := c.shapeOf .plain (c.srcA f src :: if src.count < dst.count then [c.plain 1 f.d.toNat] else [])
    ∃ (v : Nat → Word) (e : Nat → Fl),
      Completes i s c (((now c).write c f.d.toNat (fun l => ⟨v l, tagOf dst, false⟩) sh).orFlags c e) ∧
      ∀ l ∈ c.act,
        let first := if dst.count ≤ src.count then 0 else g * src.count
        let written (j : Nat) : Bool := first ≤ j && j < first + min src.count dst.count
        let cvt (j : Nat) : Nat × Fl := cvtElem src dst (.ofCode (sub.toNat % 8)) (!sub.getLsbD 3)
          (dither (l * dst.count + j) c.f.dphase.toNat)
          (elA c f src l (if dst.count ≤ src.count then g * dst.count + j else j - first))
        (∀ j < dst.count, elem dst.bits j (v l) =
          if written j then (cvt j).1 % 2 ^ dst.bits else elem dst.bits j (c.row f.d.toNat l).val) ∧
        e l = orOver dst.count fun j => if written j then (cvt j).2 else 0
  conv (.fcvt sub f) ∧ conv (.icvt sub f) ∧ conv (.fcvti sub f) ∧
  (∀ mode d sat x, dst.isFloat = true → cvtElem src dst mode sat d x =
    roundFV (fmtOf dst) mode d sat 0 (if src.isFloat then valOf src x else .fin (intOf src x < 0) (intOf src x).natAbs 0)) ∧
  (∀ mode d x n m e, x < 2 ^ src.bits → (if src.isFloat then valOf src x else .fin (intOf src x < 0) (intOf src x).natAbs 0) = FV.fin n m e →
    m ≠ 0 → dst.isFloat = false →
    let q := quanta mode n d m 1 e 0
    let z : Int := if n then -(q.1 : Int) else q.1
    let r := cvtElem src dst mode true d x
    if z < intMin dst then intOf dst r.1 = intMin dst ∧ r.2 = flNV
    else if intMax dst < z then intOf dst r.1 = intMax dst ∧ r.2 = flNV
    else intOf dst r.1 = z ∧ r.2 = if q.2 then flNX else 0) ∧
  (∀ mode d t x, (valOf src x).isNan = true → src.isFloat = true → t.isFloat = false → cvtElem src t mode true d x = (0, flNV)) ∧
  (∀ mode d t sat (x : Nat), src.isFloat = false → t.isFloat = true → intOf src x = 0 → cvtElem src t mode sat d x = (0, 0))) ∧
  (∀ (s : State) (c : Ctx) (sub : BitVec 4) (f : VF),
  let t := blkTag f
  let el := blkElem t
  let n := if t = .fb4 then 4 else 16
  let sc (l : Nat) : FV := scaleValue t (((c.srcB f .b64).val l).toNat % 256)
  (issuing (.bcvtScale sub f) (vNames f true 1) s = some c → permWidthOk f c.w = true →
    (∀ l ∈ c.act, ∀ k ∈ c.live, k / n = l / n → laneRowErr [(c.srcA f .f32, some .f32)] k = none) →
    ∃ code : Nat → Nat, WritesRow (.bcvtScale sub f) s c f.d (if t = .fb4 then .e3m5 else .e8m0) (c.shapeOf .plain [c.srcA f .f32])
        (fun l => BitVec.ofNat 64 (code l)) ∧
      ∀ l ∈ c.act,
        let entry (x : FV) : Prop := ∃ k ∈ c.live, k / n = l / n ∧ ∃ j < 2, x = fmtF32.value (elem 32 j ((c.srcA f .f32).val k))
        let some_ : Prop := ∃ (b : Bool) (m : Nat) (e : Int), entry (.fin b m e) ∧ 0 < m
        if t = .fb4 then
          ((∃ b, entry (.inf b)) → code l = 255) ∧ ((¬∃ b, entry (.inf b)) → ¬some_ → code l = 0) ∧
          ((¬∃ b, entry (.inf b)) → some_ → code l ≤ 255 ∧
            (code l = 255 ∨ ∀ b m e, entry (.fin b m e) → (FV.fin false (6 * (32 + code l % 32)) ((code l / 32 : Nat) - 8)).lt (.fin false m e) = false) ∧
            (code l = 0 ∨ ∃ b m e, entry (.fin b m e) ∧
              (FV.fin false (6 * (32 + (code l - 1) % 32)) (((code l - 1) / 32 : Nat) - 8)).lt (.fin false m e) = true))
        else
          let big : Int := if t = .mx8 then 8 else 2
          let spec : Prop := entry .nan ∨ ∃ b, entry (.inf b)
          (spec → code l = 255) ∧ (¬spec → ¬some_ → code l = 0) ∧
          (¬spec → some_ → code l ≤ 254 ∧
            (code l = 254 ∨ ∀ b m e, entry (.fin b m e) → (FV.fin false m e).lt (.fin false 1 (code l - 127 + big + 1)) = true) ∧
            (code l = 0 ∨ ∃ b m e, entry (.fin b m e) ∧ (FV.fin false m e).lt (.fin false 1 (code l - 127 + big)) = false))) ∧
  (ready (.bcvtEnc sub f) (vNames f true 2) f s c [(c.srcA f .f32, some .f32), (c.srcB f .b64, some (scaleTag t))] →
    ∃ (v : Nat → Word) (e : Nat → Fl),
      Completes (.bcvtEnc sub f) s c (((now c).write c f.d.toNat (fun l => ⟨v l, tagOf el, false⟩)
        (c.shapeOf .plain [c.srcA f .f32, c.srcB f .b64])).orFlags c e) ∧
      ∀ l ∈ c.act,
        let enc (j : Nat) : Nat × Fl := roundFV (fmtOf el) (.ofCode (sub.toNat % 8))
          (dither (l * (if el = .e4m3 then 8 else 16) + j) c.f.dphase.toNat) (!sub.getLsbD 3) 0
          (divScale (fmtF32.value (elem 32 j ((c.srcA f .f32).val l))) (sc l)).1
        (∀ q < el.count, elem el.bits q (v l) = if q < 2 then (enc q).1 % 2 ^ el.bits else 0) ∧ e l = (enc 0).2 ||| (enc 1).2) ∧
  (ready (.bcvtDec sub f) (vNames f true 2) f s c [(c.srcA f .b64, some (tagOf el)), (c.srcB f .b64, some (scaleTag t))] →
    ∃ (v : Nat → Word) (e : Nat → Fl),
      Completes (.bcvtDec sub f) s c (((now c).write c f.d.toNat (fun l => ⟨v l, .f32, false⟩)
        (c.shapeOf .plain [c.srcA f .b64, c.srcB f .b64])).orFlags c e) ∧
      ∀ l ∈ c.act,
        let dec (j : Nat) : Nat × Fl := roundFV fmtF32 .rne 0 (!sub.getLsbD 3) 0
          ((valOf el (elem el.bits j ((c.srcA f .b64).val l))).mul (sc l)).1
        elem 32 0 (v l) = (dec 0).1 % 2 ^ 32 ∧ elem 32 1 (v l) = (dec 1).1 % 2 ^ 32 ∧ e l = (dec 0).2 ||| (dec 1).2))

/-! ## Cross-lane instructions, walkers, shapes and tags -/

/-- R119, R121, R122: `shfl` and `vote` without a member mask, among the active threads, and with no effect where none is active. R120: with a mask,
active non-members have their result at once; members wait until every live thread that the mask names stands there, and then the instruction executes
once for them all and they go on. R128, R129: access to shapes and format tags. The model's own choices here: `shape.get` of a poisoned row
(assumption 12), predicates that are read before the end predicates of walkers (assumption 23), and the shape of a full `shfl` (assumption 127). -/
def Obligations.ShuffleVoteAndTagResults : Prop :=
  (∀ (s : State) (c : Ctx) (sub : BitVec 4) (f : VF), f.member = false →
  (issuing (.shfl sub f) (memberNames f true 2) s = some c → permWidthOk f c.w = true →
    (∀ l ∈ c.act, shflPoison sub c.w (c.srcA f .b64) (c.srcB f .b64) c.act.contains l = none) → ∃ v,
    WritesRow (.shfl sub f) s c f.d .raw .general v ∧
    ∀ l ∈ c.act,
      let n := shflWidth sub
      let k := 64 / n
      ∀ q < k,
        let idx := elem n q ((c.srcB f .b64).val l) % (c.w * k)
        elem n q (v l) = if idx / k ∈ c.act then elem n (idx % k) ((c.srcA f .b64).val (idx / k)) else elem n q ((c.srcA f .b64).val l)) ∧
  let yes (l : Nat) : Bool := (c.f.thread l).pred (f.a.extractLsb' 0 3) != f.a.getLsbD 3
  let issues (i : Instr) (d : Bool) : Prop := issuing i { memberNames f d 0 with codes := [] } s = some c
  (issues (.voteAny f) false → Completes (.voteAny f) s c ((now c).setPred c (f.d.extractLsb' 0 3) fun _ => c.act.any yes)) ∧
  (issues (.voteAll f) false → Completes (.voteAll f) s c ((now c).setPred c (f.d.extractLsb' 0 3) fun _ => c.act.all yes)) ∧
  (issues (.voteBallot f) true → ∃ v, WritesRow (.voteBallot f) s c f.d .raw .uniform (fun _ => v) ∧
    ∀ k < 64, v.getLsbD k = (decide (k ∈ c.act) && yes k)) ∧
  (issues (.voteCount f) true → ∃ v, WritesRow (.voteCount f) s c f.d .raw .uniform (fun _ => v) ∧
    v.toNat = c.act.countP yes % 2 ^ 64)) ∧
  (∀ (s : State) (c : Ctx) (sub : BitVec 4) (f : VF), f.member = true → f.c.toNat < 56 → c.act ≠ [] → ((c.src 4 f.c 0 0).row c.low).poison = false →
  let mask := (c.src 4 f.c 0 0).val c.low
  let a := c.srcA f .b64
  let b := c.srcB f .b64
  let yes (l : Nat) : Bool := (c.f.thread l).pred (f.a.extractLsb' 0 3) != f.a.getLsbD 3
  let shuffles : Prop := issuing (.shfl sub f) (memberNames f true 2) s = some c ∧ permWidthOk f c.w = true
  let votes (i : Instr) (d : Bool) : Prop := issuing i { memberNames f d 0 with codes := [(28, f.c.toNat)] } s = some c
  let outside : Prop := ∀ l ∈ c.act, mask.getLsbD l = false
  let inside : Prop := (∀ l ∈ c.act, mask.getLsbD l = true) ∧ (∀ l ∈ c.live, l ∉ c.act → (c.f.thread l).atRendezvous = none) ∧
    c.f.handler = none ∧ c.arrivalOk = true
  let all_ : Prop := inside ∧ (∀ l ∈ c.live, mask.getLsbD l = true → l ∈ c.act) ∧ s.filedFrom c.r = []
  let some_ : Prop := inside ∧ ∃ l ∈ c.live, mask.getLsbD l = true ∧ l ∉ c.act
  let meets (i : Instr) (o : Out) : Prop := Does i s fun t => After c t o ∧ ∀ l ∈ c.act, goesOn c (threadAt t c.r l)
  let waits (i : Instr) : Prop := Does i s fun t => sameRegs s t ∧ t.mem = s.mem ∧
    ∀ l ∈ c.act, (threadAt t c.r l).st = .blocked (.rendezvous (mask &&& maskOf (List.range c.w))) i s.time ∧ (threadAt t c.r l).pc = c.is.addr
  let pred (v : Bool) : Out := (now c).setPred c (f.d.extractLsb' 0 3) fun _ => v
  let vec (v : Word) : Out := (now c).write c f.d.toNat (fun _ => ⟨v, .raw, false⟩) .uniform
  (shuffles → outside → clean c [(a, none), (b, none)] → WritesRow (.shfl sub f) s c f.d .raw .general a.val) ∧
  (shuffles → all_ → f.a.toNat < 56 → f.b.toNat < 56 → (∀ l ∈ c.act, shflPoison sub c.w a b c.act.contains l = none) → ∃ v : Nat → Word,
    meets (.shfl sub f) ((now c).write c f.d.toNat (fun l => ⟨v l, .raw, false⟩) .general) ∧
    ∀ l ∈ c.act,
      let n := shflWidth sub
      let k := 64 / n
      ∀ q < k,
        let idx := elem n q (b.val l) % (c.w * k)
        elem n q (v l) = if idx / k ∈ c.act then elem n (idx % k) (a.val (idx / k)) else elem n q (a.val l)) ∧
  (shuffles → some_ → f.a.toNat < 56 → f.b.toNat < 56 → waits (.shfl sub f)) ∧
  (votes (.voteAny f) false → (outside → Completes (.voteAny f) s c (pred false)) ∧ (all_ → meets (.voteAny f) (pred (c.act.any yes))) ∧
    (some_ → waits (.voteAny f))) ∧
  (votes (.voteAll f) false → (outside → Completes (.voteAll f) s c (pred true)) ∧ (all_ → meets (.voteAll f) (pred (c.act.all yes))) ∧
    (some_ → waits (.voteAll f))) ∧
  (votes (.voteBallot f) true → (outside → Completes (.voteBallot f) s c (vec 0)) ∧
    (all_ → ∃ v, meets (.voteBallot f) (vec v) ∧ ∀ k < 64, v.getLsbD k = (decide (k ∈ c.act) && yes k)) ∧ (some_ → waits (.voteBallot f))) ∧
  (votes (.voteCount f) true → (outside → Completes (.voteCount f) s c (vec 0)) ∧
    (all_ → ∃ v, meets (.voteCount f) (vec v) ∧ v.toNat = c.act.countP yes % 2 ^ 64) ∧ (some_ → waits (.voteCount f)))) ∧
  (∀ (s : State) (c : Ctx) (f : VF),
  let a := c.srcA f .b64
  let b := c.srcB f .b64
  let own := ¬c.isShared f.d.toNat
  let live (v : Nat → Row) (sh : Shape) : Out := { now c with
    row := fun n l => if n = f.d.toNat ∧ l ∈ c.live then v l else c.row n l
    shape := fun n => if n = f.d.toNat then sh else (c.reg n).shape }
  (issuing (.shapeGet f) (vNames f true 1) s = some c → permWidthOk f c.w = true →
    WritesRow (.shapeGet f) s c f.d .raw .uniform fun _ => match a.shape with | .uniform => 0 | .affine _ _ => 1 | .general => 2) ∧
  (ready (.shapeGen f) (vNames f true 1) f s c [(a, none)] →
    Completes (.shapeGen f) s c ((now c).write c f.d.toNat (fun l => { a.row l with poison := false }) .general)) ∧
  (issuing (.shapeUni f) (vNames f true 1) s = some c → permWidthOk f c.w = true → own → c.act ≠ [] → (a.row c.low).poison = false →
    Completes (.shapeUni f) s c (live (fun _ => a.row c.low) .uniform)) ∧
  (issuing (.shapeAff f) (vNames f true 2) s = some c → permWidthOk f c.w = true → own → c.act ≠ [] →
    (a.row c.low).poison = false → (b.row c.low).poison = false →
    Completes (.shapeAff f) s c (live (fun l => ⟨a.val c.low + BitVec.ofNat 64 l * b.val c.low, .raw, false⟩)
      (.affine (a.val c.low) (b.val c.low)))) ∧
  (ready (.ftagGet f) (vNames f true 1) f s c [(a, none)] →
    WritesRow (.ftagGet f) s c f.d .raw .general fun l => (a.row l).tag.code.setWidth 64) ∧
  (ready (.ftagSet f) (vNames f true 1) f s c [(a, none)] → ∃ tag, tag.code.toNat = f.c.toNat ∧
    WritesRow (.ftagSet f) s c f.d tag (c.shapeOf .plain [a]) a.val) ∧
  (issuing (.ftagTget f) (vNames f true 0) s = some c → ∃ v, WritesRow (.ftagTget f) s c f.d .raw .uniform (fun _ => v) ∧
    v.toNat = ((c.f.tiles.getD f.a.toNat []).getD 0 0).toNat / 2 ^ 48 % 16) ∧
  (issuing (.ftagTset f) (vNames f false 0) s = some c → c.act ≠ [] →
    Completes (.ftagTset f) s c ((now c).onFibre fun x => { x with tiles := x.tiles.modify f.d.toNat fun d => setTileTag d f.c.toNat })) ∧
  ∀ (w : Word) (ws : List Word) (k : Nat), k < 16 → ∃ w', setTileTag (w :: ws) k = w' :: ws ∧ w'.extractLsb' 0 48 = w.extractLsb' 0 48 ∧
    w'.extractLsb' 52 12 = w.extractLsb' 52 12 ∧ w'.toNat / 2 ^ 48 % 16 = k)

/-- R123: `cdet` groups active lanes by key; each lane gets its group's result, and the predicate marks the lowest lane of each group. R124: `lred`
gives every active lane the fold of all active lanes in lane order, uniform; `lscan` the fold of the lanes before it, with its own unless exclusive.
-/
def Obligations.ReductionResults : Prop :=
  (∀ (s : State) (c : Ctx) (f : VF),
  let a := c.srcA f .b64
  let b := c.srcB f .b64
  let group (l : Nat) : List Nat := c.act.filter fun k => a.val k == a.val l
  let leads (l : Nat) : Bool := c.act.all fun k => !(k < l && a.val k == a.val l)
  let out (tag : Tag) (v : Nat → Word) : Out := ((now c).write c f.d.toNat (fun l => ⟨v l, tag, false⟩) .general).setPred c (f.c.extractLsb' 0 3) leads
  (ready (.cdetMask f) (vNames f true 1) f s c [(a, none)] → ∃ v, Completes (.cdetMask f) s c (out .raw v) ∧
    ∀ l ∈ c.act, ∀ k < 64, (v l).getLsbD k = (decide (k < l) && (group l).contains k)) ∧
  (ready (.cdetFadd f) (vNames f true 2) f s c [(a, none), (b, some .f32)] → ∃ (v : Nat → Word) (e : Nat → Fl),
    Completes (.cdetFadd f) s c ((out .f32 v).orFlags c fun l => if leads l then e l else 0) ∧
    ∀ l ∈ c.act,
      let sum (j : Nat) : Nat × Fl := foldRne ((group l).map fun k => elem 32 j (b.val k))
      elem 32 0 (v l) = (sum 0).1 % 2 ^ 32 ∧ elem 32 1 (v l) = (sum 1).1 % 2 ^ 32 ∧ e l = (sum 0).2 ||| (sum 1).2) ∧
  (ready (.cdetIadd f) (vNames f true 2) f s c [(a, none), (b, none)] → Completes (.cdetIadd f) s c (out .raw fun l => ((group l).map b.val).sum))) ∧
  (∀ (s : State) (c : Ctx) (sub : BitVec 4) (f : VF),
  let ty := cvtTy f.b
  let a := c.srcA f .b64
  let flt := sub.toNat = 1 ∨ sub.toNat = 7 ∨ sub.toNat = 8
  let tag := if flt then tagOf ty else .raw
  let folds (i : Instr) (sh : Shape) (takes : Nat → Nat → Bool) : Prop :=
    ready i (vNames f true 1) f s c [(a, if flt then some tag else none)] →
    ByElement false i s c ty f.d tag sh fun l q r e =>
      let w := foldAll sub.toNat ty ((c.act.filter (takes l)).map fun k => elem ty.bits q (a.val k))
      r = w.1 % 2 ^ ty.bits ∧ e = w.2
  folds (.lred sub f) .uniform (fun _ _ => true) ∧
  folds (.lscan sub f) .general (fun l k => if f.b.getLsbD 4 then decide (k < l) else decide (k ≤ l)))

/-- R125, R127: `wbind` binds a walker at position zero; the `wctl` operations change one binding of the active threads, with no end event, or deliver
the next address. R126: where a walker's four extents are not zero, one read advances its position by one element, dimension 0 first, from the last
element back to the first; the address is base plus the sum of index times stride, shifted; the end predicate of a dimension is 1 exactly when it and
every lower dimension stand at their last index. The model's own choices here: walkers of an instruction that parks or blocks advance when it
completes (assumption 53). -/
def Obligations.WalkerResults : Prop :=
  (∀ (s : State) (c : Ctx) (sub : BitVec 4) (f : VF),
  let a := c.srcA f .b64
  let nib (l k : Nat) : Nat := (a.val l).toNat / 16 ^ k % 16
  let sets (i : Instr) (k : Nat) (w : Nat → Thread → Option Walker) : Prop :=
    Completes i s c ((now c).onThreads c fun l t => { t with walkers := t.walkers.set k (w l t) })
  let old (t : Thread) : Option Walker := t.walkers.getD sub.toNat none
  let bound : Prop := ∀ l ∈ c.act, (old (c.f.thread l)).isSome = true
  (issuing (.wbind sub f) { vNames f false 3 with codes := [] } s = some c → permWidthOk f c.w = true →
    clean c [(a, none), (c.srcB f .b64, none), (c.srcC f .b64, none)] →
    sets (.wbind sub f) (sub.toNat % 8) fun l _ => some
      { base := a.val l
        extents := (List.range 4).map fun k => max 1 (((c.srcB f .b64).val l).toNat / 2 ^ (16 * k) % 2 ^ 16)
        strides := (List.range 4).map fun k => ((c.srcC f .b64).val l).extractLsb' (16 * k) 16
        shifts := [0, 0, 0, 0], idx := [0, 0, 0, 0], valMode := sub.getLsbD 3, vtype := .b64, ends := [none, none, none, none] }) ∧
  (ready (.wctlEnds sub f) (vNames f false 1) f s c [(a, none)] → bound → (∀ l ∈ c.act, (a.val l).toNat < 2 ^ 16) →
    sets (.wctlEnds sub f) sub.toNat fun l t => (old t).map fun w => { w with
      ends := (List.range 4).map fun k => if 8 ≤ nib l k then some (BitVec.ofNat 3 (nib l k)) else none }) ∧
  (ready (.wctlVtype sub f) (vNames f false 1) f s c [(a, none)] → bound → (∀ l ∈ c.act, nib l 0 < 10) →
    sets (.wctlVtype sub f) sub.toNat fun l t => (old t).map fun w => { w with vtype := ETy.ofCode (BitVec.ofNat 4 (nib l 0)) }) ∧
  (ready (.wctlShift sub f) (vNames f false 1) f s c [(a, none)] → bound → (∀ l ∈ c.act, (a.val l).toNat < 2 ^ 16) →
    sets (.wctlShift sub f) sub.toNat fun l t => (old t).map fun w => { w with shifts := (List.range 4).map (nib l) }) ∧
  (ready (.wctlRew sub f) (vNames f false 0) f s c [] → bound →
    sets (.wctlRew sub f) sub.toNat fun _ t => (old t).map fun w => { w with idx := [0, 0, 0, 0] }) ∧
  (issuing (.wctlUnbind sub f) (vNames f false 0) s = some c → sets (.wctlUnbind sub f) sub.toNat fun _ _ => none) ∧
  (issuing (.wctlTell sub f) (vNames f true 0) s = some c → bound → ∃ v, WritesRow (.wctlTell sub f) s c f.d .raw .general v ∧
    ∀ l ∈ c.act, ∀ w, old (c.f.thread l) = some w → v l = w.addr) ∧
  (ready (.wctlSkip sub f) (vNames f false 1) f s c [(a, none)] → bound →
    sets (.wctlSkip sub f) sub.toNat fun l t => (old t).map fun w => { w with
      idx := posTo w.extents ((posOf w.extents w.idx + (a.val l).toNat) % w.extents.foldl (· * ·) 1) })) ∧
  (∀ (t : Thread) (k : Nat) (w : Walker), t.walker k = some w → k < t.walkers.length →
  w.extents.length = 4 → w.idx.length = 4 → w.strides.length = 4 → w.shifts.length = 4 → w.ends.length = 4 →
  (∀ j < 4, w.idx.getD j 0 < w.extents.getD j 0) →
  let size := w.extents.foldl (· * ·) 1
  (∃ w', (t.walkStep k).walker k = some w' ∧ w' = { w with idx := w'.idx } ∧
    posOf w'.extents w'.idx = (posOf w.extents w.idx + 1) % size ∧ ∀ j < 4, w'.idx.getD j 0 < w.extents.getD j 0) ∧
  (w.addr.toNat : Int) = (w.base.toNat + ((List.range 4).map fun j =>
    (w.idx.getD j 0 : Int) * (w.strides.getD j 0).toInt * 2 ^ w.shifts.getD j 0).sum) % 2 ^ 64 ∧
  (∀ p, p ≠ 7 → (∀ j < 4, ∀ i < 4, w.ends.getD j none = some p → w.ends.getD i none = some p → i = j) → ∀ j < 4, w.ends.getD j none = some p →
    (t.walkStep k).pred p = decide (∀ i ≤ j, w.idx.getD i 0 + 1 = w.extents.getD i 0)) ∧
  (∀ p, (∀ j < 4, w.ends.getD j none ≠ some p) → (t.walkStep k).pred p = t.pred p))

/-! ## Control flow and barriers -/

/-- R71, R130, R131, R74: where the threads of a bundle stand after a transfer whose targets pass R74: active threads at their targets, the others at
the next header; `call` links the next header. R132: active threads exit and the others go on; then every rendezvous and barrier that this completes
is released (`recheck`). With no active thread nothing happens. While a thread of the fibre remains, its outstanding operations only lose the writes
of lanes that exited (R86), and complete ones that hold nothing are gone. -/
def Obligations.TransfersAndExitMoveThreads : Prop :=
  (∀ (s : State) (c : Ctx) (f : BF) (tgt : Nat → Word),
  let a := c.plain 2 f.a.toNat
  let next := c.is.addr + 8
  let wrapped (base : Nat → Nat) : Prop := ∀ l ∈ c.act, ((tgt l).toNat : Int) = (base l + 8 * f.off.toInt) % 2 ^ 56
  let goes (i : Instr) (o : Out) : Prop :=
    (∀ l ∈ c.act, (tgt l).toNat % 8 = 0 ∧ c.lr.code.toNat ≤ (tgt l).toNat ∧ (tgt l).toNat < c.lr.code.toNat + c.lr.codeSz) →
    Does i s fun t => After c t o ∧ (∀ l ∈ c.act, atHeader (threadAt t c.r l) (tgt l)) ∧
      ∀ l ∈ c.bundle, l ∉ c.act → atHeader (threadAt t c.r l) next
  let linked : Out := (now c).write c f.a.toNat (fun _ => ⟨next, .raw, false⟩) .uniform
  (issuing (.bra f) (bNames f false) s = some c → wrapped (fun _ => c.is.addr.toNat) → goes (.bra f) (now c)) ∧
  (issuing (.brx f) (bNames f true) s = some c → clean c [(a, none)] → wrapped (fun l => (a.val l).toNat) → goes (.brx f) (now c)) ∧
  (issuing (.call f) (bNames f true) s = some c → wrapped (fun _ => c.is.addr.toNat) → goes (.call f) linked) ∧
  (issuing (.callX f) (bNames f true) s = some c → clean c [(a, none)] → wrapped (fun l => (a.val l).toNat) → goes (.callX f) linked) ∧
  (issuing (.ret f) (bNames f true) s = some c → clean c [(a, none)] → (∀ l ∈ c.act, tgt l = a.val l) → goes (.ret f) (now c))) ∧
  (∀ (s : State) (c : Ctx) (f : SF), issuing (.exit f) (sNames f false false) s = some c →
  (c.act = [] → Completes (.exit f) s c (now c)) ∧
  (c.act ≠ [] → ∃ u, exec (.exit f) s = .next ((u.recheck c.r).modFibre c.r Fibre.leave) ∧
    (∀ l ∈ c.act, (threadAt u c.r l).st = .exited) ∧ (∀ l ∈ c.bundle, l ∉ c.act → goesOn c (threadAt u c.r l)) ∧
    (∀ l, l ∉ c.bundle → threadAt u c.r l = threadAt c.s c.r l) ∧ sameMemory s u ∧ sameRegs s u ∧
    ((∃ l ∈ c.live, l ∉ c.act) → After c u ((now c).onFibre (Fibre.stripOps c.act)))))

/-- R120, R133, R145: `join` with every live thread active, and `join.m` with members that are all active, complete at once; the members are Blocked
while a live member is elsewhere. R134 to R136: `reform` files each active thread in a bin of its team and next PC, or leaves it in its lane at that
PC when no bin takes it; a bin is drawn into the lowest free position, with a thread per lane in filing order; every other bin that is eligible then
is drawn in the same event, or is marked where no position is left; a bin that is old enough is marked. -/
def Obligations.JoinMeetsAndReformFiles : Prop :=
  (∀ (s : State) (c : Ctx) (f : SF) (i : Instr) (m : Word),
  let m' := c.plain 2 f.a.toNat
  (i = .join f ∧ issuing i (sNames f false false) s = some c ∧ m = maskOf (List.range c.w)) ∨
    (i = .joinM f ∧ issuing i (sNames f false true) s = some c ∧ m = m'.val c.low &&& maskOf (List.range c.w) ∧
      (m'.row c.low).poison = false) →
  (c.act = [] → Completes i s c (now c)) ∧
  (c.act ≠ [] → c.arrivalOk = true → c.f.handler = none → c.live = c.act → s.filedFrom c.r = [] →
    Does i s fun t => After c t (now c) ∧ ∀ l ∈ c.act, continues c t l) ∧
  (c.act ≠ [] → c.arrivalOk = true → (∀ l ∈ c.live, (c.f.thread l).atRendezvous = none) →
    (∃ l ∈ c.live, l ∉ c.act ∧ m.getLsbD l = true) →
    Does i s fun t => ∀ l ∈ c.act, if m.getLsbD l then (threadAt t c.r l).st = .blocked (.rendezvous m) i s.time ∧
      (threadAt t c.r l).pc = c.is.addr else continues c t l) ∧
  ((∀ l ∈ c.act, m.getLsbD l = false) → Completes i s c (now c)) ∧
  ((∃ l ∈ c.act, m.getLsbD l = true) → c.arrivalOk = false → Drains i s c)) ∧
  (∀ (s : State) (c : Ctx) (f : SF),
  let a := c.plain 2 f.a.toNat
  let files (i : Instr) (tgt : Nat → Word) : Prop :=
    c.f.handler = none → (c.act ≠ [] → c.f.writesOpen = true → Drains i s c) ∧ (c.f.writesOpen = false → c.core < s.cores.length → Does i s fun t => OnlyMoves s t ∧
      (t.core c.core).reform = (if c.act = [] then (s.core c.core).reform else some (s.clock, c.r.fid)) ∧
      (∀ l ∈ c.bundle, l ∉ c.act → atHeader (threadAt t c.r l) (c.is.addr + 8)) ∧
      ∀ l ∈ c.act, ((threadAt t c.r l).st = .absent ∧
          ∃ b : Bin, some b ∈ (t.core c.core).gallery ∧ b.team = c.t.uid ∧ b.pc = tgt l ∧ c.filedThread l (tgt l) ∈ b.threads) ∨
        (atHeader (threadAt t c.r l) (tgt l) ∧ none ∉ (t.core c.core).gallery))
  (issuing (.reform f) (sNames f false false) s = some c → files (.reform f) fun _ => c.is.addr + 8) ∧
  (issuing (.reformX f) (sNames f false true) s = some c → clean c [(a, none)] → (∀ l ∈ c.act, targetOk c.lr (a.val l) = true) →
    files (.reformX f) a.val) ∧
  (∀ core bin, s.drawDue core bin = true → (∀ T ∈ s.teams, ∀ F ∈ T.fibres, ∀ x ∈ F.threads, x.atRendezvous = none) →
    Does (.galleryDraw core bin) s fun t => t = { s with teams := t.teams, cores := t.cores } ∧ (t.core core).gallery.getD bin none = none ∧
      ∀ k ∈ s.otherBins core bin, ∀ x, (t.core core).gallery.getD k none = some x → x.aged = true) ∧
  (∀ core bin b T, s.drawDue core bin = true → (s.core core).gallery.getD bin none = some b → s.team? b.team = some T →
    s.otherBins core bin = [] → (∀ F ∈ T.fibres, ∀ x ∈ F.threads, x.atRendezvous = none) →
    Does (.galleryDraw core bin) s fun t => ∃ fid, T.freeFid core = some fid ∧ (t.core core).gallery.getD bin none = none ∧
      t = { s with teams := t.teams, cores := t.cores } ∧
      ∀ l < (s.recOf T).width, match b.threads[l]? with
        | some x => atHeader { threadAt t ⟨b.team, fid⟩ l with clause := none } x.thread.pc ∧ (threadAt t ⟨b.team, fid⟩ l).tid = x.thread.tid ∧
          (threadAt t ⟨b.team, fid⟩ l).preds = x.thread.preds &&& (s.recOf T).carryP.setWidth 8
        | none => (threadAt t ⟨b.team, fid⟩ l).st = .absent) ∧
  (∀ core bin b T, (s.core core).gallery.getD bin none = some b → s.team? b.team = some T → b.aged = false →
    b.opened + (s.recOf T).rage ≤ s.clock → Does (.binAgeLimit core bin) s fun t =>
      t = { s with cores := t.cores } ∧ (t.core core).gallery.getD bin none = some { b with aged := true } ∧
      ∀ k, t.core k = { s.core k with gallery := (t.core k).gallery }))

/-- R138, R40: `nop` does nothing; `yield` passes the slot to the next ready fibre, and keeps it where there is none. R139 to R141: the counts of a
fibre barrier. An arrival sets the target and completes the phase once enough fibres of the slot have arrived; a fibre waits while its count of waits
has reached the completed phases. R142, R143: an arrival at a team barrier sets the thread's bit. The phase completes when every live thread of the
team has its bit set, which clears the bit of the threads that arrive and lets those that wait go on, every other waiter of the team with them; before
that `tbar` blocks them. A thread that arrives again waits for the phase to end and then arrives in the new one; a second `fbar` arrival stalls. The
model's own choices here: the slot passes at once after a thread has parked or blocked with Y set (assumption 103), filed threads do not count among
an `fbar`'s live fibres (assumption 105), and a check with N = 0 and no live fibre completes no phase (assumption 128). -/
def Obligations.YieldAndBarriers : Prop :=
  (∀ (s : State) (c : Ctx) (f : SF),
  (issuing (.nop f) (sNames f false false) s = some c → Completes (.nop f) s c (now c)) ∧
  (issuing (.yield f) (sNames f false false) s = some c → c.f.slot < c.t.slots.length → Does (.yield f) s fun t => After c t (now c) ∧
    (slotAt t c.r).holder = if c.act = [] then c.r.fid else (c.s.nextReady c.t c.f).getD c.r.fid)) ∧
  (∀ (s : State) (c : Ctx) (f : SF),
  let id := f.imm.toNat % 4
  let n := f.imm.toNat / 4
  let b := c.bar id
  let barOf (t : State) : FBar := (slotAt t c.r).bars.getD id noBar
  let placed : Prop := c.f.slot < c.t.slots.length ∧ id < c.slot.bars.length ∧ c.pos < b.arrivals.length ∧ c.pos < b.waits.length
  (issuing (.fbarArrive f) (sNames f false false) s = some c → n ≤ c.slot.count → c.act ≠ [] → placed → c.arrivalOk = true →
    b.arrivals.getD c.pos 0 ≤ b.phases →
    Does (.fbarArrive f) s fun t =>
      let need := if n = 0 then (c.t.liveIn c.f.slot).length else n
      let arrived := (b.arrivals.set c.pos (b.arrivals.getD c.pos 0 + 1))
      OnlyMoves s t ∧ (∀ l ∈ c.bundle, continues c t l) ∧ (barOf t).target = n ∧ (barOf t).arrivals = arrived ∧ (barOf t).waits = b.waits ∧
      ((barOf t).phases = b.phases ↔ need = 0 ∨ arrived.countP (b.phases < ·) < need) ∧
      ∀ r l k i since, s.fibre? r ≠ none → r.team = c.r.team → (s.fibre? r).map (·.slot) = some c.f.slot →
        (threadAt s r l).st = .blocked (.fbar id k) i since →
        if k < (barOf t).phases then (threadAt t r l).st = .waiting ∧ (threadAt t r l).pc = (threadAt s r l).nxt
        else ∃ since', (threadAt t r l).st = .blocked (.fbar id k) i since') ∧
  (issuing (.fbarArrive f) (sNames f false false) s = some c → n ≤ c.slot.count → c.act ≠ [] →
    (b.arrivals.getD c.pos 0 ≤ b.phases → c.arrivalOk = false → Drains (.fbarArrive f) s c) ∧
    (b.phases < b.arrivals.getD c.pos 0 → Does (.fbarArrive f) s fun t => OnlyMoves s t ∧ barOf t = b ∧ ∃ F since, s.fibre? c.r = some F ∧
      t.fibre? c.r = some { F with arriveStall := some (id, since) } ∧ (F.arriveStall = none → since = s.time))) ∧
  (issuing (.fbarWait f) (sNames f false false) s = some c → c.act ≠ [] → placed → Does (.fbarWait f) s fun t =>
    OnlyMoves s t ∧ (barOf t) = { b with waits := b.waits.set c.pos (b.waits.getD c.pos 0 + 1) } ∧
    (∀ l ∈ c.bundle, l ∉ c.act → continues c t l) ∧
    ∀ l ∈ c.act, if b.waits.getD c.pos 0 < b.phases then continues c t l
      else (threadAt t c.r l).st = .blocked (.fbar id (b.waits.getD c.pos 0)) (.fbarWait f) s.time) ∧
  (issuing (.fbarArrive f) (sNames f false false) s = some c → n ≤ c.slot.count → c.act = [] → Completes (.fbarArrive f) s c (now c)) ∧
  (issuing (.fbarWait f) (sNames f false false) s = some c → c.act = [] → Completes (.fbarWait f) s c (now c))) ∧
  (∀ (s : State) (c : Ctx) (f : SF) (wait : Bool) (T : Team),
  let i : Instr := if wait then .tbar f else .tbarArrive f
  let id := f.imm.toNat % 16
  let others (P : Thread → Prop) : Prop :=
    (∀ r, r.team = c.r.team → r ≠ c.r → ∀ l, (threadAt c.s r l).live = true → P (threadAt c.s r l)) ∧
    (∀ l ∈ c.live, l ∉ c.act → P (c.f.thread l)) ∧ ∀ x ∈ s.filedOf c.r.team, P x
  issuing i (sNames f false false) s = some c → s.team? c.r.team = some T → (T.fibres.map (·.fid)).Nodup →
  (c.act = [] → Completes i s c (now c)) ∧
  (c.act ≠ [] → c.arrivalOk = true → (∀ l ∈ c.act, hasArrived id (c.f.thread l) = false) →
    Does i s fun t => OnlyMoves s t ∧ (∀ l ∈ c.bundle, l ∉ c.act → continues c t l) ∧
      (others (fun x => hasArrived id x = true) → (∀ l ∈ c.act, hasArrived id (threadAt t c.r l) = false ∧ continues c t l) ∧
        ∀ r F, r.team = c.r.team → s.fibre? r = some F → ∀ l again w j since, r ≠ c.r ∨ l ∉ c.act →
          (F.thread l).st = .blocked (.tbar id again w) j since →
          let y := threadAt t r l
          if again = false then y.st = .waiting ∧ y.pc = (F.thread l).nxt ∧ hasArrived id y = false
          else if r = c.r ∨ T.arrivalOk F = true then hasArrived id y = true ∧
            if w then y.st = .blocked (.tbar id false true) j s.time else y.st = .waiting ∧ y.pc = (F.thread l).nxt
          else y.st = .waiting ∧ y.pc = (F.thread l).pc ∧ hasArrived id y = false) ∧
      (¬others (fun x => hasArrived id x = true) → ∀ l ∈ c.act, hasArrived id (threadAt t c.r l) = true ∧
        if wait then (threadAt t c.r l).st = .blocked (.tbar id false true) i s.time else continues c t l)) ∧
  (c.act ≠ [] → c.arrivalOk = true → (∀ l ∈ c.act, hasArrived id (c.f.thread l) = true) → ¬others (fun x => hasArrived id x = true) →
    Does i s fun t => OnlyMoves s t ∧ ∀ l ∈ c.act, hasArrived id (threadAt t c.r l) = true ∧ (threadAt t c.r l).pc = c.is.addr ∧
      (threadAt t c.r l).st = .blocked (.tbar id true wait) i s.time) ∧
  (c.act ≠ [] → c.arrivalOk = false → Drains i s c))

/-! ## Memory -/

/-- R148 to R152, R154 to R156: a load becomes an outstanding operation of class Load that holds, per destination register, one row per active lane:
the element at the lane's address, zero- or sign-extended, with its format tag and poison. Nothing else changes; the rows land at the wait point.
Until the reply the lanes may read anew (see `HeldWritesLand`). The model's own choices here: when a local load takes its values (assumption 19), an
access that is held at a granule (assumption 115), and how remote reads are cut (assumption 116). -/
def Obligations.LoadResults : Prop := ∀ (s : State) (c : Ctx) (ty : ETy) (f : MF) (pa : Nat → Nat),
  let a := c.src 2 f.a 0 0
  let addr := addrOf a (c.index f) (off20 f)
  let loads (i : Instr) (ty : ETy) (w cnt : Nat) : Prop :=
    issuing i (mNames f cnt true 0) s = some c → inOrder c false →
    (c.act = [] → Completes i s c (now c)) ∧
    (c.act ≠ [] → accessOk c ⟨a :: (c.index f).toList, [], addr, .read, w * cnt, 2⟩ (w * cnt) pa →
      Does i s fun t => ∃ op : Op, After c t ((now c).issues op t) ∧
        op.classes = [.ld] ∧ op.kind = .read i (c.act.map fun l => ⟨l, pa l, []⟩) ∧ op.done = false ∧ op.preds = [] ∧ op.issued = s.time ∧
        opens c f.la.toNat op ∧ op.writes.length = cnt ∧
        ∀ j < cnt, ∃ h, op.writes[j]? = some h ∧ h.reg = f.d.toNat + j ∧
          h.shape = (if c.full ∧ ∀ l ∈ c.act, addr l = addr c.low then .uniform else .general) ∧
          ∃ v : Nat → Word, h.rows = c.act.map (fun l => (l, ⟨v l, if ty.isFloat then tagOf ty else .raw, poisAt c.s (pa l + w * j) w⟩)) ∧
            ∀ l ∈ c.act, if ty.isI then (v l).toInt = sext ty.bits (numAt c.s (pa l + w * j) w) else (v l).toNat = numAt c.s (pa l + w * j) w)
  let w := if ty.isFloat then 8 else ty.bits / 8
  loads (.ld ty f) ty w 1 ∧ loads (.ld2 ty f) ty w 2 ∧ loads (.ldn f) .b64 8 16

/-- R148 to R152, R154 to R156: the bytes that stores write, and the bytes and registers that they leave. The model's own choices here: a local store
is performed when it issues (assumption 19), a poisoned data row is consumed (assumption 16), and a store that is held at a granule (assumption 115).
-/
def Obligations.StoreResults : Prop := ∀ (s : State) (c : Ctx) (ty : ETy) (f : MF) (pa : Nat → Nat),
  let a := c.src 2 f.a 0 0
  let addr := addrOf a none (off20 f)
  let stores (i : Instr) (ty : ETy) (w cnt : Nat) (data : Nat → Src) : Prop :=
    memWf s → issuing i (mNames f 0 false cnt) s = some c → inOrder c (mfReleases f) →
    (c.act = [] → Completes i s c (now c)) ∧
    (c.act ≠ [] →
      accessOk c ⟨[a], (List.range cnt).map fun j => (data j, if ty.isFloat then some (tagOf ty) else none), addr, .write, w * cnt, 2⟩ (w * cnt) pa →
      Does i s fun t => ∃ op : Op, After c t (((now c).issues op t).stores t) ∧
        op.classes = [.st] ∧ op.kind = .store ∧ op.writes = [] ∧ op.preds = [] ∧ opens c f.la.toNat op ∧
        stored c t addr pa (w * cnt) fun l k => BitVec.ofNat 8 (((data (k / w)).val l).toNat / 2 ^ (8 * (k % w))))
  let w := if ty.isFloat then 8 else ty.bits / 8
  stores (.st ty f) ty w 1 (fun _ => c.src 3 f.b 0 0) ∧
  stores (.st2 ty f) ty w 2 (fun j => c.plain 3 (f.b.toNat + j)) ∧
  stores (.stn f) .b64 8 16 (fun j => c.plain 3 (f.b.toNat + j))

/-- R157, R158: an atomic applies its lanes in ascending order, once per address; `atom` holds for each lane the value before its own step. The steps
of the table of operations. The model's own choices here: a local atomic is performed when it issues (assumption 19), and one that is held at a
granule (assumption 115). -/
def Obligations.AtomicResults : Prop :=
  (∀ (s : State) (c : Ctx) (sub : BitVec 4) (f : MF) (pa : Nat → Nat) (old : Bool),
    let i : Instr := if old then .atom sub f else .red sub f
    let ty := ETy.ofCode (fieldTy f)
    let n := ty.bits / 8
    let a := c.src 2 f.a 0 0
    let b := c.src 3 f.b 0 0
    let d := c.plain 1 f.d.toNat
    let addr := addrOf a none (off16 f)
    let step (m l : Nat) : Nat := atomStep sub.toNat ty m ((b.val l).toNat % 2 ^ ty.bits) ((d.val l).toNat % 2 ^ ty.bits)
    let word (l : Nat) : Nat := numAt c.s (pa l) n
    let mine (l : Nat) : List Nat := c.act.filter fun m => pa m == pa l
    memWf s → issuing i (mNames f (if old then 1 else 0) false 1) s = some c → inOrder c (mfReleases f) →
    (c.act = [] → Completes i s c (now c)) ∧
    (c.act ≠ [] →
      accessOk c ⟨[a], (b, if ty = .f32 then some .f32 else none) :: (if sub = 8 then [(d, none)] else []), addr, .atomic, n, 2⟩ n pa →
      (∀ l ∈ c.act, ∀ m ∈ c.act, pa l = pa m ∨ ∀ j < n, ∀ k < n, (c.s.place (pa l)).add j ≠ (c.s.place (pa m)).add k) →
      Does i s fun t => ∃ op : Op, After c t (((now c).issues op t).stores t) ∧ op.preds = [] ∧ opens c f.la.toNat op ∧
        op.classes = (if old then [.ld, .st] else [.st]) ∧ op.kind = (if old then .load else .store) ∧
        (if old then ∃ h, op.writes = [h] ∧ h.reg = f.d.toNat ∧ ∀ l x, (l, x) ∈ h.rows ↔ l ∈ c.act ∧
            let v := ((mine l).filter (· < l)).foldl step (word l)
            x.poison = poisAt c.s (pa l) n ∧ x.tag = (if ty = .f32 then .f32 else .raw) ∧
            if ty.isI then x.val.toInt = sext ty.bits v else x.val.toNat = v % 2 ^ ty.bits
          else op.writes = []) ∧
        (∀ p, (∀ l ∈ c.act, ∀ k < n, (c.s.place (pa l)).add k ≠ p) → placeByte t p = placeByte c.s p) ∧
        ∀ l ∈ c.act, ∀ k < n, placeByte t ((c.s.place (pa l)).add k) = BitVec.ofNat 8 ((mine l).foldl step (word l) / 2 ^ (8 * k)))) ∧
  ∀ (ty : ETy) (m y x : Nat),
    atomStep 0 ty m y x = (m + y) % 2 ^ ty.bits ∧
    atomStep 1 ty m y x = (roundFV fmtF32 .rne 0 false 0 (sumFV [fmtF32.value m, fmtF32.value y]).1).1 ∧
    intOf ty (atomStep 2 ty m y x) = min (intOf ty m) (intOf ty y) ∧ intOf ty (atomStep 3 ty m y x) = max (intOf ty m) (intOf ty y) ∧
    atomStep 4 ty m y x = m &&& y ∧ atomStep 5 ty m y x = m ||| y ∧ atomStep 6 ty m y x = m ^^^ y ∧ atomStep 7 ty m y x = y ∧
    atomStep 8 ty m y x = (if m = x then y else m) ∧
    atomStep 9 ty m y x = (roundFV fmtF32 .rne 0 false 0 ((fmtF32.value m).minNum (fmtF32.value y))).1 ∧
    atomStep 10 ty m y x = (roundFV fmtF32 .rne 0 false 0 ((fmtF32.value m).maxNum (fmtF32.value y))).1 ∧
    atomStep 11 ty m y x = if y ≤ m then 0 else m + 1

/-- R159 to R162: a fence is passed once the fibre's earlier accesses are complete, and holds the bundle until then; a prefetch brings translations;
`wait` writes the value where its test holds, and parks the other threads; a re-test, by a write or by the timer, does the same for one parked thread,
from the address and operand that it captured. R153, R169: `lock.test` tells whether an engine owns the granule of the core's own scratchpad that a
lane names; `lock.wait` parks the threads for which it does; parked threads wake when the granules they wait for have returned. The model's own
choices here: how `wait` reads, tests and parks its threads (assumption 31), and that a held access is outstanding for a fence (assumption 115). -/
def Obligations.FencesWaitsAndLocks : Prop :=
  (∀ (s : State) (c : Ctx),
  let holds (k : Nat) (x y : Int) : Prop := (k = 0 ∧ x = y) ∨ (k = 1 ∧ x ≠ y) ∨ (k = 2 ∧ x < y) ∨ (k = 3 ∧ x ≤ y) ∨ (k = 4 ∧ y < x) ∨ (k = 5 ∧ y ≤ x)
  (∀ (f : SF) (i : Instr), i = .fence f ∨ i = .fenceDom f → issuing i (sNames f false false) s = some c →
    (c.act = [] ∨ c.f.ops.any Op.fenced = false → Completes i s c (now c)) ∧
    (c.act ≠ [] → c.f.ops.any Op.fenced = true → Does i s fun t => OnlyMoves s t ∧ t.mem = s.mem ∧
      ∀ l ∈ c.bundle, threadAt t c.r l = threadAt s c.r l)) ∧
  (∀ (sub : BitVec 4) (f : MF), issuing (.prefetch sub f) (mNames f 0 true 0) s = some c → ∃ tl,
    Completes (.prefetch sub f) s c ((now c).onState fun u => { u with tlb := tl })) ∧
  (∀ (ty : ETy) (f : MF) (pa : Nat → Nat),
    let a := c.src 2 f.a 0 0
    let b := c.src 3 f.b 0 0
    let addr := addrOf a none (off16 f)
    let n := ty.bits / 8
    let passes (l : Nat) : Prop := holds (fieldTy f).toNat (intOf ty (numAt c.s (pa l) n)) (intOf ty ((b.val l).toNat % 2 ^ ty.bits))
    issuing (.wait ty f) (mNames f 1 false 1) s = some c → inOrder c false → c.f0.walkerBytes (.wait ty f) = [] →
    (c.act = [] → Completes (.wait ty f) s c (now c)) ∧
    (c.act ≠ [] → accessOk c ⟨[a], [(b, none)], addr, .read, n, 2⟩ n pa → Does (.wait ty f) s fun t =>
      sameMemory s t ∧ (∀ m l, (m = f.d.toNat ∧ l ∈ c.act ∧ passes l) ∨ rowAt t c.r m l = rowAt s c.r m l) ∧
      (∀ l ∈ c.bundle, l ∉ c.act → continues c t l) ∧
      ∀ l ∈ c.act, (passes l → continues c t l ∧ ∃ v : Word, rowAt t c.r f.d.toNat l = ⟨v, .raw, poisAt c.s (pa l) n⟩ ∧
          if ty.isI then v.toInt = sext ty.bits (numAt c.s (pa l) n) else v.toNat = numAt c.s (pa l) n) ∧
        (¬passes l → (threadAt t c.r l).pc = c.is.addr ∧
          (threadAt t c.r l).st = .parked (.wait (BitVec.ofNat 64 (addr l)) (b.val l) (s.time + 64000)) (.wait ty f) s.time))) ∧
  ∀ (r : FibreRef) (l : Nat) (timer : Bool) (ty : ETy) (g : MF) (T : Team) (F : Fibre) (addr y nextTest since : Word) (pa : Nat),
    let i : Instr := if timer then .waitRetestTimer r l else .waitRetestWrite r l
    let n := ty.bits / 8
    let passes : Prop := holds (fieldTy g).toNat (intOf ty (numAt s pa n)) (intOf ty (y.toNat % 2 ^ ty.bits))
    s.team? r.team = some T → T.fibre? r.fid = some F → (F.thread l).st = .parked (.wait addr y nextTest) (.wait ty g) since →
    ty.waitTy = true → chkWaitCond ty.code g = true → g.d.toNat < T.nregs F →
    F.frozen l = false → F.pending = [] → (timer = true → nextTest ≤ s.time) → s.check ⟨T.ctx, T.coreOf r.fid, T.uid⟩ .read addr.toNat = .ok pa →
    pkgOf pa = s.pkg.toNat → (∀ x ∈ (s.place pa).granules n, s.engineOwned x = false) → Does i s fun t => sameMemory s t ∧
      (passes → (threadAt t r l).st = .waiting ∧ (threadAt t r l).pc = (F.thread l).nxt ∧
        ∃ v : Word, rowAt t r g.d.toNat l = ⟨v, .raw, poisAt s pa n⟩ ∧
          if ty.isI then v.toInt = sext ty.bits (numAt s pa n) else v.toNat = numAt s pa n) ∧
      (¬passes → sameRegs s t ∧
        (threadAt t r l).st = .parked (.wait addr y (if timer then s.time + 64000 else nextTest)) (.wait ty g) since)) ∧
  (∀ (s : State) (c : Ctx) (f : MF) (pa : Nat → Nat),
  let a := c.src 2 f.a 0 0
  let q : LaneReq := ⟨a :: (c.index f).toList, [], addrOf a (c.index f) (off20 f), .lockQuery, 1, 2⟩
  let owned (l g : Nat) : Prop := ∃ k off, c.s.place (pa l) = .bank c.core k off ∧ g = granuleId c.core k off ∧ c.s.engineOwned g = true
  (issuing (.lockTest f) (mNames f 1 true 0) s = some c → (∀ l ∈ c.act, c.checkLane q l = .ok (pa l)) → ∃ v : Nat → Word,
    WritesRow (.lockTest f) s c f.d .raw (c.shapeOf .plain (a :: (c.index f).toList)) v ∧
    ∀ l ∈ c.act, ((∃ g, owned l g) → v l = 1) ∧ (¬(∃ g, owned l g) → v l = 0)) ∧
  (issuing (.lockWait f) (mNames f 0 true 0) s = some c → (∀ l ∈ c.act, c.checkLane q l = .ok (pa l)) →
    Does (.lockWait f) s fun t => sameMemory s t ∧ sameRegs s t ∧ (∀ l ∈ c.bundle, l ∉ c.act → continues c t l) ∧
      ∀ l ∈ c.act, (∀ g, owned l g → (threadAt t c.r l).st = .parked (.lockWait g) (.lockWait f) s.time ∧ (threadAt t c.r l).pc = c.is.addr) ∧
        (¬(∃ g, owned l g) → continues c t l)) ∧
  ∀ (r : FibreRef) (F : Fibre), s.fibre? r = some F →
    (∃ l gs i since, (F.thread l).st = .parked (.granule gs) i since ∧ ∀ g ∈ gs, s.engineOwned g = false) ∨
      (∃ l g h since, (F.thread l).st = .parked (.lockWait g) (.lockWait h) since ∧ s.engineOwned g = false) →
    Does (.parkedAccessResume r) s fun t => t = { s with teams := t.teams } ∧ ∀ l,
      (∀ gs i since, (F.thread l).st = .parked (.granule gs) i since →
        threadAt t r l = if gs.any s.engineOwned then F.thread l else { F.thread l with st := .waiting }) ∧
      (∀ g h since, (F.thread l).st = .parked (.lockWait g) (.lockWait h) since →
        if s.engineOwned g then threadAt t r l = F.thread l else (threadAt t r l).st = .waiting ∧ (threadAt t r l).pc = (F.thread l).nxt))

/-- R170, R171, R181: `bmode` gives a bank of the core its new role, emptied, and leaves every other bank; a bank that leaves scratchpad mode is
written back first, and memory changes in no other case. A bank in its mode already is left as it is. R172: the state word of `fpg`, and what pin,
unpin and force do to the page that every active lane names. The model's own choices here: which pages a write-back reaches (assumption 78), and that
no command makes a bank an L1 way (assumption 131). -/
def Obligations.BankModesAndFormatPages : Prop :=
  (∀ (s : State) (c : Ctx) (f : SF),
  let bank := f.imm.toNat % 64
  let banks := (c.s.core c.core).banks
  let old := banks.getD bank ⟨.free, [], []⟩
  let count (p : Role → Bool) : Nat := banks.countP fun b => p b.role
  let mayLeave : Prop := match old.role with
    | .regShare _ => False
    | .l1 => 2 < count Role.isL1
    | .scratch u _ _ => u = c.t.uid
    | .free => True
    | .fifo _ ring _ => ring = false
  let sets (i : Instr) (new : Role) : Prop := Does i s fun t =>
    (t.core c.core).banks = banks.set bank ⟨new, [], []⟩ ∧ sameRegs s t ∧ (∀ l ∈ c.bundle, continues c t l) ∧
      (∀ k, k ≠ c.core → t.core k = c.s.core k) ∧
      match old.role with
      | .scratch _ j len => t.mem = (c.s.writeBackBank c.t c.core bank j len).mem
      | _ => t.mem = s.mem
  let acts (i : Instr) : Prop := issuing i (sNames f false false) s = some c ∧ c.act ≠ [] ∧ c.core < s.cores.length ∧ bank < banks.length ∧
    mayLeave ∧ c.s.inFlight c.core bank = false ∧ ∀ k < 8, c.s.engineOwned ((c.core * 48 + bank) * 8 + k) = false
  (acts (.bmodeL1 f) → old.role ≠ .l1 → count Role.isL1 < 16 → sets (.bmodeL1 f) .l1) ∧
  (acts (.bmodeFifo f) → old.role.isFifo = false → count Role.isFifo < 8 →
    ∃ was, sets (.bmodeFifo f) (.fifo c.t.uid false was) ∧ ∀ u j len, old.role = .scratch u j len → was = some j) ∧
  (acts (.bmodeScr f) → (∀ u j len, old.role ≠ .scratch u j len) →
    ∀ j, j < (if c.lr.pair then c.lr.ss / 65536 else c.lr.ss / 32768) →
      (∀ b ∈ banks, ∀ len, b.role ≠ .scratch c.t.uid j len) → (∀ k < j, ∃ b ∈ banks, ∃ len, b.role = .scratch c.t.uid k len) →
      sets (.bmodeScr f) (.scratch c.t.uid j 32768)) ∧
  (issuing (.bmodeL1 f) (sNames f false false) s = some c → c.act = [] ∨ old.role = .l1 → Completes (.bmodeL1 f) s c (now c)) ∧
  (issuing (.bmodeFifo f) (sNames f false false) s = some c → c.act = [] ∨ (∃ u was, old.role = .fifo u false was) →
    Completes (.bmodeFifo f) s c (now c)) ∧
  (issuing (.bmodeScr f) (sNames f false false) s = some c → c.act = [] ∨ (∃ j len, old.role = .scratch c.t.uid j len) →
    Completes (.bmodeScr f) s c (now c))) ∧
  (∀ (s : State) (c : Ctx) (f : MF) (pa : Nat → Nat) (i : Instr) (op : Fin 4) (page : Option Nat),
  let a := c.src 2 f.a 0 0
  let addr := addrOf a (c.index f) (off20 f)
  let q : LaneReq := ⟨a :: (c.index f).toList, [], addr, if op = 0 then .fpgQuery else .fpgWrite, 1, 2⟩
  let converting (u : State) (b : Nat) : Prop := ∃ x ∈ u.convs, x.1 = b
  (op = 0 ∧ i = .fpgQuery f) ∨ (op = 1 ∧ i = .fpgPin f) ∨ (op = 2 ∧ i = .fpgUnpin f) ∨ (op = 3 ∧ i = .fpgForce f) →
  memWf s → issuing i (mNames f 1 true 0) s = some c → inOrder c false → (∀ l ∈ c.act, c.checkLane q l = .ok (pa l)) →
  (∀ l ∈ c.act, c.s.fmtBase c.t.ctx (addr l) = page) →
  (c.act = [] → Completes i s c (now c)) ∧
  (c.act ≠ [] → Does i s fun t => ∃ (o : Op) (h : HeldWrite) (v : Word),
    After c t (((now c).adds o).stores t) ∧ opens c f.la.toNat o ∧
    o.kind = .load ∧ o.classes = [.ld] ∧ o.writes = [h] ∧ h.reg = f.d.toNat ∧ h.rows = c.act.map (fun l => (l, ⟨v, .raw, false⟩)) ∧
    match page with
    | none => v = 0 ∧ t.mem = s.mem ∧ t.convs = s.convs
    | some b =>
      v.extractLsb' 32 32 = BitVec.ofNat 32 (t.ramWord b) ∧ v.extractLsb' 16 16 = 0 ∧
      v.extractLsb' 9 7 = BitVec.ofNat 7 (t.ramWord (b + 16) / 2 ^ 25) ∧ v.extractLsb' 7 2 = 0 ∧ v.getLsbD 6 = true ∧
      (v.getLsbD 5 = true ↔ converting t b) ∧ v.getLsbD 4 = t.pagePin b ∧ v.extractLsb' 0 4 = BitVec.ofNat 4 (t.pageFmt b) ∧
      t.ramWord b = s.ramWord b ∧ t.pageFmt b = s.pageFmt b ∧ (∀ x, x < b ∨ b + 32 ≤ x → cellGet t.mem x = cellGet s.mem x) ∧
      t.pagePin b = (if op = 1 then true else if op = 2 then false else s.pagePin b) ∧
      (converting t b ↔ if op = 1 then False else converting s b ∨
        (op = 3 ∧ s.pagePin b = false ∧ s.pageFmt b ≠ 10 ∧ s.headerOk b = true ∧ s.reclaimFree = true)) ∧
      ∀ b', b' ≠ b → (converting t b' ↔ converting s b')))

/-! ## Tiles and matrix units -/

/-- R191 to R195: `tdesc` writes a valid descriptor, whose lock-granule fields name the granules from its lowest to its highest byte; `tget` reads the
eight doublewords into uniform registers. R187, R192: bytes stored to a region of a team read back, and every other byte of the region is unchanged.
The model's own choices here: the order of the checks of tile operands (assumption 26). -/
def Obligations.TileDescriptorsAndBytes : Prop :=
  ((∀ (s : State) (c : Ctx) (f : XF),
    let d := (List.range 8).map fun j => (c.plain 8 (f.v.toNat + j)).val c.low
    (issuing (.tdesc f) (xNames f 8) s = some c → (c.act ≠ [] →
        tileBad d = false ∧ ∀ j < 8, ((c.plain 8 (f.v.toNat + j)).row c.low).poison = false) →
      Completes (.tdesc f) s c (if c.act = [] then now c else (now c).onFibre fun x => { x with tiles := x.tiles.set f.td.toNat (finishTile d) })) ∧
    (issuing (.tget f) (xNames f 8) s = some c →
      Completes (.tget f) s c ((List.range 8).foldl (fun o j =>
        o.write c (f.v.toNat + j) (fun _ => ⟨(c.f.tiles.getD f.ta.toNat nullDescriptor).getD j 0, .raw, false⟩) .uniform) (now c)))) ∧
  ∀ (d : List Word), d.length = 8 → tileBad d = false →
    let t := tileOf d
    let w := (finishTile d).getD 3 0
    (∀ k, k ≠ 3 → (finishTile d).getD k 0 = d.getD k 0) ∧
    (t.kind = 0 ∨ t.acc = true → w = 0) ∧
    (t.kind ≠ 0 → t.acc = false → t.highest / 4096 - t.lowest / 4096 + 1 < 2 ^ 16 → t.lowest / 4096 < 2 ^ 32 →
      (w.extractLsb' 0 32).toNat = t.lowest / 4096 ∧ (w.extractLsb' 32 16).toNat = t.highest / 4096 - t.lowest / 4096 + 1 ∧ w.extractLsb' 48 16 = 0)) ∧
  (∀ (s : State) (T : Team) (core x y : Nat) (acc : Bool) (bs : List (Byte × Bool)),
  let at_ (z : Nat) := s.tileBank T core acc z
  let byte (u : State) (z : Nat) : Nat := (Store.get ⟨u, T, core, []⟩ acc z 1 0).1
  memWf s → core < s.cores.length → (∀ k < bs.length, at_ (x + k) ≠ none) →
  (∀ u v b, at_ u = some b → at_ v = some b → u = v) →
  (∀ z b off, at_ z = some (b, off) → b < if acc then (s.core core).acc.length else (s.core core).banks.length) →
  (∀ b ∈ s.scratchBanks T.uid core, b.2.2 % 8 = 0) →
  byte (s.tileStore T core acc x bs) y = if x ≤ y ∧ y < x + bs.length then ((bs.getD (y - x) (0, false)).1).toNat else byte s y)

/-- R163 to R166: a tile load whose memory is local and whose format pages are sound writes the tile at once and becomes an outstanding operation of
class Load; a tile store writes its rows, and the headers of its format pages; each is complete at its completion event. View element (r, c) of a load
is column c of memory row r. The model's own choices here: when `stt` reads its rows and how overlapping ones are written (assumption 38), and rows
that cross from a format page (assumption 39); what others read before a load completes is left open (assumption 30). -/
def Obligations.TileTransfers : Prop :=
  (∀ (s : State) (c : Ctx) (sub : BitVec 4) (f : XF) (tl : Tile) (ps : List Piece),
    let phase (g : Fibre) : Fibre := if f.mfmt ≠ 0 ∧ f.mfmt ≠ tl.tag then { g with dphase := g.dphase + 11 } else g
    let m : Store := ⟨c.s, c.t, c.core, []⟩
    let row (p : Piece) : List (Byte × Bool) := ((m.sttRow sub f c.f.dphase.toNat tl p.row (tl.view false).2).drop p.off).take p.n
    (issuing (.ldt sub f) (xNames f 2) s = some c → (c.act = [] → Completes (.ldt sub f) s c (now c)) ∧
      (c.act ≠ [] → inOrder c false → c.tileMove false f (c.tile f.td) 5 48 .tileRead = .ok (tl, ps) →
        missingPieces (c.s.reader []) ps = [] → c.s.badPages ps = [] → ∃ op : Op,
        op.classes = [.ld] ∧ op.kind = .tile (tl.current c.s c.t c.core) ∧ op.writes = [] ∧ op.done = false ∧ opens c f.la.toNat op ∧
        Completes (.ldt sub f) s c (((now c).adds op).onState fun u => { u with
          cores := (c.s.tileRows c.t c.core tl (ldtRows (c.s.reader []) sub f tl ps)).cores }))) ∧
    (issuing (.stt sub f) (xNames f 2) s = some c → (c.act = [] → Completes (.stt sub f) s c (now c)) ∧
      (c.act ≠ [] → inOrder c false → c.tileMove true f (c.tile f.ta) 6 44 .write = .ok (tl, ps) → (∀ p ∈ ps, c.s.isFar p.pa = false) →
        (∀ p ∈ ps, p.row < (tl.view false).1) → ∃ op : Op,
        let u := ((ps.filterMap (·.page)).eraseDups).foldl (fun (u : State) b => u.pageStored b)
          (ps.foldl (fun (u : State) p => u.storeMarked (u.place p.pa) (row p)) c.s)
        op.classes = [.st] ∧ op.kind = .tile [] ∧ op.writes = [] ∧ op.done = false ∧ opens c f.la.toNat op ∧
        Completes (.stt sub f) s c ((((now c).adds op).onFibre phase).onState fun v => { v with
          mem := u.mem, home := u.home, poison := u.poison, cores := u.cores, convs := u.convs })))) ∧
  ∀ (rd : Reader) (sub : BitVec 4) (f : XF) (t : Tile) (ps : List Piece) (r k : Nat),
    r < (t.view false).1 → k < (t.view false).2 →
    let rows := ldtRows rd sub f t ps
    (if t.swaps false then (rows.getD k []).getD r (0, false) else (rows.getD r []).getD k (0, false)) =
      ldtElem rd (.ofCode (sub.toNat % 8)) f.ov f.mfmt t.tag (ps.filter fun p => p.row == r) k

/-- R196 to R199, R206: a matrix instruction whose tiles pass the checks of R194 enters the queue of its core's array, with its tiles, its granules
and the dither phase as they stand; the oldest operation of a queue has its effects, leaves the queue, and is complete. R66, R199: a product is
accumulated block by block of 32 terms: each block's exact sum is rounded once, then added to the accumulator with one rounding. The candidates of
`mdist` are put in order of distance, ties by index, and none is lost. R197, R199: the sums of the array run over the rows of A and the columns of B
that the views give; `mdist` leaves the k nearest candidates of a row, distances first, and then their indices. The model's own choices here: poisoned
rows of v operands come before the tile checks (assumption 130), a poisoned candidate poisons its row (assumption 110), the order of equal candidates
under MERGE (assumption 129), and free values shown by an empty unfold view (assumption 40). -/
def Obligations.MatrixOperationsAndSelection : Prop :=
  ((∀ (s : State) (c : Ctx) (sub : BitVec 4) (f : XF),
    let td := tileOf (c.tile f.td)
    let ta := tileOf (c.tile f.ta)
    let tb := tileOf (c.tile f.tb)
    let queued (i : Instr) (n : Names) (checks : Except Exc Unit) (x : Word) (locked : List (List Word)) (post : Fibre → Fibre) : Prop :=
      issuing i n s = some c → (c.act = [] → Completes i s c (now c)) ∧
      (c.act ≠ [] → checks = .ok () → (c.s.core c.core).array.length < 8 → ∃ op : Op,
        op.classes = [.fwd] ∧ op.kind = .array c.s.fresh ∧ op.id = c.s.fresh ∧ op.done = false ∧ op.writes = [] ∧ opens c f.la.toNat op ∧
        op.granules = (locked.flatMap fun d => (tileOf d).granules c.s c.t c.core).eraseDups ∧
        Completes i s c ((((now c).adds op).onFibre post).onState fun u => { u with
          cores := u.cores.modify c.core fun co => { co with
            array := co.array ++ [⟨c.s.fresh, c.r, i, c.tile f.td, c.tile f.ta, c.tile f.tb, x, c.f.dphase⟩] } }))
    (f.pr = true → c.lr.pair = true ∧ c.r.fid < 64) →
    queued (.mma sub f) ⟨[], [], f.g⟩ (c.useTiles c.core [⟨5, 48, c.tile f.td, [1], [true], if sub = 0 then [0, 1] else [0]⟩,
      ⟨6, 44, c.tile f.ta, kindsA f, [false], if sub = 0 then floatTags else [0]⟩,
      ⟨7, 40, c.tile f.tb, [1, 2], [false], if sub = 0 then floatTags else [0]⟩] (mmaShape f f.pr td ta tb)) 0 [c.tile f.ta, c.tile f.tb]
      (setTag f.td (if sub = 0 then 1 else 0)) ∧
    (f.v = 63 ∨ ((c.plain 8 f.v.toNat).row c.low).poison = false →
      queued (.mdist f) ⟨regName 34 f.v, [], f.g⟩ (c.useTiles c.core [⟨5, 48, c.tile f.td, [1], [true], [0]⟩,
        ⟨6, 44, c.tile f.ta, kindsA f, [false], floatTags⟩, ⟨7, 40, c.tile f.tb, [1, 2], [false], floatTags⟩] (mdistShape f td ta tb))
        (if f.v = 63 then 0 else (c.plain 8 f.v.toNat).val c.low) [c.tile f.ta, c.tile f.tb] id) ∧
    queued (.mzero f) ⟨[], [], f.g⟩ (c.useTiles c.core [⟨5, 48, c.tile f.td, [1], [true], List.range 12⟩] none) 0 [] id ∧
    queued (.mld sub f) ⟨[], [], f.g⟩ (c.useTiles c.core [⟨5, 48, c.tile f.td, [1], [true], [1]⟩, ⟨6, 44, c.tile f.ta, [1], [false], floatTags⟩]
      (if td.rows = ta.rows ∧ td.cols = ta.cols then none else some (6, 44))) 0 [c.tile f.ta] id ∧
    (¬(sub = 5 ∧ 16 ≤ td.bits) → queued (.mst sub f) ⟨[], [], f.g⟩ (c.useTiles c.core [⟨5, 48, c.tile f.td, [1], [false], floatTags⟩,
      ⟨6, 44, c.tile f.ta, [1], [true], [1]⟩] (if td.rows = ta.rows ∧ td.cols = ta.cols then none else some (6, 44))) 0 [c.tile f.td]
      (fun y => if td.tag = 1 then y else { y with dphase := y.dphase + 11 }))) ∧
  ∀ (s : State) (core : Nat) (o : ArrayOp) (rest : List ArrayOp) (T : Team),
    (s.core core).array = o :: rest → s.arrayDue core o = true → s.team? o.owner.team = some T → (s.ctx T.ctx).dying = false →
    Does (.forwardArrayComplete core) s fun t => (t.core core).array = rest ∧ sameMemory s t ∧ sameRegs s t ∧
      (t.core core).acc = ((s.arrayRun T core o).core core).acc ∧ (t.core core).banks = ((s.arrayRun T core o).core core).banks ∧
      (∀ k, k ≠ core → t.core k = s.core k) ∧
      ∀ F, s.fibre? o.owner = some F → ∃ G, t.fibre? o.owner = some G ∧ ∀ p ∈ G.ops, p.id = o.id → p.done = true) ∧
  (∀ (s : State) (core : Nat) (o : ArrayOp) (T : Team) (f : XF),
    let m : Store := ⟨s, T, core, s.oldBytes o.owner⟩
    let td := tileOf o.td
    let ta := tileOf o.ta
    let tb := tileOf o.tb
    let depth := (ta.view f.tA).2
    let rowA (i : Nat) : List FV := (List.range depth).map fun q => (m.viewValue ta f.tA i q).1
    let colB (j : Nat) : List FV := (List.range depth).map fun q => (m.viewValue tb f.tB q j).1
    let pois (i j : Nat) : Bool := (List.range depth).any fun q => (m.viewValue ta f.tA i q).2 || (m.viewValue tb f.tB q j).2
    let old (i j : Nat) : Nat × Bool := if f.bit23 then (0, false) else m.code td i j
    (o.i = .mma 0 f → ∃ d : List (List (Nat × Bool)), s.arrayRun T core o = s.tileRows T core td d ∧
      ∀ i < (ta.view f.tA).1, ∀ j < (tb.view f.tB).2, (d.getD i []).getD j (0, false) =
        (accumulate f.ov Sys2Proof.Machine.product (old i j).1 (rowA i) (colB j), (old i j).2 || pois i j)) ∧
    (o.i = .mma 1 f → ∃ d : List (List (Nat × Bool)), s.arrayRun T core o = s.tileRows T core td d ∧
      ∀ i < (ta.view f.tA).1, ∀ j < (tb.view f.tB).2, (((d.getD i []).getD j (0, false)).1 : Int) =
        ((old i j).1 + ((List.range depth).map fun q =>
          sext 8 (m.viewCode ta f.tA i q).1 * sext 8 (m.viewCode tb f.tB q j).1).sum) % 2 ^ 32) ∧
    (o.i = .mdist f → ∃ d : List (List (Nat × Bool)), s.arrayRun T core o = s.tileRows T core td d ∧
      ∀ i < (ta.view f.tA).1,
        let n := f.k.toNat
        let new : List Cand := (List.range (tb.view f.tB).2).map fun j =>
          (accumulate f.ov sqDiff 0 (rowA i) (colB j), (o.x.toNat + j) % 2 ^ 32, pois i j)
        let kept : List Cand := if f.bit23 then (List.range n).map fun q =>
          ((m.code td i q).1, (m.code td i (n + q)).1, (m.code td i q).2 || (m.code td i (n + q)).2) else []
        let best := candSort (kept ++ new)
        ∀ q < td.cols, (d.getD i []).getD q (0, false) =
          if q < n ∧ q < best.length then ((best.getD q (0, 0, false)).1, (kept ++ new).any (·.2.2))
          else if n ≤ q ∧ q < 2 * n ∧ q - n < best.length then ((best.getD (q - n) (0, 0, false)).2.1, (kept ++ new).any (·.2.2))
          else if q < 2 * n then (0, false) else m.code td i q)) ∧
  ((∀ (ov : Bool) (term : FV → FV → FV) (acc : Nat) (a b a' b' : List FV), a.length = 32 → b.length = 32 → a'.length ≤ 992 →
    accumulate ov term acc [] b = acc ∧
    accumulate ov term acc a b = rne fmtF32 (!ov) (sumFV [fmtF32.value acc, fmtF32.value (rne fmtF32 (!ov) (sumFV (List.zipWith term a b)).1)]).1 ∧
    accumulate ov term acc (a ++ a') (b ++ b') = accumulate ov term (accumulate ov term acc a b) a' b') ∧
  ∀ (l : List Cand), (candSort l).Perm l ∧
    ((∀ x ∈ l, ∀ y ∈ l, x.2.1 = y.2.1 → x = y) → (candSort l).Pairwise fun x y => x = y ∨ candBefore x y = true))

/-- R200 to R205, R275: `gmma` enters the reservation table of its cluster; the arbiter starts the request that none of the queued ones goes before,
once those that run have read their operands, which they then keep; a completed request leaves the table and, unless it scatters, writes its tile;
`mcancel` removes the queued requests of the fibre, or of the team, and tells their number. R187, R205: `acqa` parks its threads behind a request for
banks on each core of the team; the oldest request is granted all at once, with banks that read zero, and its threads go on; `rela` returns them. The
model's own choices here: when the engine starts the next request (assumption 43), LANES and the reasons of scatter-mode faults (assumption 42), and
DETAIL of an `acqa` that can never be met (assumption 47). -/
def Obligations.GradientRequestsAndBanks : Prop :=
  ((∀ (s : State) (c : Ctx) (f : XF) (i : Instr),
    let cl := c.core / 4
    let room : Prop := (c.s.cluster cl).table.length < 32 ∧ (c.s.reqsOf c.core).length < 16
    let ta := tileOf (c.tile f.ta)
    let tb := tileOf (c.tile f.tb)
    let g := (c.plain 8 f.v.toNat).row c.low
    let st := (c.plain 8 (f.v.toNat + 1)).row c.low
    let posts (scat : Option (Word × Word)) (post : Fibre → Fibre) : Prop :=
      let op : Op := ⟨c.s.fresh, [.grad], .gradient c.s.fresh, .async, 0, [], [],
        ((ta.granules c.s c.t c.core) ++ (tb.granules c.s c.t c.core)).eraseDups, c.s.time, false⟩
      Completes (.gmma f) s c ((((now c).adds op).onFibre post).onState fun u => { u with
        clusters := u.clusters.modify cl fun k => { k with table := k.table ++
          [⟨c.s.fresh, c.r, c.core, c.s.clock, f.k.toNat, .queued, f, c.tile f.td, c.tile f.ta, c.tile f.tb, scat, false, false, none⟩] } })
    (issuing (.gmma f) (if f.bit23 then xNames f 2 else ⟨[], [], f.g⟩) s = some c → (c.act = [] → Completes (.gmma f) s c (now c)) ∧
      (c.act ≠ [] → f.bit23 = false → room → c.useTiles c.core [⟨5, 48, c.tile f.td, [1], [true], [0, 1]⟩,
          ⟨6, 44, c.tile f.ta, kindsA f, [false], floatTags⟩, ⟨7, 40, c.tile f.tb, [1, 2], [false], floatTags⟩]
          (mmaShape f false (tileOf (c.tile f.td)) ta tb) = .ok () → posts none (setTag f.td 1)) ∧
      (c.act ≠ [] → f.bit23 = true → room → g.poison = false → st.poison = false → g.val.toNat % 4 = 0 → st.val.toNat % 4 = 0 →
        c.useTiles c.core [⟨6, 44, c.tile f.ta, kindsA f, [false], floatTags⟩, ⟨7, 40, c.tile f.tb, [1, 2], [false], floatTags⟩] (viewsBad f ta tb) = .ok () →
        c.scatRows g.val st.val (ta.view f.tA).1 (tb.view f.tB).2 = [] → posts (some (g.val, st.val)) id)) ∧
    (∀ (team : Bool), i = (if team then .mcancelTeam f else .mcancel f) → issuing i (xNames f 1) s = some c →
      let mine (x : GReq) : Bool := x.state == .queued && (if team then x.owner.team == c.t.uid else x.owner == c.r)
      let n := (c.s.cluster cl).table.countP mine
      (c.act = [] → Completes i s c (now c)) ∧
      (c.act ≠ [] → ((c.s.cluster cl).table.map (·.id)).Nodup → Does i s fun t => sameMemory s t ∧
        (t.cluster cl).table = (c.s.cluster cl).table.filter (fun x => !mine x) ∧ (∀ l ∈ c.bundle, continues c t l) ∧
        (∀ l ∈ c.act, rowAt t c.r f.v.toNat l = ⟨BitVec.ofNat 64 n, .raw, false⟩) ∧
        ∀ m l, m ≠ f.v.toNat ∨ l ∉ c.act → rowAt t c.r m l = rowAt s c.r m l))) ∧
  (∀ (s : State) (k : Nat), (∃ g ∈ (s.cluster k).table, g.state = .queued) → ((s.cluster k).table.map (·.id)).Nodup →
    (∀ g ∈ (s.cluster k).table, s.engineFree g = true) →
    Does (.gradientEngineStart k) s fun t => ∃ g ∈ (s.cluster k).table, g.state = .queued ∧
      (∀ x ∈ (s.cluster k).table, x.state = .queued → startBefore s.clock x g = false) ∧
      t = { s with clusters := t.clusters } ∧ (t.cluster k).table = (s.cluster k).table.map fun x => 
        if x = g then { x with state := .started } else s.readOperands x) ∧
  ∀ (s : State) (k : Nat), (∃ g ∈ (s.cluster k).table, s.requestDue g = true) →
    Does (.gradientEngineComplete k) s fun t => ∃ g ∈ (s.cluster k).table, s.requestDue g = true ∧ sameMemory s t ∧ sameRegs s t ∧
      (t.cluster k).table = (s.cluster k).table.filter (fun x => x.id != g.id) ∧
      ∀ T, s.team? g.owner.team = some T → g.orphan = false → (s.ctx T.ctx).dying = false →
        let m : Store := ⟨s, T, g.core, s.oldBytes g.owner⟩
        let d := (g.result.getD (m.product false g.f (g.f.bit22 || g.scat.isSome) (tileOf g.td) (tileOf g.ta) (tileOf g.tb))).map fun row =>
          row.map fun x => (x.1, x.2 || g.poison)
        match g.scat with
        | none => t.cores = (s.tileRows T g.core (tileOf g.td) d).cores ∧ t.adds = s.adds
        | some (base, stride) => t.cores = s.cores ∧ t.adds = s.adds ++ scatterResults s T (g.owner, g.id) base stride d) ∧
  ((∀ (s : State) (c : Ctx) (f : XF), c.core < s.cores.length →
    let cores := if c.lr.pair then [c.t.core, c.t.core + 1] else [c.t.core]
    (issuing (.acqa f) ⟨[], [], f.g⟩ s = some c → c.lr.accDyn = true → (c.act = [] → Completes (.acqa f) s c (now c)) ∧
      (c.act ≠ [] → c.t.accDyn = false → (∀ k ∈ cores, k < s.cores.length ∧ f.k.toNat + c.s.staticBanks k ≤ 8 ∧
          ∀ q ∈ (c.s.core k).accWait, q.team ≠ c.t.uid) → f.k.toNat ≤ 8 →
        Does (.acqa f) s fun t => sameMemory s t ∧ sameRegs s t ∧ (∀ k ∈ cores, (t.core k).accWait = (c.s.core k).accWait ++ [⟨c.t.uid, f.k.toNat, c.r⟩]) ∧
          (∀ l ∈ c.act, (threadAt t c.r l).st = .parked .acqa (.acqa f) s.time) ∧ ∀ l ∈ c.bundle, l ∉ c.act → continues c t l)) ∧
    (issuing (.rela f) ⟨[], [], f.g⟩ s = some c → c.lr.accDyn = true →
      (c.act = [] ∨ c.t.accDyn = false → Completes (.rela f) s c (now c)) ∧
      (c.act ≠ [] → c.t.accDyn = true → c.s.accsBusy c.t = false → Does (.rela f) s fun t => sameMemory s t ∧ sameRegs s t ∧
        (∀ T, t.team? c.r.team = some T → T.accs = [] ∧ T.accs2 = [] ∧ T.accDyn = false) ∧
        (∀ k ∈ cores, ∀ b ∈ (t.core k).acc, b.owner ≠ some c.t.uid) ∧ ∀ l ∈ c.bundle, continues c t l))) ∧
  ∀ (s : State) (core : Nat) (q : AccReq) (T : Team),
    let cores := T.cores (s.recOf T)
    (s.core core).accWait.head? = some q → s.team? q.team = some T → T.core = core →
    (∀ k ∈ cores, k < s.cores.length ∧ (s.core k).accWait.head? = some q ∧ q.n ≤ (freeAccs (s.core k)).length) →
    Does (.accumulatorGrant core) s fun t => sameMemory s t ∧ sameRegs s t ∧
      (∀ k ∈ cores, (t.core k).accWait = (s.core k).accWait.drop 1 ∧
        ∀ b ∈ (freeAccs (s.core k)).take q.n, (t.core k).acc.getD b .reset = ⟨some q.team, [], []⟩) ∧
      (∀ T', t.team? q.team = some T' → T'.accDyn = true ∧ T'.accs = T.accs ++ (freeAccs (s.core core)).take q.n) ∧
      (q.fibre.team = q.team → ∀ l i since, (threadAt s q.fibre l).st = .parked .acqa i since →
        (threadAt t q.fibre l).st = .waiting ∧ (threadAt t q.fibre l).pc = (threadAt s q.fibre l).nxt))

/-! ## Tapes and gradient scatter -/

/-- R214 to R216, R219, R220, R223: what `trec`, `tmark` and `tend` do to the tapes of the active threads and to the area's charge: a record on the
newest open span or the local tape, none for a thread in a recompute span, whose rows are charged all the same; a new span above the closed one, with
its checkpoint; and, where a record no longer fits, the recorded spans turned into recompute spans under the policy that allows it, exhaustion
otherwise. The model's own choices here: `tmark` makes two charged entries (assumption 48), and how entries enter and leave the ring (assumption 49).
-/
def Obligations.TapeRecording : Prop := ∀ (s : State) (c : Ctx) (f : SF) (a : TapeArea),
  let m := c.plain 2 f.a.toNat
  let regs := c.maskRegs (m.val c.low)
  let preds := maskPreds (m.val c.low)
  let tid (l : Nat) : BitVec 32 := (c.f.thread l).tid
  let old (l : Nat) : Tape := a.tape c.t.index (tid l)
  let tapes (i : Instr) (use : Nat) (new : Nat → Tape) : Prop := Does i s fun t => ∃ a', t.area? c.lr = some a' ∧
    a'.used = use ∧ a'.quota = a.quota ∧ (∀ l ∈ c.act, a'.tape c.t.index (tid l) = new l) ∧
    (∀ team x, (∀ l ∈ c.act, (team, x) ≠ (c.t.index, tid l)) → a'.tape team x = a.tape team x) ∧
    sameMemory s t ∧ sameRegs s t ∧ ∀ l ∈ c.bundle, continues c t l
  let usual (i : Instr) (src : Bool) : Prop := issuing i (sNames f false src) s = some c ∧ c.s.area? c.lr = some a ∧ c.act ≠ [] ∧
    c.recForbidden a = false ∧ (c.act.map tid).Nodup ∧ (src = true → (m.row c.low).poison = false ∧ c.regsPending regs = false)
  (usual (.trec f) true →
    let size := c.entryCharge c.act regs preds false
    let records (l : Nat) : Prop := (old l).replay = true ∨ (old l).isRc = false
    (a.used + size ≤ a.quota → (∀ l ∈ c.act, ¬records l) → Completes (.trec f) s c (now c)) ∧
    (a.used + size ≤ a.quota → (∃ l ∈ c.act, records l) → c.ringFull a size = false → tapes (.trec f) (a.used + size) fun l =>
      let x := c.capture c.s.fresh l regs preds
      if (old l).replay then { old l with localRecs := x :: (old l).localRecs }
      else if (old l).isRc then old l
      else match (old l).spans with
        | sp :: rest => if sp.isOpen then { old l with spans := { sp with recs := x :: sp.recs } :: rest }
          else { old l with spans := ⟨false, 0, s.time, none, none, true, [x]⟩ :: sp :: rest }
        | [] => { old l with spans := [⟨false, 0, s.time, none, none, true, [x]⟩] }) ∧
    (a.quota < a.used + size → c.lr.tpolFault = false → (∀ l ∈ c.act, (old l).replay = false ∧ (old l).isImplicit = false) →
      Does (.trec f) s fun t => ∃ a', t.area? c.lr = some a' ∧ a'.exhausted = true ∧ sameMemory s t ∧ sameRegs s t ∧
        (∀ l ∈ c.bundle, continues c t l) ∧
        ∀ l ∈ c.act, if (old l).isRc then a'.tape c.t.index (tid l) = old l
          else ∃ sp rest, (old l).spans = sp :: rest ∧
            a'.tape c.t.index (tid l) = { old l with conv := true, spans := { sp with rc := true, recs := [] } :: rest }) ∧
    (a.quota < a.used + size → size < 2 ^ 32 → c.lr.tpolFault = true ∨ (∃ l ∈ c.act, (old l).replay = true ∨ (old l).isImplicit = true) →
      Traps (.trec f) s c c.is.addr ⟨0x0A, 0, 0, size, 0, c.amask⟩)) ∧
  (∀ (rc : Bool) (i : Instr), i = (if rc then .tmarkRc f else .tmarkRec f) → usual i true → (∀ l ∈ c.act, (old l).replay = false) →
    let target := c.is.addr + 8 * f.imm.signExtend 64
    let size := c.entryCharge c.act regs preds true
    let use := (c.eachTape a c.act Tape.close).used
    targetOk c.lr target = true → use + size ≤ a.quota → c.ringFull a size = false → 16 ≤ size →
    tapes i (use + size) fun l => { old l with spans :=
      ⟨rc || a.exhausted, target, s.time, some (c.capture c.s.fresh l regs preds), some (c.s.fresh + 1), true, []⟩ :: (old l).close.1.spans }) ∧
  (usual (.tend f) false → tapes (.tend f) (c.eachTape a c.act Tape.finish).used fun l =>
    if (old l).replay then { old l with replay := false } else (old l).close.1) ∧
  (∀ i src, (i = .trec f ∧ src = true) ∨ (i = .tmarkRec f ∧ src = true) ∨ (i = .tmarkRc f ∧ src = true) ∨ (i = .tend f ∧ src = false) →
    issuing i (sNames f false src) s = some c → c.s.area? c.lr = some a → c.act = [] → Completes i s c (now c)) ∧
  ∀ (t : Tape) (sp : Span) (rest : List Span), t.spans = sp :: rest → sp.isOpen = true →
    t.close.1.spans = { sp with isOpen := false, ckpt := if sp.rc then sp.ckpt else none } :: rest

/-- R221, R222: `tpop` gives every active thread the newest item of its tape: the rows and predicates that the record holds, whether it was a
recompute checkpoint, and then the entry PC. What the newest item is: the local tape first, then the spans, newest first. R213, R224: the queries of a
tape, and the events of a team's ring: an entry enters it, the oldest entries of at least 4 KiB leave it, and a refill completes its `tpop`. The
model's own choices here: which entries the ring spills, and when (assumption 49), what $tape counts as a span (assumption 109), and which row a
faulty word holds (assumption 123). -/
def Obligations.TapePoppingAndQueries : Prop :=
  ((∀ (s : State) (c : Ctx) (f : SF) (a : TapeArea),
    let pd : BitVec 3 := f.d.extractLsb' 0 3
    let tid (l : Nat) : BitVec 32 := (c.f.thread l).tid
    let pop (l : Nat) := (a.tape c.t.index (tid l)).pop
    issuing (.tpop f) (sNames f false false) s = some c → c.lr.tmode ≠ 0 → c.s.area? c.lr = some a →
    (c.act = [] → Completes (.tpop f) s c (now c)) ∧
    (c.act ≠ [] → (c.act.map tid).Nodup → (∀ l ∈ c.act, ∀ x, (pop l).2.1 = some x →
        c.t.inRing x.1.entry = true ∧ c.regsPending ((x.1.regs.map (·.1)).filter (· < c.t.nregs c.f)) = false) →
      Does (.tpop f) s fun t => ∃ a', t.area? c.lr = some a' ∧ sameMemory s t ∧
        (∀ l ∈ c.act, a'.tape c.t.index (tid l) = (pop l).1) ∧
        (∀ n l, n < c.t.nregs c.f → rowAt t c.r n l = match (if l ∈ c.act then (pop l).2.1 else none) with
          | some x => (match x.1.regs.find? fun y => y.1 == n with | some y => y.2.1 | none => c.row n l)
          | none => c.row n l) ∧
        (∀ n, n < c.t.nregs c.f →
          let gives (l : Nat) (e : Nat) (P : Bool → Prop) : Prop := l ∈ c.act ∧ ∃ x y, (pop l).2.1 = some x ∧ x.1.entry = e ∧ y ∈ x.1.regs ∧ y.1 = n ∧ P y.2.2
          ((∀ l e, ¬gives l e fun _ => True) → (regAt t c.r n).shape = (c.reg n).shape) ∧
          ((∃ l e, gives l e fun _ => True) → (∃ e, ∀ l ∈ c.live, gives l e (· = true)) → (regAt t c.r n).shape = .uniform) ∧
          ((∃ l e, gives l e fun _ => True) → (¬∃ e, ∀ l ∈ c.live, gives l e (· = true)) → (regAt t c.r n).shape = .general)) ∧
        ∀ l ∈ c.act, (pd ≠ 7 → (threadAt t c.r l).pred pd = match (pop l).2.1 with | some (_, some _) => true | _ => false) ∧
          (∀ x pc, (pop l).2.1 = some (x, some pc) → (threadAt t c.r l).rcpc = pc) ∧
          ∀ p, p ≠ pd → (∀ x y, (pop l).2.1 = some x → y ∈ x.1.preds → BitVec.ofNat 3 y.1 ≠ p) →
            (threadAt t c.r l).pred p = (c.f.thread l).pred p)) ∧
  ∀ (t : Tape),
    (∀ r rs, t.localRecs = r :: rs → t.pop = ({ t with localRecs := rs }, some (r, none), [r.entry])) ∧
    (t.localRecs = [] → (t.spans = [] → t.pop.1 = t ∧ t.pop.2.1 = none) ∧
      ∀ sp rest, t.spans = sp :: rest →
        (∀ r rs, sp.recs = r :: rs → t.pop.1 = { t with spans := { sp with recs := rs } :: rest } ∧ t.pop.2.1 = some (r, none)) ∧
        (∀ k, sp.recs = [] → sp.rc = true → sp.ckpt = some k → t.pop.1 = { t with spans := rest, replay := true } ∧
          t.pop.2.1 = some (k, some sp.pc)) ∧
        (sp.recs = [] → sp.rc = false ∨ sp.ckpt = none → t.pop.1 = ({ t with spans := rest }).pop.1 ∧
          t.pop.2.1 = ({ t with spans := rest }).pop.2.1))) ∧
  ((∀ (s : State) (c : Ctx) (f : SF) (a : TapeArea), c.s.area? c.lr = some a →
    let tape (l : Nat) : Tape := a.tape c.t.index (c.f.thread l).tid
    (issuing (.tqueryNext f) (sNames f true false) s = some c → WritesRow (.tqueryNext f) s c f.d .raw .general fun l =>
      match (tape l).pop.2.1 with
      | none => 0
      | some (x, pc) => x.mask ||| (if pc.isSome then 1#64 <<< 63 else 0)) ∧
    (issuing (.tqueryUsed f) (sNames f true false) s = some c → WritesRow (.tqueryUsed f) s c f.d .raw .uniform fun _ => BitVec.ofNat 64 a.used) ∧
    (issuing (.tqueryQuota f) (sNames f true false) s = some c → WritesRow (.tqueryQuota f) s c f.d .raw .uniform fun _ => BitVec.ofNat 64 a.quota)) ∧
  (∀ (s : State) (r : FibreRef) (T : Team) (F : Fibre) (o : Op), s.team? r.team = some T → T.fibre? r.fid = some F →
    F.op? o.id = some o → o.done = false →
    (∀ e, o.kind = .tapeEntry e → Does (.tapeEntryInRing r o.id) s fun t => sameMemory s t ∧ sameRegs s t ∧
      ∃ T' new, t.team? r.team = some T' ∧ T'.ring = T.ring ++ new ∧
        (∀ x ∈ new, x.entry = e ∨ x.entry = e + 1) ∧ ∀ a, s.area? (s.recOf T) = some a →
          (new.map (·.bytes)).foldl (· + ·) 0 = chargeOf a e) ∧
    (∀ e, o.kind = .tapeRefill e → Does (.tapeRefill r o.id) s fun t => Completed s t r o.id)) ∧
  ∀ (s : State) (u : Nat) (T : Team), s.team? u = some T → 4096 ≤ (T.ring.map (·.bytes)).sum → Does (.tapeSpill u) s fun t =>
    t = { s with teams := t.teams } ∧ sameRegs s t ∧ ∃ T' gone, t.team? u = some T' ∧ T.ring = gone ++ T'.ring ∧
      4096 ≤ (gone.map (·.bytes)).sum ∧ (gone.dropLast.map (·.bytes)).sum < 4096)

/-- R225, R228, R230: `gscat` changes no memory: it sends one addition per word of each active lane; an addition is summed exactly in its target's
accumulator, and a sum of additions does not depend on their order. R231: finalisation adds a target's sum to its memory word with one rounding, frees
the accumulator, and leaves every other byte; NaN and infinities as the rule says. `gflush` and `gflush.all` finalise the targets of their range, and
of the launch. The model's own choices here: `gflush` acts when it issues and stalls while additions of its fibre travel (assumption 44), and the use
of spill records (assumption 45). -/
def Obligations.ScatterAddsAndFinalises : Prop :=
  ((∀ (s : State) (c : Ctx) (sub : BitVec 4) (f : MF) (pa : Nat → Nat),
    let n := if sub = 0 then 1 else 2
    let a := c.src 2 f.a 0 0
    let b := c.src 3 f.b 0 0
    let addr := addrOf a none (off20 f)
    issuing (.gscat sub f) (mNames f 0 false 1) s = some c → inOrder c false →
    (c.act = [] → Completes (.gscat sub f) s c (now c)) ∧
    (c.act ≠ [] → (∀ l ∈ c.act, c.scatLane a [(b, some .f32)] (addr l) (4 * n) 2 l = .ok (pa l)) →
      Does (.gscat sub f) s fun t => ∃ op : Op, op.classes = [.tape] ∧ op.kind = .scatter ∧ op.writes = [] ∧ op.done = false ∧ opens c f.la.toNat op ∧
        After c t (((now c).issues op t).onState fun u => { u with adds := u.adds ++ c.act.flatMap fun l => (List.range n).map fun k =>
          ⟨c.t.launch, c.t.ctx, pa l + 4 * k, (b.val l).extractLsb' (32 * k) 32, false, some (c.r, op.id)⟩ }))) ∧
  (∀ (s : State) (k : Nat) (a : Addition), s.adds[k]? = some a →
    let mine (x : ScatAcc) : Bool := x.launch == a.launch && x.target == a.target
    (∀ x, s.accs.find? mine = some x → Does (.scatterAddition k) s fun t => sameMemory s t ∧ sameRegs s t ∧ t.adds = s.adds.eraseIdx k ∧
      t.accs.find? mine = some (x.add a.value a.pois) ∧ ∀ y ∈ s.accs, mine y = false → y ∈ t.accs) ∧
    (s.accs.find? mine = none → (s.accs.countP fun x => unitOf x.target == unitOf a.target) < 4096 →
      Does (.scatterAddition k) s fun t => sameMemory s t ∧ sameRegs s t ∧ t.adds = s.adds.eraseIdx k ∧
        t.accs = s.accs ++ [(ScatAcc.fresh a.launch a.target).add a.value a.pois])) ∧
  ∀ (a : ScatAcc) (x y : BitVec 32) (p q : Bool), (a.add x p).add y q = (a.add y q).add x p) ∧
  ((∀ (s : State) (c : Ctx) (f : SF) (L : Launch) (x : ScatAcc) (i : Instr) (all : Bool),
    let lo := ((c.plain 2 f.a.toNat).val c.low).toNat
    let n := ((c.plain 2 (f.a.toNat + 1)).val c.low).toNat
    let inside (p : Nat) : Bool := all || (c.s.physRange c.t.ctx lo n).any fun (q, k) => q ≤ p && p < q + k
    i = (if all then .gflushAll f else .gflush f) →
    issuing i (if all then sNames f false false else ⟨group 40 f.a.toNat 2, [], f.g⟩) s = some c →
    (c.act = [] → Completes i s c (now c)) ∧
    (c.act ≠ [] → (all = false → ((c.plain 2 f.a.toNat).row c.low).poison = false ∧ ((c.plain 2 (f.a.toNat + 1)).row c.low).poison = false) →
      c.scattering = false → c.s.canPost = true → s.launch? c.t.launch = some L → (s.ctx c.t.ctx).dying = false →
      ((∀ y ∈ s.accs, y.launch = L.id → inside y.target = false) → L.spills = [] → Completes i s c (now c)) ∧
      (memWf s → s.accs.filter (fun y => y.launch == L.id && inside y.target) = [x] → L.spills = [] → Does i s fun t =>
        let p := c.s.place x.target
        t.accs = s.accs.filter (fun y => !(y.launch == L.id && inside y.target)) ∧ sameRegs s t ∧
        (∀ k < 4, p.add k ≠ .far (x.target + k) → placeByte t (p.add k) = BitVec.ofNat 8 (x.final (numAt c.s x.target 4) / 2 ^ (8 * k))) ∧
        ∀ q, (∀ k < 4, p.add k ≠ q) → placeByte t q = placeByte s q)) ) ∧
  ∀ (a : ScatAcc) (m : Nat),
    let v := fmtF32.value m
    (a.nan = true ∨ v = .nan ∨ (a.pinf = true ∧ a.ninf = true) → a.final m = fmtF32.nan) ∧
    (a.nan = false → a.pinf = false → a.ninf = false → v ≠ .nan →
      a.final m = (roundFV fmtF32 .rne 0 false 0 (sumFV [v, if a.sum = 0 then .fin a.negz 0 0 else .fin (a.sum.msb) a.sum.toInt.natAbs (-149)]).1).1) ∧
    (a.nan = false → a.pinf = true → a.ninf = false → v ≠ .nan → v ≠ .inf true → a.final m = 0x7F800000) ∧
    (a.nan = false → a.pinf = false → a.ninf = true → v ≠ .nan → v ≠ .inf false → a.final m = 0xFF800000))

/-! ## Rendering -/

/-- R239 to R244: `boxt` and `trit` read their node or record and become outstanding in class Traversal, with the references of the children hit, or
the hit and its predicate; a poisoned node or record poisons the results. R241, R243: the tests are exact. A ray hits a child exactly when some point
of its interval lies in the child's closed box on every axis; it hits a triangle at t, u, v exactly when they solve the ray-triangle equation within
their bounds and the record's culling admits the winding. The model's own choices here: which lane and operand a 0x04 or 0x09 names (assumption 27).
-/
def Obligations.RayTestResults : Prop :=
  (∀ (s : State) (c : Ctx) (sub : BitVec 4) (f : VF) (pa : Nat → Nat),
  let a := c.plain 2 f.a.toNat
  let ws (l : Nat) : List Word := valsAt (c.grp 3 f.b.toNat 3 ++ c.grp 4 f.c.toNat 1) l
  let tests (i : Instr) (dn size : Nat) (out : Nat → LaneOut) : Prop := issuing i (rNames f dn 1 3 1) s = some c → inOrder c false →
    (c.act = [] → Completes i s c (now c)) ∧
    (c.act ≠ [] → accessOk c ⟨[a], asF32 (c.grp 3 f.b.toNat 3 ++ c.grp 4 f.c.toNat 1), addrOf a none 0, .read, size, 2⟩ size pa →
      LaneReads i s c [.trav] 15 ((List.range dn).map (f.d.toNat + ·)) .general (now c) out)
  let bytes (l size : Nat) : List Byte × Bool := c.s.readPlace (c.s.place (pa l)) size
  tests (.boxt f) 8 128 (fun l =>
    let refs := (nodeHits (bytes l 128).1 (f32s (ws l))).map (childRef (bytes l 128).1)
    ⟨(List.range 8).map fun k => (f.d.toNat + k, if (bytes l 128).2 then ⟨0, .raw, true⟩ else ⟨BitVec.ofNat 64 (refs.getD k 0), .raw, false⟩), [], 0⟩) ∧
  tests (.trit sub f) 3 64 (fun l =>
    let rc := (bytes l 64).1
    if (bytes l 64).2 then ⟨[(f.d.toNat, ⟨0, .raw, true⟩), (f.d.toNat + 1, ⟨0, .raw, true⟩), (f.d.toNat + 2, ⟨0, .raw, true⟩)], [(sub.extractLsb' 0 3, true)], 0⟩
    else match recordHit rc (f32s (ws l)) with
      | none => ⟨[], [(sub.extractLsb' 0 3, false)], 0⟩
      | some (t, u, v) => ⟨[(f.d.toNat, ⟨BitVec.ofNat 64 (t.toF32.1 + u.toF32.1 * 2 ^ 32), .f32, false⟩),
          (f.d.toNat + 1, ⟨BitVec.ofNat 64 v.toF32.1, .f32, false⟩),
          (f.d.toNat + 2, ⟨BitVec.ofNat 64 (leNat ((rc.drop 36).take 4) + leNat ((rc.drop 40).take 4) * 2 ^ 32), .raw, false⟩)],
        [(sub.extractLsb' 0 3, true)], 0⟩)) ∧
  ((∀ (nd : List Byte) (ray : List FV) (r : List Frac) (i : Nat), i < 8 → fracs? ray = some r → r.length = 8 → (∀ x ∈ r, 0 < x.den) →
    let at_ (k : Nat) : Rat := rat (r.getD k ⟨0, 1⟩)
    (i ∈ nodeHits nd ray ↔ (nd.getD 15 0).getLsbD i = true ∧ (∀ k < 3, childBounds nd i k ≠ none) ∧
      ∃ τ : Rat, at_ 6 ≤ τ ∧ τ ≤ at_ 7 ∧ ∀ k < 3, ∀ b, childBounds nd i k = some b →
        rat b.1 ≤ at_ k + τ * at_ (3 + k) ∧ at_ k + τ * at_ (3 + k) ≤ rat b.2) ∧
    (nodeHits nd ray).Nodup) ∧
  ∀ (rc : List Byte) (ray : List FV) (r p : List Frac), fracs? ray = some r →
    fracs? ((List.range 9).map fun k => fmtF32.value (leNat ((rc.drop (4 * k)).take 4))) = some p → (∀ x ∈ r ++ p, 0 < x.den) → r.length = 8 →
    let at_ (k : Nat) : Rat := rat (r.getD k ⟨0, 1⟩)
    let pt (j k : Nat) : Rat := rat (p.getD (3 * j + k) ⟨0, 1⟩)
    let e (j k : Nat) : Rat := pt j k - pt 0 k
    let det : Rat := e 1 0 * (at_ 4 * e 2 2 - at_ 5 * e 2 1) + e 1 1 * (at_ 5 * e 2 0 - at_ 3 * e 2 2) + e 1 2 * (at_ 3 * e 2 1 - at_ 4 * e 2 0)
    let cull := leNat ((rc.drop 44).take 4) % 4
    ∀ T U V : Rat, (∃ t u v, recordHit rc ray = some (t, u, v) ∧ rat t = T ∧ rat u = U ∧ rat v = V) ↔
      det ≠ 0 ∧ (∀ k < 3, at_ k + T * at_ (3 + k) = pt 0 k + U * e 1 k + V * e 2 k) ∧ 0 ≤ U ∧ 0 ≤ V ∧ U + V ≤ 1 ∧ at_ 6 ≤ T ∧ T ≤ at_ 7 ∧
        ¬(cull = 1 ∧ det < 0) ∧ ¬(cull = 2 ∧ 0 < det))

/-- R245, R246: the traversal stack of a thread: `spush` stores above it and raises the depth, `spop` takes the top entry, or clears its predicate
where there is none; the depth can be read and cleared. R247, R248: `cull` writes the reason code and sets its predicate where the triangle is kept.
Code 5 for coordinates that are not finite; else 2 when its test is on and all vertices lie beyond one plane of the view volume. The model's own
choices here: which lane and operand a 0x04 or 0x09 names (assumption 27), and DETAIL 56 where there is no stack (assumption 50). -/
def Obligations.TraversalStacksAndCulls : Prop :=
  (∀ (s : State) (c : Ctx) (f : VF) (pa : Nat → Nat), c.lr.stkOff ≠ 0 →
  let a := c.plain 2 f.a.toNat
  let p : BitVec 3 := f.c.extractLsb' 0 3
  let deep (k : Nat → Nat) (o : Out) : Out := o.onThreads c fun l t => { t with depth := k l }
  (memWf s → issuing (.spush f) (rNames f 0 1 0 0) s = some c → inOrder c false → clean c [(a, none)] → (∀ l ∈ c.act, c.depth l < 32) →
    let va (l : Nat) : Nat := c.stackVa l (c.depth l)
    (c.act = [] → Completes (.spush f) s c (now c)) ∧
    (c.act ≠ [] → accessOk c ⟨[], [], va, .write, 8, 0⟩ 8 pa → Does (.spush f) s fun t => ∃ op : Op,
      After c t (((deep (fun l => c.depth l + 1) (now c)).issues op t).stores t) ∧ op.classes = [.st] ∧ op.kind = .store ∧
      stored c t va pa 8 fun l k => (a.val l).extractLsb' (8 * k) 8)) ∧
  (issuing (.spop f) (rNames f 1 0 0 0) s = some c → inOrder c false →
    let c1 : Ctx := { c with act := c.act.filter fun l => c.depth l != 0 }
    (c1.act = [] → Completes (.spop f) s c ((now c).setPred c p fun _ => false)) ∧
    (c1.act ≠ [] → accessOk c1 ⟨[], [], fun l => c.stackVa l (c.depth l - 1), .read, 8, 0⟩ 8 pa → Does (.spop f) s fun t => ∃ op : Op,
      After c t ((((now c).onThreads c fun l x => if c.depth l = 0 then x.setPred p false else { x with depth := c.depth l - 1 })).issues op t) ∧
      op.classes = [.ld] ∧ op.kind = .load ∧ (∀ l q v, ⟨l, q, v⟩ ∈ op.preds ↔ l ∈ c1.act ∧ q = p ∧ v = true) ∧
      ∃ h, op.writes = [h] ∧ h.reg = f.d.toNat ∧ h.rows = c1.act.map fun l => (l, ⟨BitVec.ofNat 64 (numAt c.s (pa l) 8), .raw, poisAt c.s (pa l) 8⟩))) ∧
  (issuing (.spopDepth f) (rNames f 1 0 0 0) s = some c → WritesRow (.spopDepth f) s c f.d .raw .general fun l => BitVec.ofNat 64 (c.depth l)) ∧
  (issuing (.spopClear f) (rNames f 0 0 0 0) s = some c → Completes (.spopClear f) s c (deep (fun _ => 0) (now c)))) ∧
  ((∀ (s : State) (c : Ctx) (f : VF),
    let vs := c.grp 2 f.a.toNat 6
    let b := c.plain 3 f.b.toNat
    let code (l : Nat) : Nat := cullCode (b.val l) (f32s (valsAt vs l))
    issuing (.cull f) (rNames f 1 6 1 0) s = some c → clean c (asF32 vs ++ untagged [b]) →
    Completes (.cull f) s c (((now c).write c f.d.toNat (fun l => ⟨BitVec.ofNat 64 (code l), .raw, false⟩) .general).setPred c
      (f.c.extractLsb' 0 3) fun l => code l == 0)) ∧
  ∀ (ctl : Word) (vs : List FV), vs.length = 12 → cullCode ctl vs ≤ 5 ∧ (cullCode ctl vs = 5 ↔ fracs? vs = none) ∧
    ∀ l, fracs? vs = some l → (∀ x ∈ l, 0 < x.den) →
      let at_ (j k : Nat) : Rat := rat (l.getD (4 * j + k) ⟨0, 1⟩)
      let beyond (g : Nat → Prop) : Prop := ∀ j < 3, g j
      (cullCode ctl vs = 2 ↔ ctl.getLsbD 2 = true ∧ ((∃ k < 2, beyond fun j => at_ j 3 < at_ j k) ∨ (∃ k < 2, beyond fun j => at_ j k < -at_ j 3) ∨
        (beyond fun j => at_ j 2 < 0) ∨ beyond fun j => at_ j 3 < at_ j 2)) ∧
      ((∃ j < 3, at_ j 3 ≤ 0) → cullCode ctl vs = 0 ∨ cullCode ctl vs = 2) ∧
      (cullCode ctl vs = 3 → ctl.getLsbD 3 = true) ∧ (cullCode ctl vs = 1 → ctl.getLsbD 1 = true) ∧ (cullCode ctl vs = 4 → ctl.getLsbD 4 = true))

/-- R256 to R260: samples and queries read their descriptor and texels and become outstanding in class Traversal; texels of weight zero are not read.
R257, R258: the texels of a sample lie inside their level, levels inside the texture, and their weights add up to one; texels of a level do not
overlap. The model's own choices here: exact fractions with one rounding (assumption 54), and descriptors and texels that another package holds
(assumption 72). -/
def Obligations.TextureSampleResults : Prop :=
  (∀ (s : State) (c : Ctx) (f : VF) (pa : Nat → Nat) (pas : Nat → List Nat),
  let a := c.plain 2 f.a.toNat
  let dsc (l : Nat) : List Byte := (c.s.readPlace (c.s.place (pa l)) 32).1
  let d (l : Nat) : TexDesc := texDesc (leNat ((dsc l).take 8)) (leNat (((dsc l).drop 8).take 8))
  let found (n : Nat) (tag : Option Tag) : Prop := accessOk c ⟨[a], (c.grp 3 f.b.toNat n).map fun x => (x, tag), addrOf a none 0, .read, 32, 2⟩ 32 pa ∧
    (∀ l ∈ c.act, poisAt c.s (pa l) 32 = false ∧ texDescOk (dsc l) = true ∧ (d l).base % 256 = 0) ∧ c.f0.ops.all (fun o => o.kind.answers == []) = true
  let words (n l : Nat) : List Word := valsAt (c.grp 3 f.b.toNat n) l
  let taps (g : Bool) (n l : Nat) : List Tap := ((texTaps g (d l) (words n l)).getD []).filter fun t => t.wt.num != 0
  let sample (i : Instr) (g : Bool) (n : Nat) : Prop := issuing i (rNames f 2 1 n 0) s = some c → inOrder c false →
    (c.act = [] → Completes i s c (now c)) ∧
    (c.act ≠ [] → found n (some .f32) → (∀ l ∈ c.act, (pas l).length = (taps g n l).length ∧ ∀ t x, (t, x) ∈ List.zip (taps g n l) (pas l) →
        c.s.check c.who .read ((d l).base + (d l).texelOff t.level t.i t.j) = .ok x ∧ pkgOf x = c.s.pkg.toNat ∧ (∀ k < 16, pkgOf (x + k) = c.s.pkg.toNat) ∧
        ∀ z ∈ (c.s.place x).granules (texelSize (d l).fmt), c.s.engineOwned z = false) →
      LaneReads i s c [.trav] 15 [f.d.toNat, f.d.toNat + 1] .general (now c) fun l =>
        match texTaps g (d l) (words n l) with
        | none => ⟨[(f.d.toNat, f32Row nanPair), (f.d.toNat + 1, f32Row nanPair)], [], 0⟩
        | some _ =>
          let px := (List.zip (taps g n l) (pas l)).map fun (t, x) => (t, texelChannels (d l).fmt (c.s.readPlace (c.s.place x) (texelSize (d l).fmt)).1)
          let ch (k : Nat) : Nat := (roundChannel (d l).fmt (sumFV (px.map fun (t, cs) => (t.wt.dyadic.mul (cs.getD k .nan)).1)).1).1
          let bad := (pas l).any fun x => poisAt c.s x (texelSize (d l).fmt)
          ⟨[(f.d.toNat, ⟨pairWord (ch 0) (ch 1), .f32, bad⟩), (f.d.toNat + 1, ⟨pairWord (ch 2) (ch 3), .f32, bad⟩)], [], 0⟩)
  let query (i : Instr) (n : Nat) (tag : Option Tag) (row : Nat → Row) : Prop := issuing i (rNames f 1 1 n 0) s = some c → inOrder c false →
    (c.act = [] → Completes i s c (now c)) ∧
    (c.act ≠ [] → found n tag → LaneReads i s c [.trav] 15 [f.d.toNat] .general (now c) fun l => ⟨[(f.d.toNat, row l)], [], 0⟩)
  sample (.texLod f) false 2 ∧ sample (.texGrad f) true 3 ∧
  query (.texqSize f) 1 none (fun l =>
    let k := elem 32 0 ((words 1 l).getD 0 0)
    ⟨if k < (d l).levels then pairWord (max 1 ((d l).w / 2 ^ k)) (max 1 ((d l).h / 2 ^ k)) else 0, .raw, false⟩) ∧
  query (.texqLod f) 3 (some .f32) fun l =>
    let lam := gradLod (d l) (f32s ((words 3 l).drop 1))
    ⟨pairWord (rne fmtF32 false (clampLod (d l) lam)) (rne fmtF32 false lam), .f32, false⟩) ∧
  (∀ (d : TexDesc) (g : Bool) (ws : List Word) (ts : List Tap),
  1 ≤ d.w → 1 ≤ d.h → 1 ≤ d.levels → d.levels ≤ 15 → d.filter < 3 → d.addrU < 3 → d.addrV < 3 → texTaps g d ws = some ts →
  (∀ t ∈ ts, t.level < d.levels ∧ t.i < max 1 (d.w / 2 ^ t.level) ∧ t.j < max 1 (d.h / 2 ^ t.level) ∧ 0 ≤ rat t.wt) ∧
  (ts.map fun t => rat t.wt).sum = 1 ∧
  ∀ l i j i' j', i < d.wl l → j < d.hl l → i' < d.wl l → j' < d.hl l → (i, j) ≠ (i', j') →
    d.texelOff l i j + texelSize d.fmt ≤ d.texelOff l i' j' ∨ d.texelOff l i' j' + texelSize d.fmt ≤ d.texelOff l i j)

/-- R233, R235: `triadj` writes its fifteen derivatives, rounded, into eight registers, with zeros and NV where the determinant is zero and NaN and NV
where an operand is not finite; `edgeq` gives the lowest active lanes the oldest edge records and advances the queue's head. R234: `texadj` sends, for
each texel of nonzero weight and channel, one scatter addition of the rounded product of gradient and weight to the gradient texture, and holds the
derivative row. The model's own choices here: exact fractions with one rounding (assumption 54), the faults of an `edgeq` descriptor (assumption 55),
and OLDEST of a queue (assumption 57). -/
def Obligations.AdjointAndEdgeResults : Prop :=
  ((∀ (s : State) (c : Ctx) (f : VF),
    let xs := c.grp 2 f.a.toNat 3 ++ c.grp 3 f.b.toNat 5 ++ c.grp 4 f.c.toNat 2
    let out (l : Nat) := triadjLane (f32s (valsAt (c.grp 2 f.a.toNat 3) l)) (f32s (valsAt (c.grp 3 f.b.toNat 5) l)) (f32s (valsAt (c.grp 4 f.c.toNat 2) l))
    issuing (.triadj f) (rNames f 8 3 5 2) s = some c → clean c (asF32 xs) →
    Completes (.triadj f) s c (((List.range 8).foldl (fun o k => o.write c (f.d.toNat + k) (fun l =>
      ⟨pairWord ((out l).1.getD (2 * k) 0) ((out l).1.getD (2 * k + 1) 0), .f32, false⟩) (c.shapeOf .plain xs)) (now c)).orFlags c fun l => (out l).2)) ∧
  (∀ (ray vs gs : List FV), (fracs? ray = none ∨ fracs? (vs.take 9) = none ∨ fracs? (gs.take 3) = none →
      triadjLane ray vs gs = (List.replicate 15 0x7FC00000, flNV)) ∧
    ∀ r p g, fracs? ray = some r → fracs? (vs.take 9) = some p → fracs? (gs.take 3) = some g →
      let m := meet (v3At r 0) (v3At r 3) (v3At p 0) (v3At p 3) (v3At p 6)
      (m.det.num = 0 → triadjLane ray vs gs = (List.replicate 15 0, flNV)) ∧
      (m.det.num ≠ 0 → (triadjLane ray vs gs).1 = (m.grad (g.getD 0 ⟨0, 1⟩) (g.getD 1 ⟨0, 1⟩) (g.getD 2 ⟨0, 1⟩)).map fun x => x.toF32.1)) ∧
  ∀ (s : State) (c : Ctx) (f : VF) (pa : Nat) (q : QDesc) (rp : Nat → Nat),
    let a := c.plain 2 f.a.toNat
    let p : BitVec 3 := f.c.extractLsb' 0 3
    let n := min (q.commit - q.head) c.act.length
    let takers := c.act.take n
    issuing (.edgeq f) (rNames f 8 1 0 0) s = some c → inOrder c false →
    (c.act = [] → Completes (.edgeq f) s c (now c)) ∧
    (c.act ≠ [] → (a.row c.low).poison = false → c.edgeQueue a = .ok (pa, q) →
      (∀ l k, (l, k) ∈ takers.zipIdx → c.s.check c.who .read (q.base + (q.head + k) % q.cap * 64) = .ok (rp l) ∧ ∀ j < 64, pkgOf (rp l + j) = c.s.pkg.toNat) →
      (∀ x ∈ pa :: takers.map rp, ∀ g ∈ (c.s.place x).granules 64, c.s.engineOwned g = false) →
      Does (.edgeq f) s fun t => ∃ op : Op, op.classes = [.tape] ∧ op.kind = .load ∧
        After c t (((now c).onThreads c fun l x => if l ∈ takers then x else x.setPred p false).issues op t |>.onState fun u => { u with
          mem := t.mem, home := t.home, poison := t.poison, cores := t.cores,
          commits := if n = 0 then s.commits else s.commits.filter fun x => !(x.1 == pa && x.2.1 ≤ q.head + n) }) ∧
        (∀ l v, ⟨l, p, v⟩ ∈ op.preds ↔ l ∈ takers ∧ v = true) ∧
        (∀ k < 8, ∀ l x, (∃ h ∈ op.writes, h.reg = f.d.toNat + k ∧ (l, x) ∈ h.rows) ↔ l ∈ takers ∧
          let bs := t.readPlace (t.place (rp l)) 64
          x = ⟨BitVec.ofNat 64 (leNat ((bs.1.drop (8 * k)).take 8)), .raw, bs.2⟩) ∧
        (n = 0 → ∀ x, placeByte t x = placeByte s x) ∧
        (memWf s → 0 < n →
          let oldest := (c.s.setQ pa 2 (q.head + n)).place (pa + 56)
          let time := s.commitTime pa (q.head + n)
          (∀ k < 8, placeByte t ((c.s.place (pa + 16)).add k) = BitVec.ofNat 8 ((q.head + n) / 2 ^ (8 * k))) ∧
          (∀ z, time = some z → ∀ k < 8, placeByte t (oldest.add k) = BitVec.ofNat 8 (z.toNat / 2 ^ (8 * k))) ∧
          ∀ x, (∀ k < 8, (c.s.place (pa + 16)).add k ≠ x) → time = none ∨ (∀ k < 8, oldest.add k ≠ x) → placeByte t x = placeByte s x))) ∧
  (∀ (s : State) (c : Ctx) (f : VF) (g : Bool) (l : Nat) (pa : Nat) (pas gpas : List Nat),
  let i : Instr := if g then .texadjGrad f else .texadjLod f
  let n := if g then 3 else 2
  let a := c.plain 2 f.a.toNat
  let a1 := c.plain 2 (f.a.toNat + 1)
  let xs := c.grp 3 f.b.toNat n
  let ys := c.grp 4 f.c.toNat 2
  let ds := (c.s.readPlace (c.s.place pa) 32).1
  let d := texDesc (leNat (ds.take 8)) (leNat ((ds.drop 8).take 8))
  let taps := (texTaps g d (valsAt xs l)).getD []
  let sc := texadjScatter d (a1.val l) (f32s (valsAt ys l)) taps
  issuing i (rNames f 1 2 n 2) s = some c → inOrder c false →
  (c.act = [] → Completes i s c (now c)) ∧
  (c.act = [l] → accessOk c ⟨[a], (a1, none) :: asF32 (xs ++ ys), addrOf a none 0, .read, 32, 2⟩ 32 (fun _ => pa) →
    poisAt c.s pa 32 = false → texDescOk ds = true → d.base % 256 = 0 → c.f0.ops.all (fun o => o.kind.answers == []) = true →
    pas.length = taps.length → (∀ t x, (t, x) ∈ List.zip taps pas →
      c.s.check c.who .read (d.base + d.texelOff t.level t.i t.j) = .ok x ∧ (∀ k < 16, pkgOf (x + k) = c.s.pkg.toNat) ∧
      ∀ z ∈ (c.s.place x).granules (texelSize d.fmt), c.s.engineOwned z = false) →
    gpas.length = sc.length → (∀ y x, (y, x) ∈ List.zip sc gpas → y.1 % 4 = 0 ∧ c.s.scatCheck c.who c.lr y.1 4 = .ok x) →
    Does i s fun t => sameMemory s t ∧ sameRegs s t ∧
      (t.adds.map fun x => (x.launch, x.ctx, x.target, x.value, x.pois)) = (s.adds.map fun x => (x.launch, x.ctx, x.target, x.value, x.pois)) ++
        ((List.zip gpas sc).map fun (p, y) => (c.t.launch, c.t.ctx, p, BitVec.ofNat 32 y.2.1, false)) ∧
      ∃ F op, t.fibre? c.r = some F ∧ F.ops.getLast? = some op ∧ op.kind = .load ∧ op.classes = [.trav] ∧ ∃ h x, op.writes = [h] ∧
        h.reg = f.d.toNat ∧ h.rows = [(l, x)] ∧ x.tag = .f32))

/-- R249, R250, R276: `exptri` puts a triangle of every active lane behind its core's input buffer, of which as many as it has room for enter it; it
completes with its last triangle; the rasteriser takes the next triangle of the core whose turn it is, and writes its items, one reservation for up to
64 of them; with a triangle whose items have no space it waits, and takes no other; a queue that fails its checks ends the context. R251, R252, R254:
a triangle gives each pixel of its viewport at most one item, in row-major order, of 32 bytes; coverage does not depend on which way round a polygon
is given, and a pixel centre on no edge is covered exactly when the polygon winds around it. The model's own choices here: the arithmetic of positions
and items, and the values that R250 to R254 do not state (assumption 54). -/
def Obligations.TrianglesAndPixelCoverage : Prop :=
  ((∀ (s : State) (c : Ctx) (f : VF) (tri : Nat → Tri) (rd : Reader),
    let vs := c.grp 2 f.a.toNat 6
    let b := c.plain 3 f.b.toNat
    let a := c.plain 4 f.c.toNat
    let ranges := c.act.flatMap fun l => c.s.pieces c.t.ctx (a.val l).toNat 32
    issuing (.exptri f) (rNames f 0 6 1 1) s = some c → inOrder c false →
    (c.act = [] → Completes (.exptri f) s c (now c)) ∧
    (c.act ≠ [] → (c.s.core c.core).rasterIn.length < 16 → c.core < s.cores.length → (c.s.core c.core).rasterWait = [] →
      (∀ l ∈ c.act, c.blockLane (asF32 vs ++ untagged [b]) a l = .ok ()) → c.granuleCheck (ranges.map fun x => (c.s.place x.1, x.2)) = .ok () →
      c.needNow (.exptri f) ranges = .ok rd → (∀ l ∈ c.act, c.triLane rd vs b a l = .ok (tri l)) →
      Does (.exptri f) s fun t => sameMemory s t ∧ sameRegs s t ∧ (∀ l ∈ c.bundle, continues c t l) ∧
        let room := if (c.s.cluster (c.core / 4)).raster = [] then 16 - (c.s.core c.core).rasterIn.length else 0
        let all := c.act.map tri
        (t.core c.core).rasterIn = (c.s.core c.core).rasterIn ++ all.take room ∧
        (t.core c.core).rasterWait.flatMap (·.tris) = all.drop room ∧
        ∀ G, t.fibre? c.r = some G → ∀ o ∈ G.ops, o.id = c.s.fresh → o.done = true ∨ room < all.length)) ∧
  (∀ (s : State) (core : Nat) (b : TriBatch) (rest : List TriBatch) (x : Tri) (xs : List Tri),
    (s.core core).rasterWait = b :: rest → b.tris = x :: xs → (s.core core).rasterIn.length < 16 → (s.cluster (core / 4)).raster = [] →
    Does (.rasterBufferEntry core) s fun t =>
      sameMemory s t ∧ sameRegs s t ∧ (t.core core).rasterIn = (s.core core).rasterIn ++ [x] ∧
      (t.core core).rasterWait = (if xs = [] then rest else { b with tris := xs } :: rest)) ∧
  ∀ (s : State) (k : Nat) (j : Nat) (x : Tri) (xs : List Tri), (s.cluster k).raster = [] → j < 4 →
    (s.core (4 * k + j)).rasterIn = x :: xs → k < s.clusters.length →
    (∀ i < 4, ((s.cluster k).rasterNext + i) % 4 = j → ∀ i' < i, (s.core (4 * k + ((s.cluster k).rasterNext + i') % 4)).rasterIn = []) →
    let u := (s.modCore (4 * k + j) fun c => { c with rasterIn := xs }).modCluster k fun c => { c with
      rasterNext := (j + 1) % 4
      raster := triChunks s.tick x }
    let queue (y : RasterChunk) := u.queueCheck ⟨y.ctx, 999, 0⟩ y.desc.toNat (if y.size == 2 then 0 else 1) y.size
    ∃ t, exec (.rasteriseTriangle k) s = .next t ∧
      ((∀ y ∈ triChunks s.tick x, ∃ pa q, queue y = .ok (pa, q) ∧ q.cap - (q.tail - q.head) < y.items.length) → sameMemory s t ∧ sameRegs s t ∧
        (t.core (4 * k + j)).rasterIn = xs ∧ (t.cluster k).rasterNext = (j + 1) % 4 ∧ (t.cluster k).raster = triChunks s.tick x) ∧
      ∀ y, triChunks s.tick x = [y] →
        (∀ pa q v, queue y = .ok (pa, q) → y.items.length ≤ q.cap - (q.tail - q.head) → u.ownedOf (u.itemPlaces y.ctx q y.items.length) = [] →
          u.reserve y.ctx (128 + k / 16) pa q y.items none = some v → t.mem = v.mem ∧ t.fab = v.fab ∧ sameRegs s t ∧
            (t.core (4 * k + j)).rasterIn = xs ∧ (t.cluster k).rasterNext = (j + 1) % 4 ∧ (t.cluster k).raster = [] ∧
            t.reservs = s.reservs ++ [⟨s.fresh, pa, q.tail, y.items.length, none⟩]) ∧
        (∀ e, queue y = .error e → s.mbox.held.length < 1023 → (s.ctx y.ctx).dying = false → y.ctx < s.ctxs.length →
          Terminated y.ctx (termWord y.ctx 6 0 0) (u.event 2 false (clusterRecord s.time y.ctx k 0 0 2 2)) t)) ∧
  ((∀ (tick : Nat) (t : Tri),
    let pix (b : List Byte) : Nat × Nat := (leNat ((b.drop 2).take 2), leNat (b.take 2))
    let ps := (pixelItems tick t).map pix
    t.vpw ≤ 16384 → t.vph ≤ 16384 →
    (∀ b ∈ pixelItems tick t, b.length = 32 ∧ (pix b).2 < t.vpw ∧ (pix b).1 < t.vph ∧ leNat ((b.drop 16).take 8) = t.payload.toNat) ∧
    ps.Pairwise fun x y => x.1 < y.1 ∨ (x.1 = y.1 ∧ x.2 < y.2)) ∧
  ∀ (ps : List PVert) (x : Int × Int), polyArea ps ≠ 0 →
    (covers (segments ps) x = covers (segments ps.reverse) x) ∧
    ((∀ g ∈ segments ps, onSeg g x = false) → (covers (segments ps) x = true ↔ ((segments ps).map fun g => winding g x).sum ≠ 0)))

/-- R261 to R263: a `qpush` whose queue has space reserves its items at TAIL and writes them in lane order; COMMIT follows in TAIL order, with the
fibre's completion; a `qpush` without space parks, and reserves once there is space, with the rows that its threads hold then; one whose queue no
longer passes its checks issues again; the queries of a queue. The model's own choices here: OLDEST of a queue (assumption 57), and that software's
stores to its fields count (assumption 124). -/
def Obligations.QueuesReserveAndCommit : Prop :=
  (∀ (s : State) (c : Ctx) (sub : BitVec 4) (f : MF) (pa : Nat) (q : QDesc),
    let a := c.src 2 f.a 0 0
    let data := c.grp 3 f.b.toNat (2 ^ sub.toNat)
    let n := c.act.length
    issuing (.qpush sub f) (qpushNames sub f) s = some c → inOrder c false →
    (c.act = [] → Completes (.qpush sub f) s c (now c)) ∧
    (c.act ≠ [] → (a.row c.low).poison = false → clean c (untagged data) → c.s.queueCheck c.who (a.val c.low).toNat 0 sub.toNat = .ok (pa, q) →
      (∀ g ∈ (c.s.place pa).granules 64, c.s.engineOwned g = false) →
      (n ≤ q.cap - (q.tail - q.head) → c.s.ownedOf (c.s.itemPlaces c.t.ctx q n) = [] → ∀ v, (((c.s.newId.2.cacheAll c.t.ctx [(a.val c.low).toNat]).addOp c.r [.st] (.queue c.s.fresh) f.la.toNat
            [] [] []).2).reserve c.t.ctx c.core pa q (c.act.map (itemOf data)) (some (c.r, c.s.fresh + 1)) = some v →
        Does (.qpush sub f) s fun t => t.mem = v.mem ∧ t.cores = v.cores ∧ t.fab = v.fab ∧
        sameRegs s t ∧ t.reservs = s.reservs ++ [⟨c.s.fresh + 2, pa, q.tail, n, some (c.r, c.s.fresh + 1)⟩] ∧ (∀ l ∈ c.bundle, continues c t l) ∧
        ∃ F op, t.fibre? c.r = some F ∧ op ∈ F.ops ∧ op.id = c.s.fresh + 1 ∧ op.classes = [.st] ∧ op.kind = .queue c.s.fresh ∧ op.done = false ∧
          opens c f.la.toNat op) ∧
      (q.cap - (q.tail - q.head) < n → Does (.qpush sub f) s fun t => sameMemory s t ∧ sameRegs s t ∧
        (∀ l ∈ c.act, (threadAt t c.r l).st = .parked (.queue (a.val c.low) c.s.fresh) (.qpush sub f) s.time) ∧
        ∀ l ∈ c.bundle, l ∉ c.act → continues c t l))) ∧
  (∀ (s : State) (ctx unit pa : Nat) (q : QDesc) (x : List Byte) (owner : Option (FibreRef × Nat)),
    let u := s.newId.2.setQ pa 3 (q.tail + 1)
    u.isFar (u.pa ctx (q.itemVa q.tail)) = false → s.reserve ctx unit pa q [x] owner =
      some (({ u with reservs := u.reservs ++ [⟨s.fresh, pa, q.tail, 1, owner⟩] } : State).store ctx (q.itemVa q.tail) x false)) ∧
  (∀ (s : State) (k : Nat) (x : Reservation), s.reservs[k]? = some x → (s.qdesc x.desc).commit = x.first → s.itemsWritten x = true → memWf s →
    (∀ j < 64, pkgOf (x.desc + j) = s.pkg.toNat) → Does (.qpushCommit k) s fun t => sameRegs s t ∧ t.reservs = s.reservs.eraseIdx k ∧
      t.commits = s.commits ++ [(x.desc, x.first + x.count, s.time)] ∧
      (∀ j < 8, placeByte t ((s.place (x.desc + 32)).add j) = BitVec.ofNat 8 ((x.first + x.count) / 2 ^ (8 * j))) ∧
      ∀ r id, x.owner = some (r, id) → ∀ G, t.fibre? r = some G → ∀ o ∈ G.ops, o.id = id → o.done = true) ∧
  (∀ (s : State) (r : FibreRef) (T : Team) (F : Fibre) (g : ParkGroup) (sub : BitVec 4) (f : MF) (o : Op), s.team? r.team = some T →
    T.fibre? r.fid = some F → F.parkGroups = [g] → g.i = .qpush sub f → (F.ops.find? fun o => o.kind == .queue g.grp) = some o →
    let core := T.coreOf r.fid
    let check := s.queueCheck ⟨T.ctx, core, T.uid⟩ g.desc.toNat 0 sub.toNat
    let item (l : Nat) : List Byte := (List.range (2 ^ sub.toNat)).flatMap fun j => (List.range 8).map fun k =>
      ((T.reg F (f.b.toNat + j)).row l).val.extractLsb' (8 * k) 8
    (∀ pa q v, check = .ok (pa, q) → g.lanes.length ≤ q.cap - (q.tail - q.head) → s.ownedOf (s.itemPlaces T.ctx q g.lanes.length) = [] →
      s.reserve T.ctx core pa q (g.lanes.map item) (some (r, o.id)) = some v → Does (.qpushUnpark r) s fun t =>
        t.mem = v.mem ∧ t.cores = v.cores ∧ t.fab = v.fab ∧ sameRegs s t ∧
        t.reservs = s.reservs ++ [⟨s.fresh, pa, q.tail, g.lanes.length, some (r, o.id)⟩] ∧
        ∀ l ∈ g.lanes, (threadAt t r l).st = .waiting ∧ (threadAt t r l).pc = (threadAt s r l).nxt) ∧
    (∀ e, check = .error e → Does (.qpushUnpark r) s fun t => sameMemory s t ∧ sameRegs s t ∧
      (∀ l ∈ g.lanes, (threadAt t r l).st = .waiting ∧ (threadAt t r l).pc = (threadAt s r l).pc) ∧
      ∃ G, t.fibre? r = some G ∧ ∀ x ∈ G.ops, x.id ≠ o.id)) ∧
  ∀ (s : State) (c : Ctx) (f : SF) (pa : Nat → Nat),
    let a := c.plain 2 f.a.toNat
    let q (l : Nat) : QDesc := c.s.qdesc (pa l)
    let fills (i : Instr) (v : QDesc → Nat) : Prop := issuing i (sNames f true true) s = some c → inOrder c false →
      (∀ l ∈ c.act, ∀ j < 64, pkgOf (pa l + j) = c.s.pkg.toNat) → c.f0.ops.all (fun o => o.kind.answers == []) = true →
      accessOk c ⟨[a], [], addrOf a none 0, .read, 64, 2⟩ 64 pa → ∃ tl, Completes i s c
        (((now c).write c f.d.toNat (fun l => ⟨BitVec.ofNat 64 (v (q l)), .raw, poisAt c.s (pa l) 64⟩)
          (if ∀ l ∈ c.act, addrOf a none 0 l = addrOf a none 0 c.low then .uniform else .general)).onState fun u => { u with tlb := tl })
    (issuing (.qinfoRange f) ⟨group 46 f.d.toNat 2, [], f.g⟩ s = some c → Completes (.qinfoRange f) s c
      (((now c).write c f.d.toNat (fun _ => ⟨BitVec.ofNat 64 c.t.qrange.1, .raw, false⟩) .uniform).write c (f.d.toNat + 1)
        (fun _ => ⟨BitVec.ofNat 64 c.t.qrange.2, .raw, false⟩) .uniform)) ∧
    fills (.qinfoFill f) (fun q => q.commit - q.head) ∧ fills (.qinfoSpace f) fun q => q.cap - (q.tail - q.head)

/-- R269 to R274: a message is appended to a queue with room and taken from the head of a queue that holds one, with its header, its rows lane by lane
and a predicate for lanes that get one; the `.nb` forms tell that they could not; the others park, and are served by the port later. The port serves
the cores of a cluster that send in turn: an `msnd` that is not next waits. The model's own choices here: the fault of a queue outside QMASK
(assumption 56), and the first turn of the port (assumption 106). -/
def Obligations.MessagesAppendAndTake : Prop :=
  (∀ (s : State) (c : Ctx) (sub : BitVec 4) (f : VF),
    let cl := c.core / 4
    let q := c.s.msgQueue cl sub.toNat
    let p : BitVec 3 := f.c.extractLsb' 0 3
    let nb := f.c.getLsbD 3
    let head := (c.plain 3 f.b.toNat).row c.low
    let m : Msg := ⟨c.core % 4, c.f.fid, head.val.extractLsb' 0 32, c.act.length, c.w,
      (List.range c.w).map fun i => if c.act.contains i then some (c.row f.a.toNat i) else none, false⟩
    let parks (i : Instr) : Prop := Does i s fun t => sameMemory s t ∧ sameRegs s t ∧ t.clusters = s.clusters ∧
      (∀ l ∈ c.act, (threadAt t c.r l).st = .parked (.message c.s.fresh) i s.time) ∧ ∀ l ∈ c.bundle, l ∉ c.act → continues c t l
    c.lr.qmask.getLsbD sub.toNat = true → cl < s.clusters.length → sub.toNat < (c.s.cluster cl).queues.length →
    (issuing (.msnd sub f) (rNames f 0 1 1 0) s = some c → (c.act = [] → Completes (.msnd sub f) s c (now c)) ∧
      (c.act ≠ [] → head.poison = false → q.msgs.length < 8 → c.s.portTurn c.core = false → Does (.msnd sub f) s (OnlyMoves s)) ∧
      (c.act ≠ [] → head.poison = false → q.msgs.length < 8 → c.s.portTurn c.core = true → ∃ cs, Completes (.msnd sub f) s c
        ((if nb then (now c).setPred c p (fun _ => true) else now c).onState fun u => { u with clusters := cs }) ∧
        cs = c.s.clusters.modify cl fun k => { k with queues := k.queues.modify sub.toNat (fun x => { x with msgs := x.msgs ++ [m] }), sendNext := (c.core % 4 + 1) % 4 }) ∧
      (c.act ≠ [] → head.poison = false → 8 ≤ q.msgs.length → nb = true → Completes (.msnd sub f) s c ((now c).setPred c p fun _ => false)) ∧
      (c.act ≠ [] → head.poison = false → 8 ≤ q.msgs.length → nb = false → parks (.msnd sub f))) ∧
    (issuing (.mrcv sub f) ⟨group 46 f.d.toNat 2, [], f.g⟩ s = some c → (c.act = [] → Completes (.mrcv sub f) s c (now c)) ∧
      (c.act ≠ [] → q.msgs = [] → nb = true → Completes (.mrcv sub f) s c
        (((now c).write c (f.d.toNat + 1) (fun _ => ⟨0, .raw, false⟩) .uniform).setPred c p fun _ => false)) ∧
      (c.act ≠ [] → q.msgs = [] → nb = false → parks (.mrcv sub f)) ∧
      ∀ x rest, c.act ≠ [] → q.msgs = x :: rest → Does (.mrcv sub f) s fun t => sameMemory s t ∧ (t.msgQueue cl sub.toNat).msgs = rest ∧
        (∀ l ∈ c.bundle, continues c t l) ∧
        (∀ l ∈ c.act, (match x.rows.getD l none with
          | some y => rowAt t c.r f.d.toNat l = { y with poison := y.poison || x.poison }
          | none => rowAt t c.r f.d.toNat l = c.row f.d.toNat l) ∧
          (p ≠ 7 → (threadAt t c.r l).pred p = (x.rows.getD l none).isSome) ∧
          rowAt t c.r (f.d.toNat + 1) l = ⟨BitVec.ofNat 64 (x.tag.toNat * 2 ^ 32 + x.fid % 128 * 2 ^ 16 + x.core * 2 ^ 8 + x.count), .raw, x.poison⟩) ∧
        ∀ n l, (n ≠ f.d.toNat ∧ n ≠ f.d.toNat + 1) ∨ l ∉ c.act → rowAt t c.r n l = c.row n l)) ∧
  (∀ (s : State) (r : FibreRef) (T : Team) (F : Fibre) (g : ParkGroup) (q : Nat) (v : VF), s.team? r.team = some T → T.fibre? r.fid = some F →
    let core := T.coreOf r.fid
    F.senders.filter (fun x => (s.msgQueue (core / 4) x.2.1).msgs.length < 8) = [(g, q, v)] → s.portTurn core = true →
    Does (.msndUnpark r) s fun t => sameMemory s t ∧ sameRegs s t ∧ (∀ l ∈ g.lanes, (threadAt t r l).st = .waiting ∧ (threadAt t r l).pc = (threadAt s r l).nxt) ∧
      (core / 4 < s.clusters.length → q < (s.cluster (core / 4)).queues.length → (t.msgQueue (core / 4) q).msgs = (s.msgQueue (core / 4) q).msgs ++
        [⟨core % 4, r.fid, ((T.reg F v.b.toNat).row (g.lanes.headD 0)).val.extractLsb' 0 32, g.lanes.length, F.width,
          (List.range F.width).map fun i => if i ∈ g.lanes then some ((T.reg F v.a.toNat).row i) else none, false⟩])) ∧
  (∀ (s : State) (core : Nat), s.portTurn core = true ↔
    ∃ k < 4, ((s.cluster (core / 4)).sendNext + k) % 4 = core % 4 ∧ ∀ j < k, s.sendReady (core / 4 * 4 + ((s.cluster (core / 4)).sendNext + j) % 4) = false) ∧
  ∀ (s : State) (r : FibreRef) (T : Team) (F : Fibre) (g : ParkGroup) (q : Nat) (v : VF) (x : Msg) (rest : List Msg),
    s.team? r.team = some T → T.fibre? r.fid = some F →
    let cl := T.coreOf r.fid / 4
    F.receivers.filter (fun y => !(s.msgQueue cl y.2.1).msgs.isEmpty) = [(g, q, v)] → (s.msgQueue cl q).msgs = x :: rest →
    Does (.mrcvUnpark r) s fun t => sameMemory s t ∧ sameRegs s t ∧ (t.msgQueue cl q).msgs = rest ∧
      (∀ l ∈ g.lanes, (threadAt t r l).st = .waiting ∧ (threadAt t r l).pc = (threadAt s r l).nxt) ∧
      ∃ G, t.fibre? r = some G ∧ ∀ o ∈ G.ops, o.kind = .message g.grp → o.done = true ∧
        o.preds = g.lanes.map (fun l => ⟨l, v.c.extractLsb' 0 3, (x.rows.getD l none).isSome⟩) ∧
        ∃ a b, o.writes = [a, b] ∧ a.reg = v.d.toNat ∧ a.shape = .general ∧ b.reg = v.d.toNat + 1 ∧
          (∀ l y, (l, y) ∈ a.rows ↔ l ∈ g.lanes ∧ ∃ z, x.rows.getD l none = some z ∧ y = { z with poison := z.poison || x.poison }) ∧
          b.rows = g.lanes.map fun l => (l, ⟨BitVec.ofNat 64 (x.tag.toNat * 2 ^ 32 + x.fid % 128 * 2 ^ 16 + x.core * 2 ^ 8 + x.count), .raw, x.poison⟩)

/-- R27, R28, R30, R33: the values that `sget` reads and the shape it gives; `sset` clears named flags of the active threads, or writes a register of
the fibre from the lowest active lane; $tpc and $tmask only in the handler. The model's own choices here: the trap of `sset` of $tpc and $tmask with
every thread guarded off (assumption 104), what $tape counts as a span (assumption 109), and the special registers of a drawn fibre (assumption 114).
-/
def Obligations.SpecialRegisterAccess : Prop := ∀ (s : State) (c : Ctx) (f : SF),
  let th (l : Nat) : Thread := c.f.thread l
  let code := f.imm.toNat
  let a := c.plain 2 f.a.toNat
  let sets (g : Fibre) : Prop := c.act ≠ [] → (a.row c.low).poison = false → Completes (.sset f) s c ((now c).onFibre fun x => { x with
    dphase := g.dphase
    tvec := g.tvec
    tpc := g.tpc
    tmask := g.tmask })
  (issuing (.sget f) (sNames f true false) s = some c → ∃ (v : Nat → Word) (sh : Shape), WritesRow (.sget f) s c f.d .raw sh v ∧
    (sh = match code with
      | 0x00 => if c.f.drawn then .general else .affine ((th 0).tid.setWidth 64) 1
      | 0x02 => .affine 0 1
      | 0x0C | 0x12 | 0x13 => .general
      | _ => .uniform) ∧
    ∀ l ∈ c.act, match code with
      | 0x00 => (v l).toNat = (th l).tid.toNat
      | 0x01 => v l = BitVec.ofNat 64 (c.lr.width * c.lr.fibres)
      | 0x02 => v l = BitVec.ofNat 64 l
      | 0x03 => v l = BitVec.ofNat 64 c.r.fid
      | 0x04 => (v l).toNat = c.t.index.toNat
      | 0x05 => (v l).toNat = c.lr.nteam % 2 ^ 32
      | 0x06 => (v l).toNat = c.t.core % 64
      | 0x07 => (v l).toNat = c.t.core % 64 / 4
      | 0x08 => v l = BitVec.ofNat 64 (c.t.core / 64)
      | 0x09 => (v l).toNat = s.pkg.toNat
      | 0x0A => v l = s.time
      | 0x0B => ∀ k < 64, (v l).getLsbD k = true ↔ k ∈ c.bundle
      | 0x0C => v l = (th l).flags
      | 0x0D => (v l).toNat = c.f.dphase.toNat
      | 0x0E => v l = c.f.tvec
      | 0x0F => v l = c.f.frec.w0
      | 0x10 => v l = c.f.tpc
      | 0x11 => v l = c.f.tmask
      | 0x12 => v l = tapeWord (s.area? c.lr) c.t.index (th l).tid
      | _ => v l = (th l).rcpc) ∧
  (issuing (.sset f) (sNames f false true) s = some c →
    (code = 0x0C → clean c [(a, none)] → Completes (.sset f) s c ((now c).onThreads c fun l x => { x with flags := x.flags &&& ~~~a.val l &&& 0x3F })) ∧
    (code = 0x0D → sets { c.f with dphase := BitVec.ofNat 5 (a.val c.low).toNat }) ∧
    (code = 0x0E → sets { c.f with tvec := a.val c.low }) ∧
    (c.f.handler.isSome = true → code = 0x10 → sets { c.f with tpc := a.val c.low }) ∧
    (c.f.handler.isSome = true → code = 0x11 → sets { c.f with tmask := a.val c.low }) ∧
    (c.f.handler = none → code = 0x10 ∨ code = 0x11 → Traps (.sset f) s c c.is.addr ⟨0x12, 0, 0, c.is.word.toNat / 2 ^ 32, 0, c.amask⟩) ∧
    (ssetCode code = false → Traps (.sset f) s c c.is.addr ⟨0x01, 0, 20, c.is.word.toNat / 2 ^ 32, 0, c.amask⟩))

/-- R335, R329: `trap` and `brk` with an active thread raise 0x10 and 0x11 with imm20 as INFO and the stop point after them; without one they do
nothing. -/
def Obligations.TrapAndBreakRaise : Prop := ∀ (s : State) (c : Ctx) (f : SF),
  let idle (i : Instr) : Prop := c.act = [] → Completes i s c (now c)
  (issuing (.trap f) (sNames f false false) s = some c → idle (.trap f) ∧
    (c.act ≠ [] → Traps (.trap f) s c c.is.after.1 ⟨0x10, 0, 0, f.imm.toNat, 0, c.amask⟩)) ∧
  (issuing (.brk f) (sNames f false false) s = some c → idle (.brk f) ∧
    (c.act ≠ [] → Traps (.brk f) s c c.is.after.1 ⟨0x11, 0, 0, f.imm.toNat, 0, c.amask⟩))

/-- R338 to R340, R359: `tinv` reads the fault record; `cop` drops cached translations of its context and is privileged; `halt` terminates the
context. The model's own choices here: `cop` without an active thread does nothing (assumption 104). -/
def Obligations.SystemInstructionsAct : Prop := ∀ (s : State) (c : Ctx) (f : SF),
  let a := c.plain 2 f.a.toNat
  let idle (i : Instr) : Prop := c.act = [] → Completes i s c (now c)
  let privileged (i : Instr) : Prop := Traps i s c c.is.addr ⟨0x12, 0, 0, c.is.word.toNat / 2 ^ 32, 0, c.amask⟩
  let keeps (i : Instr) (p : TlbEntry → Bool) : Prop := Completes i s c ((now c).onState fun u => { u with tlb := u.tlb.filter p })
  (issuing (.tinv f) (sNames f true false) s = some c → WritesRow (.tinv f) s c f.d .raw .uniform fun _ =>
    match f.imm.toNat with
    | 0 => c.f.frec.w0
    | 1 => c.f.frec.w1
    | 2 => c.f.frec.w2
    | _ => c.f.frec.w3) ∧
  (issuing (.copInv f) (sNames f false true) s = some c → idle (.copInv f) ∧ (c.act ≠ [] →
    ((s.ctx c.t.ctx).sys = true → (a.row c.low).poison = false → keeps (.copInv f) fun e =>
      e.ctx != c.t.ctx || e.vpage * 4096 / e.size != (a.val c.low).toNat / e.size) ∧
    ((s.ctx c.t.ctx).sys = false → privileged (.copInv f)))) ∧
  (issuing (.copInvall f) (sNames f false false) s = some c → idle (.copInvall f) ∧ (c.act ≠ [] →
    ((s.ctx c.t.ctx).sys = true → keeps (.copInvall f) fun e => e.ctx != c.t.ctx) ∧
    ((s.ctx c.t.ctx).sys = false → privileged (.copInvall f)))) ∧
  (issuing (.halt f) (sNames f false true) s = some c → idle (.halt f) ∧
    (c.act ≠ [] → (a.row c.low).poison = false → s.canPost = true → (s.ctx c.t.ctx).dying = false → c.t.ctx < s.ctxs.length →
      Does (.halt f) s (Terminated c.t.ctx (termWord c.t.ctx 5 0 (a.val c.low).toNat) s)))

/-- R336, R337: `tret` of the whole handler path resumes the lanes of $tmask at $tpc, a legal header or an instruction of the stopped clause, ends the
other lanes, and leaves the handler; while a member of the path is elsewhere it waits; outside the handler it is privileged. The model's own choices
here: `tret` without an active thread does nothing (assumption 104). -/
def Obligations.HandlerReturns : Prop := ∀ (s : State) (c : Ctx) (f : SF),
  let x := c.f.tpc
  issuing (.tret f) (sNames f false false) s = some c →
  (c.act = [] → Completes (.tret f) s c (now c)) ∧
  (c.act ≠ [] → c.f.handler = none → Traps (.tret f) s c c.is.addr ⟨0x12, 0, 0, c.is.word.toNat / 2 ^ 32, 0, c.amask⟩) ∧
  ∀ h, c.act ≠ [] → c.f.handler = some h → s.canPost = true → (∀ l ∈ c.bundle, h.lanes.getLsbD l = true) → s.filedFrom c.r = [] →
    (∀ T ∈ c.s.teams, T.uid = c.r.team → ∀ F ∈ T.fibres, ∀ x ∈ F.threads, x.atRendezvous = none) →
    let n := s.loadWord c.t.ctx h.clause.toNat / 2 ^ 56 % 16 + 1
    let inside := x.toNat % 8 = 0 ∧ h.clause.toNat < x.toNat ∧ x.toNat ≤ h.clause.toNat + 8 * n
    ((∀ l ∈ c.live, h.lanes.getLsbD l = true → l ∈ c.act) → inside ∨ targetOk c.lr x = true → Does (.tret f) s fun t =>
      sameMemory s t ∧ sameRegs s t ∧ ((∃ l ∈ c.live, l ∉ c.act ∨ c.f.tmask.getLsbD l = true) → (t.fibre? c.r).map (·.handler) = some none) ∧
      ∀ l ∈ c.act, if c.f.tmask.getLsbD l = true
        then (threadAt t c.r l).st = .waiting ∧ (threadAt t c.r l).pc = x ∧ (inside ↔ (threadAt t c.r l).clause = some h.clause) ∧
          (¬inside → (threadAt t c.r l).clause = none)
        else (threadAt t c.r l).st = .exited) ∧
    ((∃ l ∈ c.live, h.lanes.getLsbD l = true ∧ l ∉ c.act) → Does (.tret f) s fun t => sameMemory s t ∧ sameRegs s t ∧
      (t.fibre? c.r).map (·.handler) = some (some h) ∧ (∀ l ∈ c.bundle, l ∉ c.act → goesOn c (threadAt t c.r l)) ∧
      ∀ l ∈ c.act, (threadAt t c.r l).st = .blocked (.rendezvous h.lanes) (.tret f) s.time ∧ (threadAt t c.r l).pc = c.is.addr)

/-- R37, R40, R67, R70, R72, R176: the path that is served, the fetch of its clause, the header checks, the wait mask, and the bundle that then
issues; a failed header check is an exception at the header. The model's own choices here: what counts as an issue of the fibre (assumption 15), the
order of schedulers (assumption 1), and whose Y bit a path obeys at a wait or a fetch miss (assumption 119). -/
def Obligations.ClausesAreServed : Prop :=
  (∀ (s : State) (r : FibreRef) (T : Team) (F : Fibre) (p : Path) (h : Nat) (ws : List Word),
    let i : Instr := if F.ageing then .pathAgeing r else .clauseIssue r
    let hdr := p.2.getD p.1
    let lanes := F.pathLanes p
    let waits : Prop := p.2 = none ∧ (F.atWait lanes = true ∨
      ∃ o ∈ F.ops, (o.done = false ∨ ∃ g, o.kind = .message g) ∧ ∃ k ∈ o.classes, (h / 2 ^ 48 % 256).testBit k.bit = true)
    s.team? r.team = some T → T.fibre? r.fid = some F → F.select = some p → s.serveDue T F = true → F.pending = [] →
    s.fetchClause ⟨T.ctx, T.coreOf r.fid, T.uid⟩ hdr.toNat = .ok (h, ws) →
    (headerCheck h ws = none → ¬waits → F.slot < T.slots.length → Does i s fun t => t = { s with teams := t.teams } ∧ sameRegs s t ∧
      (slotAt t r).holder = r.fid ∧ (slotAt t r).last = s.tick + 1 ∧ ∃ G, t.fibre? r = some G ∧
        G.issue = some ⟨hdr, BitVec.ofNat 32 h, ws, if p.2.isSome then (p.1 - hdr).toNat / 8 - 1 else 0, maskOf lanes, false⟩ ∧ G.issues = F.issues + 1 ∧
        ∀ l, G.thread l = if l ∈ lanes then { F.thread l with st := .issuing, served := F.issues + 1 } else F.thread l) ∧
    (headerCheck h ws = none → waits → Does i s fun t => OnlyMoves s t ∧ t.fibre? r = some F) ∧
    ∀ d, headerCheck h ws = some d → F.handler = none → targetOk (s.recOf T) F.tvec = true → F.ops.any Op.isWindow = false →
      Does i s fun t => t = { s with teams := t.teams } ∧ sameRegs s t ∧ ∃ G, t.fibre? r = some G ∧ G.tpc = hdr ∧ G.tmask = maskOf lanes ∧
        G.frec = ⟨BitVec.ofNat 64 (2 * 2 ^ 56 + 9 * 2 ^ 52 + d * 2 ^ 32 + h / 2 ^ 32), 0, maskOf lanes, s.time⟩ ∧ G.handler = some ⟨hdr, maskOf lanes⟩ ∧
        ∀ l, if l ∈ lanes then atHeader (G.thread l) F.tvec else G.thread l = F.thread l) ∧
  (∀ (F : Fibre) (p : Path), F.select = some p → (∃ l < F.width, F.servable l = true ∧ F.pathOf l = p) ∧ ∀ l < F.width, F.servable l = true →
    if 0 < F.issues ∧ F.issues % 64 = 0 then F.lastServed p ≤ F.lastServed (F.pathOf l) else p.1.toNat ≤ (F.thread l).pc.toNat) ∧
  (∀ (s : State) (w : Who) (hdr h : Nat) (ws : List Word), s.fetchClause w hdr = .ok (h, ws) → h = s.loadWord w.ctx hdr % 2 ^ 64 ∧
    ws.length = h / 2 ^ 56 % 16 + 1 ∧ ∀ k < ws.length, (ws.getD k 0).toNat = s.loadWord w.ctx (hdr + 8 * (k + 1)) % 2 ^ 64) ∧
  (∀ (h : Nat) (ws : List Word), headerCheck h ws = none ↔ ¬(8 ≤ h / 2 ^ 60 ∧ h / 2 ^ 60 ≤ 14) ∧ h / 2 ^ 32 % 2 ^ 15 = 0 ∧
    ∀ k < ws.length, let m := (ws.getD k 0).toNat / 2 ^ 56
      (endsClause m = true → k + 1 = ws.length) ∧ ∀ cl, majorClass m = some cl → h / 2 ^ 60 = 15 ∨ cl = h / 2 ^ 60 ∨ m = 0x7A ∨ endsClause m = true) ∧
  ∀ (s : State) (r : FibreRef) (F : Fibre), s.fibre? r = some F → F.issue = none → F.fetched = false → F.select ≠ none → F.pageWait = none →
    Does (.clauseFetchFill r) s fun t => t = { s with teams := t.teams } ∧ sameRegs s t ∧ t.fibre? r = some { F with fetched := true }

/-- R86, R87, R152: an operation completes; a complete one lands: for the threads that stand at its wait point, in the order of issue, or, without a
wait point, after the older writes to its registers, and its rows and predicates appear in the lanes that are still live. A write without a wait point
that an older window holds too is not overtaken by it. R151, R288, R291: a reply settles lanes of a load with what they read then; an access that was
held at a granule is performed when the granule has returned. The model's own choices here: when a local load reads (assumption 19), rows that an
older window still holds (assumption 111), instructions that are a wait point of the windows they close (assumption 112), and accesses held at a
granule (assumption 115). -/
def Obligations.HeldWritesLand : Prop :=
  (∀ (s : State) (r : FibreRef) (T : Team) (F : Fibre) (o : Op) (k : Nat),
  s.team? r.team = some T → T.fibre? r.fid = some F → F.ops.find? (fun x => x.id == o.id) = some o → F.ops[k]? = some o →
  (F.ops.map (·.id)).Nodup →
  let lands (i : Instr) (L : List Nat) : Prop :=
    let last := o.lanes &&& ~~~maskOf L = 0
    (o.writes.map (·.reg)).Nodup → (∀ h ∈ o.writes, h.reg < T.nregs F ∧ (h.rows.map (·.1)).Nodup) → (o.preds.map fun p => (p.lane, p.pred)).Nodup →
    Does i s fun t => t = { s with teams := t.teams } ∧
      (∀ h ∈ o.writes, ∀ l x, (l, x) ∈ h.rows → l ∈ L → (F.thread l).live = true → rowAt t r h.reg l = x ∧
        (regAt t r h.reg).shape = if last then h.shape else .general) ∧
      (∀ n l, (∀ h ∈ o.writes, h.reg = n → ∀ x, (l, x) ∈ h.rows → l ∉ L ∨ (F.thread l).live = false) → rowAt t r n l = rowAt s r n l) ∧
      (∀ p ∈ o.preds, p.pred ≠ 7 → p.lane ∈ L → (F.thread p.lane).live = true → (threadAt t r p.lane).pred p.pred = p.val) ∧
      (∀ l q, (∀ p ∈ o.preds, p.lane = l → p.pred ≠ q ∨ l ∉ L) → (threadAt t r l).pred q = (F.thread l).pred q) ∧
      (∀ u, u ≠ r.team → t.team? u = s.team? u) ∧
      ∃ G, t.fibre? r = some G ∧
        (last → G.ops.map (·.id) = (F.ops.map (·.id)).erase o.id) ∧ (¬last → G.ops = F.ops.set k (o.without L)) ∧
        (last → ∀ j x, F.ops[j]? = some x → j ≠ k → ∃ y ∈ G.ops, y = { x with writes := y.writes, preds := y.preds } ∧
          (k < j ∨ x.isWindow = false ∨ o.isWindow = true → y = x) ∧
          (j < k → x.isWindow = true → o.isWindow = false → y.writes.length = x.writes.length ∧ ∀ (i : Nat) (h h' : HeldWrite), x.writes[i]? = some h → y.writes[i]? = some h' →
            h'.reg = h.reg ∧ ∀ l z, (l, z) ∈ h'.rows ↔ (l, z) ∈ h.rows ∧ ¬∃ w ∈ o.writes, w.reg = h.reg ∧ ∃ z', (l, z') ∈ w.rows))
  (o.done = true → F.waiters o ≠ [] → (∀ j < k, ∀ x : Op, F.ops[j]? = some x → ∀ l ∈ F.waiters o, l ∉ F.waiters x) →
    lands (.lookaheadLanding r o.id) (F.waiters o)) ∧
  (o.done = true → o.ahead = .async → (∀ h ∈ o.writes, ∀ x ∈ h.rows, x.1 < 64) → (∀ p ∈ o.preds, p.lane < 64) →
    (∀ j < k, ∀ x : Op, F.ops[j]? = some x → x.isWindow = true ∧ x.done = true ∨ ∀ h ∈ x.writes, ∀ h' ∈ o.writes, h.reg ≠ h'.reg) →
    lands (.scoreboardLanding r o.id) (List.range 64)) ∧
  (∀ l, l ∈ F.waiters o ↔ ∃ h n, o.ahead = .window h n ∧ o.lanes.getLsbD l = true ∧ l < F.width ∧ (F.thread l).live = true ∧
    ∀ h' i, F.standing l = some (h', i) → h' ≠ h ∨ n ≤ i) ∧
  (o.done = false → o.kind = .store → Does (.storeAcknowledged r o.id) s fun t => Completed s t r o.id) ∧
  (o.done = false → o.kind = .load → Does (.loadReply r o.id) s fun t => Completed s t r o.id) ∧
  (∀ old, o.done = false → o.kind = .tile old → Does (.tileTransferComplete r o.id) s fun t => Completed s t r o.id)) ∧
  ∀ (s : State) (r : FibreRef) (F : Fibre) (o : Op) (i : Instr) (lanes : List LaneAcc), s.fibre? r = some F →
  F.ops.find? (fun x => x.id == o.id) = some o → o.done = false → (lanes.map (·.lane)).Nodup →
  let holds (x : LaneAcc) (p : Op) : Prop := ∀ ty f, i = .ld ty f → pkgOf x.pa = s.pkg.toNat → ∀ h ∈ p.writes, h.reg = f.d.toNat → ∀ y, (x.lane, y) ∈ h.rows →
    let n := if ty.isFloat then 8 else ty.bits / 8
    y.poison = poisAt s x.pa n ∧ y.tag = (if ty.isFloat then tagOf ty else .raw) ∧
      if ty.isI then y.val.toInt = sext ty.bits (numAt s x.pa n) else y.val.toNat = numAt s x.pa n
  (lanes ≠ [] → o.writes ≠ [] → o.kind = .read i lanes → Does (.loadReply r o.id) s fun t => t = { s with teams := t.teams } ∧ sameRegs s t ∧
    ∃ G p, ∃ now rest : List LaneAcc, t.fibre? r = some G ∧ p ∈ G.ops ∧ p.id = o.id ∧ now ≠ [] ∧
      (∀ x ∈ lanes, if ∃ y ∈ now, y.pa = x.pa then x ∈ now else x ∈ rest) ∧ (∀ x ∈ now ++ rest, x ∈ lanes) ∧
      (rest = [] → p.done = true) ∧ (rest ≠ [] → p.done = false ∧ p.kind = .read i rest) ∧ ∀ x ∈ now, holds x p) ∧
  (o.writes ≠ [] → o.kind = .held i lanes [] → o.classes = [.ld] → heldAtom i lanes = none →
    (∀ x ∈ lanes, ∀ g ∈ (s.place x.pa).granules (heldSpan i), s.engineOwned g = false) →
    Does (.loadReply r o.id) s fun t => t = { s with teams := t.teams } ∧ sameRegs s t ∧
      ∃ G p, t.fibre? r = some G ∧ p ∈ G.ops ∧ p.id = o.id ∧ p.done = true ∧ ∀ x ∈ lanes, holds x p) ∧
  ∀ x : StoreItem, memWf s → o.kind = .held i [] [x] → o.classes = [.st] → heldAtom i [] = none → x.page = none → (∀ p, s.place x.pa ≠ .far p) →
    (∀ g ∈ (s.place x.pa).granules x.bytes.length, s.engineOwned g = false) → Does (.storeAcknowledged r o.id) s fun t => sameRegs s t ∧
      (∀ k < x.bytes.length, placeByte t ((s.place x.pa).add k) = x.bytes.getD k 0) ∧
      (∀ p, (∀ k < x.bytes.length, (s.place x.pa).add k ≠ p) → placeByte t p = placeByte s p) ∧
      ∀ G, t.fibre? r = some G → ∀ p ∈ G.ops, p.id = o.id → p.done = true

/-- R167, R168, R396 to R398: `cpy`, `put` and `get` give an engine an operation, cut into parts that cross no line, which reads remote parts of the
source or writes remote parts of the destination; it reads and writes nothing yet, and the fibre holds an operation that ends with it. A copy, and a
put or get with release order, follows the earlier accesses of its fibre. R392: reads are cut into naturally aligned blocks of 4 to 256 bytes. The
model's own choices here: local parts move in one event (assumption 52), transactions are cut at the lines of both ranges (assumption 58), and the
order in which an engine's failures are found (assumption 71). -/
def Obligations.TransfersStart : Prop :=
  (∀ (s : State) (c : Ctx) (f : MF),
    let starts (i : Instr) (ns : Names) (kind : XferKind) (classes : List WClass) (dst src cnt : Src) (rce : Bool) : Prop :=
      let d := (dst.val c.low).toNat
      let a := (src.val c.low).toNat
      let n := (cnt.val c.low).toNat
      let die := c.core / 64
      let u := c.s.cacheAll c.t.ctx (pagesOf a n ++ pagesOf d n)
      let ps := u.xparts c.t.ctx a d n
      issuing i ns s = some c → inOrder c false →
      (c.act = [] → Completes i s c (now c)) ∧
      (c.act ≠ [] → (dst.row c.low).poison = false → (src.row c.low).poison = false → (cnt.row c.low).poison = false →
        n ≠ 0 → n ≤ 2 ^ 26 → n % 64 = 0 → a % 64 = 0 → d % 64 = 0 → c.s.xferErrs c.who kind d a n rce = [] → die < s.dies.length →
        Does i s fun t => sameMemory s t ∧ sameRegs s t ∧ (∀ l ∈ c.bundle, continues c t l) ∧ ∃ (x : Xfer) (op : Op) (G : Fibre),
          (t.die die).xfers = (s.die die).xfers ++ [x] ∧ t.fibre? c.r = some G ∧ op ∈ G.ops ∧ x.owner = some (c.r, op.id) ∧ op.done = false ∧
          op.classes = classes ∧ op.kind = (if kind = .copy then .copy die x.id else .transfer die x.id) ∧ op.writes = [] ∧ op.preds = [] ∧
          opens c f.la.toNat op ∧ (kind = .copy ∨ f.order.getLsbD 1 = true → ∀ o ∈ c.f.ops, o.accesses = true → o.id ∈ x.waitsFor) ∧
          x.kind = kind ∧ x.ctx = c.t.ctx ∧ x.count = n ∧ x.dst = u.pa c.t.ctx d ∧ x.failed = false ∧
          x.near = ps.filter (fun p => !u.isFar p.src && !u.isFar p.dst) ∧
          x.lce = (!(kind == .copy) && f.off.getLsbD 3) ∧ x.lctr = f.off.toNat / 2 ^ 12 ∧ x.rce = (!(kind == .copy) && f.off.getLsbD 2) ∧
          x.rctr = f.off.toNat / 2 ^ 4 % 256 ∧
          x.todo.map (fun e => (e.kind, e.src, e.dst, e.len)) = (if kind = .put
            then (ps.filter fun p => !u.isFar p.src && u.isFar p.dst).map (fun p => (.write, p.src, p.dst, p.len)) ++
              if x.rce && u.isFar x.dst then [(.increment (BitVec.ofNat 8 x.rctr), 0, x.dst, 8)] else []
            else (ps.filter fun p => u.isFar p.src).flatMap fun p => (readCuts p.src p.len).map fun b => (.read, b.1, p.dst + (b.1 - p.src), b.2)))
    starts (.cpy f) (mNames f 1 false 1) .copy [.st] (c.plain 1 f.d.toNat) (c.src 2 f.a 0 0) (c.src 3 f.b 0 0) false ∧
    starts (.put f) ⟨regName 46 f.d ++ regName 40 f.a ++ regName 34 f.b, [], f.g⟩ .put [.fab] (c.plain 1 f.d.toNat) (c.plain 2 f.a.toNat)
      (c.plain 3 f.b.toNat) (f.off.getLsbD 2) ∧
    starts (.get f) ⟨regName 46 f.d ++ regName 40 f.a ++ regName 34 f.b, [], f.g⟩ .get [.fab] (c.plain 1 f.d.toNat) (c.plain 2 f.a.toNat)
      (c.plain 3 f.b.toNat) (f.off.getLsbD 2)) ∧
  (∀ a n : Nat, 0 < n → a % 256 + n ≤ 256 →
    (∀ x ∈ readCuts a n, x.2 ∈ [4, 8, 16, 32, 64, 128, 256] ∧ x.1 % x.2 = 0) ∧
    ((readCuts a n).map (·.2)).sum = (a + n + 3) / 4 * 4 - a / 4 * 4 ∧
    ∀ (k : Nat) x, (readCuts a n)[k]? = some x → x.1 = a / 4 * 4 + (((readCuts a n).take k).map (·.2)).sum) ∧
  ∀ (s : State) (ctx a d n : Nat), n % 64 = 0 → a % 64 = 0 → d % 64 = 0 →
    let ps := s.xparts ctx a d n
    let before (k : Nat) : Nat := ((ps.take k).map (·.len)).sum
    (ps.map (·.len)).sum = n ∧ ∀ k p, ps[k]? = some p → p.src = s.pa ctx (a + before k) ∧ p.dst = s.pa ctx (d + before k) ∧
      0 < p.len ∧ p.len % 64 = 0 ∧ (a + before k) % 256 + p.len ≤ 256 ∧ (d + before k) % 256 + p.len ≤ 256

/-- R167, R168, R390, R391, R397, R403: a transaction of an engine is sent under a tag and, unless it reads, a number; an operation with nothing left
to send or to be answered moves its local parts, counts, and ends. The model's own choices here: local parts move in one event (assumption 52), one
transaction goes out per event (assumption 58), and how many flits it takes (assumption 64). -/
def Obligations.TransfersComplete : Prop :=
  (∀ (s : State) (idx die tag : Nat) (x : Xfer) (e : Send) (rest : List Send),
    let addr := if e.kind = .read then e.src else e.dst
    let data := e.data.getD (if e.kind = .write then (s.readPlace (s.place e.src) e.len).1 else [])
    (s.dies.zipIdx.flatMap fun (d, k) => d.xfers.map fun (x : Xfer) => (k, x))[idx]? = some (die, x) → s.xfer? die x.id = some x → x.todo = e :: rest →
    s.xferHeld x = false → s.pathOpen x addr = true → s.freeTag x.unit = some tag → (e.kind = .read ∨ s.numRoom (pkgOf addr) = true) →
    (e.kind = .read → e.num = none) → Does (.bulkSend idx) s fun t =>
      t = { s with dies := t.dies, fab := t.fab } ∧ t.xfer? die x.id = some { x with todo := rest } ∧
      ∃ q : OutReq, t.fab.reqs = s.fab.reqs ++ [q] ∧ q.unit = x.unit ∧ q.tag = tag ∧ q.gen = genOf (s.gens x.unit) tag ∧ q.dst = pkgOf addr ∧ q.kind = e.kind ∧
        q.addr = addr ∧ q.len = e.len ∧ q.data = data ∧ q.key = e.key.key ∧ q.issued = s.time ∧ q.fibre = none ∧ q.xfer = some ⟨die, x.id, e.dst⟩ ∧
        q.num = if e.kind = .read then none else some (e.num.getD (s.nextNum (pkgOf addr)))) ∧
  (∀ (s : State) (die : Nat) (x : Xfer) (i : Instr),
    let hits (d n : Nat) : Nat := if x.failed then 0 else
      (if x.rce ∧ s.isFar x.dst = false ∧ d = homeDie (localOf x.dst) ∧ n = x.rctr then 1 else 0) + (if x.lce ∧ d = die ∧ n = x.lctr then 1 else 0)
    memWf s → s.xfer? die x.id = some x → (i = .putComplete die x.id ∧ x.kind = .put) ∨ (i = .getComplete die x.id ∧ x.kind = .get) →
    s.xferDone die x = true → (∀ p ∈ x.near, s.isFar p.src = false ∧ s.isFar p.dst = false ∧ p.len % 64 = 0) → x.ctx < s.ctxs.length →
    Does i s fun t => moved s t x.near x.pages ∧ sameRegs s t ∧ t.xfer? die x.id = none ∧
      (∀ d n, t.counter x.ctx d n = ⟨BitVec.ofNat 48 (min ((s.counter x.ctx d n).value.toNat + hits d n) (2 ^ 48 - 1)), (s.counter x.ctx d n).err⟩) ∧
      ∀ r op, x.owner = some (r, op) → ∀ G, t.fibre? r = some G → ∀ o ∈ G.ops, o.id = op → o.done = true) ∧
  ∀ (s : State) (r : FibreRef) (F : Fibre) (o : Op) (die : Nat) (x : Xfer),
    memWf s → s.fibre? r = some F → F.ops.find? (fun y => y.id == o.id) = some o → o.kind = .copy die x.id → s.xfer? die x.id = some x → x.kind = .copy →
    x.owner = some (r, o.id) → x.wrote = false → x.todo = [] → x.got = [] → x.out = [] → s.xferOpen die x.id = false → s.xferHeld x = false →
    (∀ p ∈ x.near, s.isFar p.src = false ∧ s.isFar p.dst = false ∧ p.len % 64 = 0) →
    Does (.cpyComplete r o.id) s fun t => moved s t x.near x.pages ∧ sameRegs s t ∧ t.xfer? die x.id = none ∧ t.ctxs = s.ctxs ∧
      ∀ G, t.fibre? r = some G → ∀ y ∈ G.ops, y.id = o.id → y.done = true

/-- R393 to R395, R398: `cntr` reads, adds to and sets a completion counter of its context, and the entries whose threshold it has reached become due;
`trig` arms an entry; the entry of a counter that became due first fires, once its pages pass their checks again, and else marks the counter. The
model's own choices here: a fired operation checks its pages as the engine (assumption 70). -/
def Obligations.CountersAndTriggers : Prop :=
  (∀ (s : State) (c : Ctx) (f : SF),
    let a := c.plain 2 f.a.toNat
    let sel := f.imm.toNat / 256 % 4
    let die := if sel = 0 then c.core / 64 else sel - 1
    let n := f.imm.toNat % 256
    let x := s.counter c.t.ctx die n
    let counts (i : Instr) (y : Counter) : Prop := issuing i (sNames f false true) s = some c → (c.act = [] → Completes i s c (now c)) ∧
      (c.act ≠ [] → (a.row c.low).poison = false → c.t.ctx < s.ctxs.length → ∃ cs, Completes i s c ((now c).onState fun u => { u with
        ctxs := cs
        dies := s.dies.modify die fun e => { e with trigs := e.trigs.map fun z =>
          if z.ctx = c.t.ctx ∧ z.ctr = n ∧ z.due = none ∧ z.thr ≤ y.value.toNat then { z with due := some s.tick } else z } }) ∧
        let t := { s with ctxs := cs }
        t.counter c.t.ctx die n = y ∧ (∀ e m, (e, m) ≠ (die, n) → t.counter c.t.ctx e m = s.counter c.t.ctx e m) ∧
        (∀ k, k ≠ c.t.ctx → t.ctx k = s.ctx k) ∧ t.ctx c.t.ctx = { s.ctx c.t.ctx with counters := (t.ctx c.t.ctx).counters })
    let v := (a.val c.low).toNat % 2 ^ 48
    (issuing (.cntrRead f) (sNames f true false) s = some c → WritesRow (.cntrRead f) s c f.d .raw .uniform fun _ =>
      BitVec.ofNat 64 (x.value.toNat + if x.err then 2 ^ 63 else 0)) ∧
    counts (.cntrAdd f) ⟨BitVec.ofNat 48 (min (x.value.toNat + v) (2 ^ 48 - 1)), x.err⟩ ∧ counts (.cntrSet f) ⟨BitVec.ofNat 48 v, false⟩) ∧
  (∀ (s : State) (c : Ctx) (f : MF) (isPut : Bool),
    let i : Instr := if isPut then .trigPut f else .trigGet f
    let e := c.plain 3 (f.b.toNat + 1)
    let d := c.plain 1 f.d.toNat
    let a := c.plain 2 f.a.toNat
    let n := c.plain 3 f.b.toNat
    let die := c.core / 64
    let w := (e.val c.low).toNat
    issuing i ⟨regName 46 f.d ++ regName 40 f.a ++ group 34 f.b.toNat 2, [], f.g⟩ s = some c → inOrder c false →
    (c.act = [] → Completes i s c (now c)) ∧
    (c.act ≠ [] → (∀ x ∈ [d, a, n, e], (x.row c.low).poison = false) → n.val c.low ≠ 0 → (n.val c.low).toNat ≤ 2 ^ 26 →
      (∀ x ∈ [d, a, n], (x.val c.low).toNat % 64 = 0) → die < s.dies.length →
      c.s.xferErrs c.who (if isPut then .put else .get) (d.val c.low).toNat (a.val c.low).toNat (n.val c.low).toNat (f.off.getLsbD 2) = [] →
      ((s.die die).trigs.length < 1024 → ∃ ds tl, Completes i s c ((now c).onState fun u => { u with dies := ds, tlb := tl }) ∧
        ds = s.dies.modify die fun y => { y with trigs := y.trigs ++
          [⟨c.t.ctx, c.core, w / 2 ^ 48 % 256, w % 2 ^ 48, isPut, f, d.val c.low, a.val c.low, (n.val c.low).toNat,
            if w % 2 ^ 48 ≤ (s.counter c.t.ctx die (w / 2 ^ 48 % 256)).value.toNat then some s.tick else none⟩] }) ∧
      (1024 ≤ (s.die die).trigs.length → Does i s fun t => OnlyMoves s t ∧ ∀ l ∈ c.bundle, threadAt t c.r l = threadAt s c.r l))) ∧
  ∀ (s : State) (die idx : Nat) (x : Trig),
    let kind : XferKind := if x.isPut then .put else .get
    let errs := s.xferErrs ⟨x.ctx, 999, 0⟩ kind x.dst.toNat x.src.toNat x.count (x.f.off.getLsbD 2)
    let left := (s.die die).trigs.eraseIdx idx
    (s.die die).trigs[idx]? = some x → x.due ≠ none →
    (∀ (k : Nat) y, (s.die die).trigs[k]? = some y → y.ctx = x.ctx → y.ctr = x.ctr → ∀ a b, y.due = some a → x.due = some b → b < a ∨ a = b ∧ idx ≤ k) →
    Does (.triggerFire die idx) s fun t => sameMemory s t ∧ t.teams = s.teams ∧
      (errs ≠ [] → x.ctx < s.ctxs.length → (t.die die).xfers = (s.die die).xfers ∧
        t.counter x.ctx die x.ctr = { s.counter x.ctx die x.ctr with err := true } ∧
        (t.die die).trigs = left.map fun y => if y.ctx = x.ctx ∧ y.ctr = x.ctr ∧ y.due = none ∧ y.thr ≤ (s.counter x.ctx die x.ctr).value.toNat
          then { y with due := some s.tick } else y) ∧
      (errs = [] → x.core / 64 = die → (t.die die).trigs = left ∧ ∃ y : Xfer, (t.die die).xfers = (s.die die).xfers ++ [y] ∧ y.kind = kind ∧ y.owner = none ∧ y.count = x.count ∧ y.ctx = x.ctx ∧
        y.dst = s.pa x.ctx x.dst.toNat ∧ y.near = (s.xparts x.ctx x.src.toNat x.dst.toNat x.count).filter fun p => !s.isFar p.src && !s.isFar p.dst)

/-- R399 to R402: a collective reads its descriptor and both ranges, takes a tag and waits; when every member's source has come, it writes the result
of the tree over the ranks, counts and ends; a member that does not come in time, brings another descriptor, or tells that the collective fails, ends
it with a fault. The model's own choices here: ROOT and OP that do not belong to the kind (assumption 60), poison of a member's source (assumption
61), and when members disagree (assumption 62). -/
def Obligations.CollectivesCombine : Prop :=
  (∀ (s : State) (c : Ctx) (f : MF) (kind pa tag : Nat) (i : Instr),
    let dst := c.plain 1 f.d.toNat
    let src := c.src 2 f.a 0 0
    let b := c.src 3 f.b 0 0
    let va := (b.val c.low).toNat
    let ws := (List.range 8).map fun k => BitVec.ofNat 64 (numAt c.s (pa + 8 * k) 8)
    let cd := cdesc ws
    let a := (src.val c.low).toNat
    let d := (dst.val c.low).toNat
    let die := c.core / 64
    (i = .collAllreduce f ∧ kind = 0) ∨ (i = .collRscatter f ∧ kind = 1) ∨ (i = .collBcast f ∧ kind = 2) →
    issuing i (mNames f 1 false 1) s = some c → inOrder c false →
    (c.act = [] → Completes i s c (now c)) ∧
    (c.act ≠ [] → (∀ x ∈ [dst, src, b], (x.row c.low).poison = false) → c.s.checkAligned c.who .read va 64 = .ok pa →
      (∀ j < 64, pkgOf (pa + j) = c.s.pkg.toNat) → (∀ g ∈ (c.s.place pa).granules 64, c.s.engineOwned g = false) → poisAt c.s pa 64 = false →
      (∀ k < 8, c.s.place (pa + 8 * k) = (c.s.place pa).add (8 * k)) → c.f0.ops.all (fun o => o.kind.answers == []) = true →
      collOk s.pkg.toNat kind ws = true → a % 64 = 0 → d % 64 = 0 → c.s.rangeErrs c.who .read 2 a (cd.srcBytes kind) true = [] →
      c.s.rangeErrs c.who .write 1 d cd.dstBytes true = [] → s.freeTag (128 + die) = some tag → die < s.dies.length →
      Does i s fun t => sameMemory s t ∧ sameRegs s t ∧ (∀ l ∈ c.bundle, continues c t l) ∧ ∃ (x : Xfer) (op : Op) (G : Fibre),
        (t.die die).xfers = (s.die die).xfers ++ [x] ∧ x.kind = .coll kind ws ∧ x.tag = some tag ∧ x.count = cd.srcBytes kind ∧ x.todo = [] ∧
        x.wdog = (if (s.ctx c.t.ctx).wdog = 0 then 50 else (s.ctx c.t.ctx).wdog) * 1000000 ∧ x.issued = s.time ∧
        x.lce = f.off.getLsbD 3 ∧ x.lctr = f.off.toNat / 2 ^ 12 ∧ x.failed = false ∧
        t.fibre? c.r = some G ∧ op ∈ G.ops ∧ x.owner = some (c.r, op.id) ∧ op.classes = [.fab] ∧ op.kind = .transfer die x.id ∧ op.done = false ∧ opens c f.la.toNat op)) ∧
  (∀ (s : State) (die kind : Nat) (x : Xfer) (ws : List Word) (members : List MemberData) (src : Nat → List Byte),
    let cd := cdesc ws
    s.xfer? die x.id = some x → x.kind = .coll kind ws → s.xferHeld x = false → x.failed = false → x.pages = [] →
    src s.pkg.toNat = (s.readPieces x.srcs).1 → (∀ p ∈ cd.ranks, p ≠ s.pkg.toNat → (members.find? fun m => m.pkg == p && m.src.length == cd.srcBytes kind).map (·.src) =
      some (src p)) →
    Does (.collComplete die x.id members) s fun t => t.xfer? die x.id = none ∧ sameRegs s t ∧
      (x.lce = true → x.ctx < s.ctxs.length → x.rce = false → t.counter x.ctx die x.lctr =
        ⟨BitVec.ofNat 48 (min ((s.counter x.ctx die x.lctr).value.toNat + 1) (2 ^ 48 - 1)), (s.counter x.ctx die x.lctr).err⟩) ∧
      (∀ p n, x.dsts = [(p, n)] → memWf s → s.isFar p = false → ∀ k < n, k < cd.dstBytes → n ≤ (collResult s.pkg.toNat kind cd (cd.ranks.map src)).length →
        placeByte t ((s.place p).add k) = (collResult s.pkg.toNat kind cd (cd.ranks.map src)).getD k 0) ∧
      ∀ r op, x.owner = some (r, op) → ∀ G, t.fibre? r = some G → ∀ o ∈ G.ops, o.id = op → o.done = true) ∧
  (∀ (s : State) (die kind tag : Nat) (x : Xfer) (ws : List Word) (seen : Option (List Word)),
    let cid (l : List Word) : Nat := (l.getD 1 0).toNat / 2 ^ 32
    s.xfer? die x.id = some x → x.kind = .coll kind ws → x.tag = some tag → s.canPost = true →
    let members (l : List Word) (k : Nat) : Bool := (l.getD 0 0).getLsbD k
    ((seen = none ∧ x.wdog < (s.time - x.issued).toNat) ∨ seen = some [] ∨ ∃ o, seen = some o ∧ cid o = cid ws ∧
      (o.drop 1 ≠ ws.drop 1 ∨ ∃ k, k ≠ s.pkg.toNat ∧ members o k ≠ members ws k)) →
    Does (.collTimeout die x.id seen) s fun t => t.xfer? die x.id = none ∧
      (∀ r op F, x.failed = false → x.owner = some (r, op) → s.fibre? r = some F → F.live ≠ [] → (∃ o ∈ F.ops, o.id = op) →
        sameMemory s t ∧ ∃ G p, t.fibre? r = some G ∧ G.pending = F.pending ++ [p] ∧ p.code = 0x0E ∧ p.info = tag ∧ p.detail = (genOf (s.gens x.unit) tag).toNat ∧
          p.lanes = maskOf F.live) ∧
      (x.failed = false → x.owner = none → x.lce = true → x.ctx < s.ctxs.length → sameMemory s t ∧
        t.counter x.ctx die x.lctr = { s.counter x.ctx die x.lctr with err := true })) ∧
  (∀ (op a b : Nat) (l : List Nat), collTree op 64 [a] = a ∧ collTree op 64 [a, b] = collComb op a b ∧
    (l.length ≤ 2 ^ 60 → l ≠ [] → collTree op 64 l = collTree op 64 (collLevel op l))) ∧
  ∀ (pkg kind : Nat) (cd : CDesc) (srcs : List (List Byte)), cd.ty = 1 →
    let res := collResult pkg kind cd srcs
    let at_ (e : Nat) : Nat := collTree cd.op 64 (srcs.map fun b => leNat ((b.drop (4 * e)).take 4))
    (kind = 0 → res.length = 4 * cd.count ∧ ∀ e < cd.count, leNat ((res.drop (4 * e)).take 4) = at_ e % 2 ^ 32) ∧
    ∀ k, kind = 1 → cd.ranks[k]? = some pkg → res.length = 4 * cd.count ∧ ∀ e < cd.count,
      leNat ((res.drop (4 * e)).take 4) = at_ (k * cd.count + e) % 2 ^ 32

/-- R302 to R308, R313 to R316: the next record of a live queue is read, HEAD advances, and the record is refused by its first failing check or
admitted; a launch bound to a queue that another one is bound to goes on where that one stands; an admitted launch becomes ready once its dependences
hold; a bound queue ages; software stops a launch; the status entry. The model's own choices here: the order of the reasons to refuse (assumption 73),
the order of queues whose teams are all saved (assumption 76), and that software's stores to HEAD count (assumption 124). -/
def Obligations.LaunchesAreAdmitted : Prop :=
  (∀ (s : State) (die queue : Nat) (reg : QueueReg) (q : LQueue) (p1 p2 : Nat),
    let recVa := q.base + q.head % q.cap * 256
    let stat := q.sbase + q.head % q.cap * 16
    let w (k : Nat) : Word := (s.readWords reg.ctx recVa 32).getD k 0
    let u : State := { s.store reg.ctx (reg.desc.toNat + 24) (leBytes 8 (q.head + 1)) false with fresh := s.fresh + 1 }
    (s.die die).queues.getD queue none = some reg → reg.enabled = true → (s.launches.filter fun l => l.die == die && l.stage != .complete).length < 64 →
    s.goodQueue reg.ctx reg.desc.toNat = some q → q.en = true → q.head < q.tail → s.check (cpWho reg.ctx) .read recVa = .ok p1 →
    s.check (cpWho reg.ctx) .write stat = .ok p2 →
    ∃ l : Launch, l.die = die ∧ l.queue = queue ∧ l.index = q.head ∧ l.stat = BitVec.ofNat 64 stat ∧ l.stage = .waiting ∧ l.placed = 0 ∧ l.retired = 0 ∧
      l.lrec = { recFrom w with ctx := reg.ctx } ∧
      (∀ code, s.refusal reg.ctx recVa w = some code → exec (.launchRecordTake die queue) s = .next (u.writeStatus l code)) ∧
      (s.refusal reg.ctx recVa w = none → Does (.launchRecordTake die queue) s fun t => ∃ l' ar, l' = { l with disp := l'.disp, consumed := l'.consumed } ∧
        (l.lrec.qbound = false → l' = l ∧ l.disp = 0) ∧
        (∀ pa d, l.lrec.qbound = true → s.boundQueue? l.lrec recVa = some (pa, d) →
          ((∀ k ∈ s.launches, s.bindsQueue pa k = false) → l'.disp = d.head ∧ l'.consumed = []) ∧
          (∀ k, s.launches.filter (s.bindsQueue pa) = [k] → l'.disp = k.disp ∧ l'.consumed = k.consumed)) ∧
        t = { u with launches := s.launches ++ [l'], areas := ar }.writeStatus l' 1)) ∧
  (∀ (s : State) (ctx recVa : Nat) (w : Nat → Word), let r := recFrom w
    (∀ code, s.refusal ctx recVa w = some code → code = 0x10 ∨ code = 0x11 ∨ code = 0x12 ∨ code = 0x13) ∧
    ((s.ctx ctx).valid = false ∨ r.ctx ≠ ctx ∨ (w 0).field 30 2 ≠ 0 → s.refusal ctx recVa w = some 0x10) ∧
    (s.refusal ctx recVa w = none → 1 ≤ r.fibres ∧ r.fibres ≤ 128 ∧ r.shared + r.priv ≤ 56 ∧ r.entry < r.codeSz ∧ r.code.toNat % 4096 = 0 ∧
      r.scr ≤ 384 ∧ r.accN ≤ 8 ∧ (r.width = 16 ∨ r.width = 32 ∨ r.width = 64))) ∧
  (∀ (s : State) (l : Launch) (code pa : Nat),
    let p := s.place (s.pa l.lrec.ctx l.stat.toNat)
    let t := s.writeStatus l code
    let d := s.statusWord l code
    s.check (cpWho l.lrec.ctx) .write l.stat.toNat = .ok pa → memWf s → s.isFar (s.pa l.lrec.ctx l.stat.toNat) = false → s.fmtBase l.lrec.ctx l.stat.toNat = none →
    code < 256 → (∀ j < 8, placeByte t (p.add j) = BitVec.ofNat 8 (d.toNat / 2 ^ (8 * j)) ∧ placeByte t (p.add (8 + j)) = BitVec.ofNat 8 (s.time.toNat / 2 ^ (8 * j))) ∧
      (∀ x, (∀ j < 16, p.add j ≠ x) → placeByte t x = placeByte s x) ∧ d.toNat % 2 ^ 32 = min l.retired (2 ^ 32 - 1) ∧ d.toNat / 2 ^ 32 % 256 = code ∧
      d.getLsbD 40 = l.pskip ∧ d.getLsbD 41 = l.dskip ∧ (d.getLsbD 63 = true ↔ 2 ^ 63 ≤ s.loadWord l.lrec.ctx l.stat.toNat)) ∧
  (∀ (s : State) (l : Launch), s.launch? l.id = some l →
    (l.stage = .waiting → (∀ d ∈ l.lrec.deps, d.2 ≤ (s.counter l.lrec.ctx l.die d.1).value.toNat) → Does (.launchDependenceMet l.id) s fun t =>
      t.teams = s.teams ∧ t.launch? l.id = some { l with stage := .ready, pskip := s.prefetchSkips l } ∧ (s.prefetchSkips l = false → sameMemory s t)) ∧
    (∀ tm, l.lrec.qbound = true → l.aged = false → l.stage = .ready ∨ l.stage = .stopped → l.disp < (s.queueOf l).commit →
      s.commitTime (s.queuePa l) l.disp = some tm → (s.queueOf l).ageLimit * 1000 < (s.time - tm).toNat → Does (.queueAgeLimit l.id) s fun t =>
        t = { s with launches := t.launches } ∧ t.launch? l.id = some { l with aged := true }) ∧
    (∀ pa, s.check (cpWho l.lrec.ctx) .read l.stat.toNat = .ok pa → l.lrec.qbound = true → l.stage = .ready →
      2 ^ 63 ≤ s.loadWord l.lrec.ctx l.stat.toNat → Does (.launchStop l.id) s fun t =>
        t = { s with launches := t.launches } ∧ t.launch? l.id = some { l with stage := .stopped }))

/-- R15, R309, R312, R314, R315, R353, R437: a team is placed on the best core, with every thread at the entry point and zero registers, or, saved
before, with the registers it had; a team without work retires and gives back what it held; a launch whose teams have retired is complete. The model's
own choices here: which banks and slots a placement takes (assumption 74), that cooperative teams are placed together (assumption 75), what a saved
team finds again (assumptions 83, 120), and that the first holder of a slot is free (assumption 121). -/
def Obligations.TeamsPlaceAndRetire : Prop :=
  (∀ (s : State) (l : Launch) (core : Nat),
    s.launch? l.id = some l → s.readyLaunches = [l] → (l.lrec.coop = false ∨ l.lrec.qbound = true) → s.bestPlace l (s.savedOf l).head? [] = some core →
    (s.savedOf l = [] → Does (.teamPlacement l.die) s fun t => ∃ T : Team, t.teams = s.teams ++ [T] ∧ T.uid = s.fresh ∧ T.launch = l.id ∧ T.ctx = l.lrec.ctx ∧
      T.core = core ∧ T.die = core / 64 ∧ T.index = BitVec.ofNat 32 l.placed ∧ T.fibres.length = l.lrec.fibres ∧
      T.qrange = (if l.lrec.qbound then (l.disp, min (s.queueOf l).teamItems ((s.queueOf l).commit - l.disp)) else (0, 0)) ∧
      (∃ l', t.launch? l.id = some l' ∧ l'.placed = l.placed + 1 ∧ l'.disp = l.disp + T.qrange.2) ∧
      ∀ k < l.lrec.fibres, ∃ F, T.fibres[k]? = some F ∧ F.fid = k ∧ F.slot = k / l.lrec.fps ∧ F.tvec = l.lrec.tvec ∧ F.handler = none ∧ F.issue = none ∧
        F.ops = [] ∧ F.dphase = 0 ∧ F.frec = ⟨0, 0, 0, 0⟩ ∧ F.threads.length = l.lrec.width ∧ (∀ v ∈ F.priv, ∀ x ∈ v.rows, x = ⟨0, .raw, false⟩) ∧
        ∀ j < l.lrec.width, atHeader (F.thread j) (l.lrec.code + BitVec.ofNat 64 l.lrec.entry) ∧ (F.thread j).tid = BitVec.ofNat 32 (k * l.lrec.width + j) ∧
          (F.thread j).preds = 0 ∧ (F.thread j).flags = 0) ∧
    ∀ x rest, s.savedOf l = x :: rest → s.team? x.team.uid = none → Does (.teamPlacement l.die) s fun t => ∃ T : Team, t.team? x.team.uid = some T ∧ T.core = core ∧
      T.index = x.team.index ∧ (∀ y ∈ t.saved, y.team.uid ≠ x.team.uid) ∧ ∀ k F, x.team.fibre? k = some F → ∃ G, T.fibre? k = some G ∧ G.priv = F.priv ∧
        G.tiles = F.tiles ∧ G.pageWait = none ∧ G.threads = F.threads.map (shiftThread (s.time - x.stoppedAt))) ∧
  (∀ (s : State) (l : Launch) (x : Option SavedTeam) (closed : List Nat) (c : Nat), s.bestPlace l x closed = some c →
    c ∈ l.places ∧ c / 64 ∉ closed ∧ s.placeTakes l x c = true ∧ ∀ k ∈ l.places, k / 64 ∉ closed → s.placeTakes l x k = true →
      (s.placeKey l k).1 < (s.placeKey l c).1 ∨ ((s.placeKey l k).1 = (s.placeKey l c).1 ∧
        ((s.placeKey l k).2 < (s.placeKey l c).2 ∨ ((s.placeKey l k).2 = (s.placeKey l c).2 ∧ c ≤ k)))) ∧
  (∀ (s : State) (l : Launch) (rest : List Launch), s.readyLaunches = l :: rest → l ∈ s.launches ∧ s.launchReady l = true ∧
    ∀ k ∈ s.launches, s.launchReady k = true → k.lrec.prio ≤ l.lrec.prio) ∧
  (∀ (s : State) (T : Team), s.team? T.uid = some T → (∀ F ∈ T.fibres, ∀ x ∈ F.threads, x.live = false) → (∀ F ∈ T.fibres, ∀ o ∈ F.ops, o.done = true ∨ o.classes = []) →
    s.filedOf T.uid = [] → (∀ c ∈ s.cores, ∀ o ∈ c.array, o.owner.team ≠ T.uid) → (∀ c ∈ s.clusters, ∀ g ∈ c.table, g.owner.team ≠ T.uid) → (s.ctx T.ctx).dying = false →
    Does (.teamRetirement T.uid) s fun t => t.teams = s.teams.filter (·.uid != T.uid) ∧
      (∀ l, s.launch? T.launch = some l → (t.launch? l.id).map (·.retired) = some (l.retired + 1)) ∧
      ∀ k ∈ T.cores (s.recOf T), (∀ b ∈ (t.core k).banks, ∀ j n f a, b.role ≠ .scratch T.uid j n ∧ b.role ≠ .fifo T.uid f a) ∧
        ∀ b ∈ (t.core k).acc, b.owner ≠ some T.uid) ∧
  ∀ (s : State) (l : Launch), s.launch? l.id = some l → s.savedOf l = [] → (∀ T ∈ s.teams, T.launch ≠ l.id) → s.canPost = true →
    (if l.lrec.qbound then l.stage = .stopped ∧ (s.queueOf l).commit ≤ l.disp else l.stage = .ready ∧ l.retired = l.lrec.nteam) →
    (∀ a ∈ s.accs, a.launch ≠ l.id) → l.spills = [] → (s.ctx l.lrec.ctx).dying = false → l.lrec.ndisc = 0 → Does (.launchCompletion l.id) s fun t =>
      t.launch? l.id = none ∧ t.teams = s.teams ∧ t.mem = (s.writeStatus { l with dskip := false } 2).mem ∧
      (l.lrec.cen = true → l.lrec.ctx < s.ctxs.length → t.counter l.lrec.ctx l.die l.lrec.cctr =
        ⟨BitVec.ofNat 48 (min ((s.counter l.lrec.ctx l.die l.lrec.cctr).value.toNat + l.lrec.cinc) (2 ^ 48 - 1)), (s.counter l.lrec.ctx l.die l.lrec.cctr).err⟩)

/-- R322 to R327: an idle FP8 page that is not pinned is picked; the commit rewrites its blocks as scaled 4-bit elements, advances the generation and
frees frames; a page with a bad header is reported and skipped once. The model's own choices here: from what the requantiser knows the pages
(assumption 37), and what a frame given up reads as (assumption 6). -/
def Obligations.PagesAreRequantised : Prop := ∀ (s : State) (page : Nat),
  let known := (∃ e ∈ s.tlb, e.fmtp = true ∧ pkgOf e.frame = s.pkg.toNat ∧ isHbm (localOf e.frame) = true ∧ localOf e.frame = page) ∨ page ∈ s.mappedPages
  let ms := (s.die (homeDie page)).threshold
  (known → s.reclaimFree = true → ms ≠ 0 → (∀ x ∈ s.convs, x.1 ≠ page) →
    (s.headerOk page = true → s.pageFmt page ≠ 10 → s.pagePin page = false → ms * 1000000 < s.time.toNat - s.ramWord (page + 8) →
      exec (.requantiserPick page) s = .next { s with convs := s.convs ++ [(page, s.time)] }) ∧
    (s.headerOk page = false → s.skipped.contains (page, BitVec.ofNat 64 (s.ramWord page)) = false → s.canPost = true →
      Does (.requantiserPick page) s fun t => t.teams = s.teams ∧ t.convs = s.convs ∧ t.mbox.evSeq = s.mbox.evSeq + 1 ∧
        t.skipped.contains (page, BitVec.ofNat 64 (s.ramWord page)) = true)) ∧
  ∀ q since, memWf s → (page, since) ∈ s.convs → s.poisonedBlocks page = [] → s.reclaim = some q →
    let entry := s.pkg.toNat * 2 ^ 46 + q.base + q.tail % q.cap * 16
    s.isFar entry = false → (s.commitPage page).place entry = s.place entry → (∀ j < 16, ∀ k < 2 ^ 16, (s.place entry).add j ≠ .ram (page + k)) →
    Does (.requantiserCommit page) s fun t => t.teams = s.teams ∧ (∀ x ∈ t.convs, x.1 ≠ page) ∧ t.reclaim = some { q with tail := q.tail + 1 } ∧
      t.headerOk page = true ∧ t.pageFmt page = 10 ∧ t.pagePin page = s.pagePin page ∧ t.ramWord page = (s.ramWord page + 1) % 2 ^ 64 ∧
      t.ramWord (page + 8) = s.ramWord (page + 8) ∧
      (∀ b < 2040, let x := requantBlock (if s.pageFmt page = 4 then fmtE4m3 else fmtE5m2) ((cellsGet s.mem (page + 0x100 + 32 * b) 32).map (·.toNat))
        (∀ k < 16, cellGet t.mem (page + 0x100 + 16 * b + k) = BitVec.ofNat 8 (x.2.getD (2 * k + 1) 0 * 16 + x.2.getD (2 * k) 0)) ∧
        cellGet t.mem (page + 0x8080 + b) = BitVec.ofNat 8 x.1) ∧
      ∀ j < 8, placeByte t ((s.place entry).add j) = BitVec.ofNat 8 (((s.pkg.toNat * 2 ^ 46 + page) / 2 ^ 16 * 2 ^ 16 + 0xFE00) / 2 ^ (8 * j))

/-- R349 to R359: at the drain deadline the teams of a pre-empted context stop; each that has drained is saved and leaves; teams that are late, blocks
that do not fit, and barriers that time out end the context; the park-swap rule; the end of a termination. The model's own choices here: the free part
of a block's size (assumption 80), what a save clears (assumption 79), the candidates and the placement of park-swap (assumptions 36, 84), and the
details of the watchdog (assumption 85). -/
def Obligations.PreemptionSavesOrEnds : Prop := ∀ (s : State) (ctx : Nat), ctx < s.ctxs.length →
  let c := s.ctx ctx
  let mine := s.teams.filter (·.ctx == ctx)
  let drain := (if c.drain = 0 then 200 else c.drain) * 1000
  let save := (if c.saveDl = 0 then 2000 else c.saveDl) * 1000
  (∀ t0, c.saving = none → c.preempt = some t0 → drain ≤ (s.time - t0).toNat → mine ≠ [] → Does (.drainDeadline ctx) s fun t => sameMemory s t ∧
    (t.ctx ctx).saving = some s.time ∧ ∀ T ∈ t.teams, T.ctx = ctx → ∀ F ∈ T.fibres, F.issue = none ∧ ∀ x ∈ F.threads, ∀ k i since, x.st ≠ .parked k i since) ∧
  (∀ t1 T, c.saving = some t1 → mine.find? s.drained = some T →
    (256 + c.saveUsed + (s.image T t1).bytes ≤ c.saveSize → Does (.drainDeadline ctx) s fun t => t.team? T.uid = none ∧
      ∃ x, t.saved = s.saved ++ [x] ∧ x.team.uid = T.uid ∧ x.team.ctx = T.ctx ∧ x.stoppedAt = t1 ∧ x.savedAt = s.time ∧
        (t.ctx ctx).saveUsed = c.saveUsed + x.bytes ∧ x.team.fibres.map (fun F => (F.priv, F.threads, F.tiles)) = T.fibres.map (fun F => (F.priv, F.threads, F.tiles)) ∧
        x.team.slots = T.slots ∧
        let size := blockFixed (s.recOf T) x.bins.length x.reqs (T.accs.length + T.accs2.length) + blockRegs (s.recOf T) T (x.bins.map (·.2))
        size + 64 * 16 * (s.recOf T).fibres ≤ x.bytes ∧ x.bytes ≤ size + 64 * regBytes (s.recOf T).width * (s.recOf T).fibres) ∧
    (c.saveSize < 256 + c.saveUsed + (s.image T t1).bytes → s.canPost = true → c.dying = false →
      Does (.drainDeadline ctx) s (Terminated ctx (termWord ctx 4 0 0) s))) ∧
  (∀ t1, c.saving = some t1 → mine = [] → Does (.drainDeadline ctx) s fun t => t = { s with ctxs := t.ctxs } ∧ t.ctx ctx = { c with saving := none }) ∧
  (mine ≠ [] → s.canPost = true → c.dying = false → (∃ t0, c.preempt = some t0 ∧ drain + save < (s.time - t0).toNat) ∨
    (c.preempt = none ∧ ∃ t1, c.saving = some t1 ∧ save < (s.time - t1).toNat) → Does (.saveDeadline ctx) s (Terminated ctx (termWord ctx 3 0 0) s)) ∧
  (∀ (T : Team), s.team? T.uid = some T → T.ctx = ctx → c.saving = none → c.dying = false → s.canPost2 = true → s.watchDue T ≠ [] →
    ∃ w ∈ s.watchDue T, (if c.wdog = 0 then 50 else c.wdog) * 1000000 < (s.time - w.since).toNat ∧
      (s.capture T w).length = 8 + 4 * T.fibres.length ∧ Does (.watchdogFire T.uid) s (Terminated ctx (termWord ctx 0 0 0) (s.event 5 false (s.capture T w)))) ∧
  (c.dying = true → (s.teams.map (·.uid)).Nodup → (∀ T ∈ mine, s.engineBusy T.uid = false) → (∀ d ∈ s.dies, ∀ x ∈ d.xfers, x.ctx ≠ ctx) → s.canPost = true →
    Does (.terminationComplete ctx) s fun t => (t.ctx ctx).dying = false ∧ t.teams = s.teams.filter (·.ctx != ctx) ∧
      t.launches = s.launches.filter (·.lrec.ctx != ctx) ∧ t.mbox.evSeq = s.mbox.evSeq + 1 ∧
      (s.mbox.held = [] → s.attach.cacheOn = false → t.mbox.held = [[BitVec.ofNat 64 (6 * 2 ^ 56 + 2 * 2 ^ 40), s.mbox.evSeq + 1, s.time, c.termRec]])) ∧
  (∀ core l s1, let here := s.teamsOn core
    here ≠ [] → (∀ T ∈ here, s.swapCandidate core T = true) →
    s.readyLaunches.find? (fun l => here.any (fun T => T.ctx == l.lrec.ctx) && s.waitsFor core l) = some l →
    s.saveAll (here.filter fun T => T.ctx == l.lrec.ctx) = some s1 → (s1.ctx l.lrec.ctx).dying = false → (l.lrec.coop = false ∨ l.lrec.qbound = true) →
    ∀ k, s1.launch? l.id = some k → (∀ place, s1.bestPlace k (s.savedOf l).head? [] = some place →
        exec (.parkSwap core) s = .next (s1.placeAt k (s.savedOf l).head? place)) ∧
      (s1.bestPlace k (s.savedOf l).head? [] = none → exec (.parkSwap core) s = .next s1)) ∧
  (∀ core T, s.swapCandidate core T = true ↔ (∃ F ∈ T.fibres, T.coreOf F.fid = core ∧ F.live ≠ []) ∧
    ∀ F ∈ T.fibres, T.coreOf F.fid = core → ∀ l ∈ F.live, F.frozen l = false ∧
    ∃ k i since, (F.thread l).st = .parked k i since ∧ 100000 < (s.time - since).toNat) ∧
  ∀ T s1, s.saveAll [T] = some s1 → s.team? T.uid = some T → T.ctx = ctx →
    (s1.team? T.uid = none ∧ ∃ x ∈ s1.saved, x.team.uid = T.uid) ∨ (s1.ctx ctx).dying = true

/-- R173, R382, R387, R390, R391: an answer frees its tag and completes what waited for it; one of another generation is dropped, counted and reported
on the control channel; a lost request fails with a fault that names its tag, tells its number to the destination, and leaves the tag a new
generation. The model's own choices here: how refusals and late requests of one instruction join (assumptions 32, 33, 34), SRC and LANES of an
engine's faults (assumptions 59, 71), poison of writes (assumption 51), how reads are cut (assumption 116), the control report (assumption 117), and
when landing space is free (assumption 118). -/
def Obligations.FabricAnswersAndTimeouts : Prop :=
  (∀ (s : State) (a : FabricAnswer), let stays (q : OutReq) : Prop := ¬(q.unit = a.unit ∧ q.tag = a.tag ∧ q.gen = a.gen)
    let n := 1 + (a.data.length + 63) / 64
    let u := (s.linkIn a.link n).linkFree a.link n
    (a.link.good = false → exec (.fabricResponseArrival a) s = .next s) ∧
    (a.link.good = true → s.tooOld a.time = true → exec (.fabricResponseArrival a) s = .next u) ∧
    (a.link.good = true → s.tooOld a.time = false → (∀ q ∈ s.fab.reqs, stays q) → Does (.fabricResponseArrival a) s fun t =>
      ∃ x : Flit, x.src = s.pkg.toNat ∧ x.chan = 4 ∧ t = { u with fab := { u.fab with
        stale := s.fab.stale + 1
        out := s.fab.out ++ [x] } }) ∧
    (s.tooOld a.time = true ↔ a.time.toNat ≤ s.time.toNat ∧ 400000 < s.time.toNat - a.time.toNat)) ∧
  (∀ (s : State) (a : FabricAnswer) (q : OutReq) (rest : List OutReq),
    let data := (List.range q.len).map fun k => a.data.getD k 0
    let bytes := data.zipIdx.map fun x => (q.addr + x.2, x.1, a.poison)
    let n := 1 + (a.data.length + 63) / 64
    let u := (s.linkIn a.link n).linkFree a.link n
    a.link.good = true → s.tooOld a.time = false → s.fab.reqs.find? (fun q => q.unit == a.unit && q.tag == a.tag && q.gen == a.gen) = some q →
    rest = s.fab.reqs.filter (fun x => !(x.unit == q.unit && x.tag == q.tag)) →
    (∀ r o F, a.refused = false → s.canPost = true → q.fibre = some (r, o.id) → s.fibre? r = some F → F.ops.find? (fun x => x.id == o.id) = some o →
      (∀ i lanes old, o.kind = .access i lanes old → lanes ≠ [] → (∃ x ∈ rest, x.fibre = some (r, o.id)) → Does (.fabricResponseArrival a) s fun t =>
        sameMemory s t ∧ sameRegs s t ∧ t.fab.reqs = rest ∧ ∃ G, t.fibre? r = some G ∧ { o with kind := .access i lanes (old ++ bytes) } ∈ G.ops) ∧
      ((∀ x ∈ rest ++ s.fab.refused, x.fibre ≠ some (r, o.id)) → o.kind = .remoteStore → Does (.fabricResponseArrival a) s fun t =>
        sameMemory s t ∧ sameRegs s t ∧ t.fab.reqs = rest ∧ ∃ G, t.fibre? r = some G ∧ ∀ y ∈ G.ops, y.id = o.id → y.done = true) ∧
      ∀ ty f lanes old, (∀ x ∈ rest ++ s.fab.refused, x.fibre ≠ some (r, o.id)) → o.kind = .access (.ld ty f) lanes old → lanes ≠ [] → (lanes.map (·.lane)).Nodup →
        Does (.fabricResponseArrival a) s fun t => sameMemory s t ∧ sameRegs s t ∧ t.fab.reqs = rest ∧ ∃ G, t.fibre? r = some G ∧
          ∀ y ∈ G.ops, y.id = o.id → y.done = true ∧ y.kind = .load ∧ ∀ h ∈ y.writes, h.reg = f.d.toNat → ∀ l z, (l, z) ∈ h.rows → ∀ x ∈ lanes, x.lane = l →
            ∀ v, loadEval ty f.d.toNat 1 (s.reader (old ++ bytes)) x = .ok v → (f.d.toNat, z) ∈ v.rows) ∧
    (∀ x y, a.refused = false → q.fibre = none → q.xfer = some x → q.kind = .read → s.xfer? x.die x.id = some y → y.kind = .get → (s.ctx y.ctx).dying = false →
      y.pages = [] → memWf s → s.isFar x.dst = false → Does (.fabricResponseArrival a) s fun t => t.fab.reqs = rest ∧ t.teams = s.teams ∧
        (∀ k < q.len, placeByte t ((s.place x.dst).add k) = a.data.getD k 0) ∧
        ∀ p, (∀ k < q.len, (s.place x.dst).add k ≠ p) → placeByte t p = placeByte s p) ∧
    ∀ r o F, a.refused = true → s.canPost = true → q.fibre = some (r, o.id) → s.fibre? r = some F → F.live ≠ [] → F.ops.find? (fun x => x.id == o.id) = some o →
      ((∃ x ∈ rest, x.fibre = some (r, o.id)) → exec (.fabricResponseArrival a) s =
        .next { u with fab := { u.fab with reqs := rest, refused := s.fab.refused ++ [q] } }) ∧
      ((∀ x ∈ rest, x.fibre ≠ some (r, o.id)) → o.kind = .remoteStore → Does (.fabricResponseArrival a) s fun t => sameMemory s t ∧ sameRegs s t ∧ t.fab.reqs = rest ∧
        (∀ x ∈ t.fab.refused, x.fibre ≠ some (r, o.id)) ∧ ∃ G, t.fibre? r = some G ∧
        ((∀ x ∈ s.fab.refused, x.fibre ≠ some (r, o.id)) → G.pending = F.pending ++ [⟨0x0F, q.keyIndex, 0, q.lanes, .clause⟩]) ∧
        ∀ x, s.fab.refused.filter (·.fibre == some (r, o.id)) = [x] → G.pending = F.pending ++ [⟨0x0F, x.keyIndex, 0, x.lanes ||| q.lanes, .clause⟩])) ∧
  ∀ (s : State) (q : OutReq) (r : FibreRef) (o : Op) (F : Fibre),
    let late (x : OutReq) : Bool := 100000 ≤ (s.time - x.issued).toNat
    s.fab.reqs.find? (fun x => x.unit == q.unit && x.tag == q.tag) = some q → late q = true → s.canPost = true → q.fibre = some (r, o.id) →
    (∀ x ∈ s.fab.refused, x.fibre ≠ some (r, o.id)) →
    s.fab.reqs.filter (fun x => late x && x.fibre == some (r, o.id)) = [q] → s.fibre? r = some F → F.live ≠ [] → F.ops.find? (fun x => x.id == o.id) = some o →
    let lost (pend : Pending) (P : Fibre → Prop) : Prop := Does (.fabricRequestTimeout q.unit q.tag) s fun t => sameMemory s t ∧ sameRegs s t ∧
      t.fab.reqs = s.fab.reqs.filter (fun x => !(x.unit == q.unit && x.tag == q.tag)) ∧
      t.fab.skipsSent = s.fab.skipsSent ++ (match q.num with | some n => [(q.dst, n)] | none => []) ∧
      ((q.unit < 128 ∧ q.unit < s.cores.length) ∨ (128 ≤ q.unit ∧ q.unit - 128 < s.dies.length) → genOf (t.gens q.unit) q.tag = genOf (s.gens q.unit) q.tag + 1) ∧
      ∃ G, t.fibre? r = some G ∧ G.pending = F.pending ++ [pend] ∧ P G
    (o.kind = .remoteStore → lost ⟨0x0E, q.gen.toNat, q.tag, q.lanes, .clause⟩ fun _ => True) ∧
    ∀ ty f lanes old, o.kind = .access (.ld ty f) lanes old → lanes ≠ [] →
      (∀ x ∈ lanes, ∃ rs, loadEval ty f.d.toNat 1 (s.reader old) x = .error rs ∧ ∃ p ∈ rs, p.1 < q.addr + q.len ∧ q.addr < p.1 + p.2) →
      lost ⟨0x0E, q.gen.toNat, q.tag, maskOf (lanes.map (·.lane)), if o.isWindow then .op o.id else .any⟩ fun G =>
        ∀ y ∈ G.ops, y.id = o.id → ∀ h ∈ y.writes, ∀ l z, (l, z) ∈ h.rows → l ∈ lanes.map (·.lane) → z.poison = true

/-- R294, R321, R386, R387, R390, R392: a request of another package is performed in number order, answered, and its number taken; one without a key
is refused and changes nothing; one that comes early is held, a copy has no effect, a bad CRC is not answered, and a skip notice takes its number. A
write to the frame of an FP8 format page is performed on that page. The model's own choices here: a refused request takes its number (assumption 66),
requests that are malformed or reach no memory (assumption 67), stores to a named format page (assumption 100), when landing space is free (assumption
118), and that requests arrive as inputs (assumption 102). -/
def Obligations.RemoteRequestsAreServedInOrder : Prop :=
  (∀ (s : State) (q : RemoteReq),
    let x := (s.inSeq q.src).prune s.time
    let answered (t : State) (refused pois : Bool) (data : List Byte) : Prop :=
      t.fab.answers = s.fab.answers ++ [⟨q.src, q.tag, q.gen, refused, pois, data⟩] ∧ t.fab.reqs = s.fab.reqs ∧
      t.fab.sendQ = s.fab.sendQ ++ [⟨q.src.toNat, if reqAtomic q then 3 else 2, 1 + (data.length + 63) / 64, s.time, true⟩]
    let taken (t : State) : Prop := ∀ n, q.num = some n → (t.inSeq q.src).next = n + 1 ∨ n + 1 ∈ x.skips
    let p := s.place q.addr
    let grants : Prop := ∃ c k, s.exportKey q = some (c, k) ∧ k.grants (reqAcc q) = true
    let fmtPage : Option Nat := match p with
      | .ram la => s.namedPages.find? fun b => b / 65536 == la / 65536 && (s.pageFmt b == 4 || s.pageFmt b == 5)
      | _ => none
    let stored (t : State) (bs : Nat → Byte) : Prop :=
      (fmtPage = none → (∀ k < q.len, placeByte t (p.add k) = bs k) ∧ ∀ y, (∀ k < q.len, p.add k ≠ y) → placeByte t y = placeByte s y) ∧
      ∀ b, fmtPage = some b → t.ramWord (b + 8) = s.time.toNat ∧ ∀ x ∈ t.convs, x.1 ≠ b
    (q.link.good = false → q ∉ x.held → exec (.remoteRequestArrival q) s = .next s) ∧
    (q.link.good = true → q ∉ x.held → s.tooOld q.time = true → Does (.remoteRequestArrival q) s fun t => t = { s with fab := t.fab } ∧
      t.fab.answers = s.fab.answers) ∧
    (q.link.good = true → s.tooOld q.time = false → q ∉ x.held →
    (reqGood s.pkg.toNat q = false → Does (.remoteRequestArrival q) s fun t => sameMemory s t ∧ t.teams = s.teams ∧ answered t true false [] ∧
      t.fab.errors = s.fab.errors + 1) ∧
    (reqGood s.pkg.toNat q = true → (∀ n, q.num = some n → n = x.next ∧ n ∉ x.skips ∧ ∀ y ∈ x.held, y.num ≠ some n) → s.remoteHeld q = false →
      (¬grants → Does (.remoteRequestArrival q) s fun t => sameMemory s t ∧ t.cores = s.cores ∧ t.teams = s.teams ∧ t.ctxs = s.ctxs ∧ answered t true false [] ∧ taken t) ∧
      (grants → isHbm (localOf q.addr) = true ∨ isHost (localOf q.addr) = true → memWf s → Does (.remoteRequestArrival q) s fun t => t.teams = s.teams ∧ taken t ∧
        match q.kind with
        | .read => sameMemory s t ∧ t.cores = s.cores ∧ answered t false (s.readPlace p q.len).2 (s.readPlace p q.len).1
        | .write => answered t false false [] ∧ stored t fun k => q.data.getD k 0
        | .atomic op ty => answered t false (s.readPlace p q.len).2 (s.readPlace p q.len).1 ∧
          let v := atomFold op.toNat (ETy.ofCode ty) (leNat (s.readPlace p q.len).1) (wordsOf q.data)
          stored t fun k => BitVec.ofNat 8 (v / 2 ^ (8 * k))
        | .other => False
        | .increment m => sameMemory s t ∧ answered t false false [] ∧ ∀ c k, s.exportKey q = some (c, k) → c < s.ctxs.length →
          t.counter c (homeDie (localOf q.addr)) m.toNat = ⟨BitVec.ofNat 48 (min ((s.counter c (homeDie (localOf q.addr)) m.toNat).value.toNat + 1) (2 ^ 48 - 1)),
            (s.counter c (homeDie (localOf q.addr)) m.toNat).err⟩)) ∧
    (∀ n, reqGood s.pkg.toNat q = true → q.num = some n → x.past n = false → n ≠ x.next → n ∉ x.skips → (∀ y ∈ x.held, y.num ≠ some n) →
      Does (.remoteRequestArrival q) s fun t => t = { s with fab := t.fab } ∧ t.inSeq q.src = { x with held := x.held ++ [q] } ∧ t.fab.answers = s.fab.answers) ∧
    ∀ n, reqGood s.pkg.toNat q = true → q.num = some n → x.past n = true ∨ n ∈ x.skips → Does (.remoteRequestArrival q) s fun t =>
      t = { s with fab := t.fab } ∧ (∀ y, x.answered.find? (fun z => z.1 == n) = some y → reqAtomic q = true → answered t false y.2.2.2 y.2.2.1) ∧
      (reqAtomic q = false → t.fab.answers = s.fab.answers))) ∧
  (∀ (s : State) (q : RemoteReq) (c : Nat) (k : WKey), s.exportKey q = some (c, k) → c < 64 ∧ (s.ctx c).valid = true ∧ k ∈ (s.ctx c).keys ∧ k.exp = true ∧ k.key = q.key ∧
    k.sources.getLsbD q.src.toNat = true ∧ k.base ≤ q.addr ∧ ((∀ m, q.kind ≠ .increment m) → q.addr + q.len ≤ k.base + k.size)) ∧
  ∀ (s : State) (src : BitVec 6) (n : BitVec 32),
    let x := s.inSeq src
    let held := x.held.any fun q => q.num == some n
    (x.past n = true ∨ n ∈ x.skips ∨ held = true → exec (.skipNoticeArrival src n) s = .next s) ∧
    (n = x.next → x.skips = [] → held = false → Does (.skipNoticeArrival src n) s fun t => t = { s with fab := t.fab } ∧ t.inSeq src = { x with next := n + 1 }) ∧
    (x.past n = false → n ≠ x.next → n ∉ x.skips → held = false → Does (.skipNoticeArrival src n) s fun t =>
      t = { s with fab := t.fab } ∧ t.inSeq src = { x with skips := n :: x.skips })

/-- R370, R376 to R388: a slot marker changes the circuits and tells by how much device time is to be corrected, at most one tick in 100; calendars,
ports, spares and blackouts, with their reports; what a flit that arrives does to credits; flits leave against the receiver's window and the slot's
end, wait for their acknowledgement, are replayed, and carry the increments due; a transaction is relayed whole and in order. The model's own choices
here: what a notice closes (assumption 63), the interval of credit updates (assumption 65), how time is corrected (assumption 68), when a calendar
takes effect (assumption 69), control reports (assumption 117), and when a flit's landing space is free (assumption 118). -/
def Obligations.LinksCarryFlits : Prop := ∀ (s : State),
  let fabOnly (t : State) (f : Fabric) : Prop := t = { s with fab := f }
  let live (p : Port) : Port := { p with dark := if p.dark = .switched then .live else p.dark }
  let reported (f : Fabric) (P : Fabric → Prop) : Prop := ∃ x : Flit, x.src = s.pkg.toNat ∧ x.chan = 4 ∧ P { f with out := s.fab.out ++ [x] }
  (∀ slot time, Does (.slotMarker slot time) s fun t => t = { s with fab := t.fab } ∧ ∃ cal nextCal, t.fab = { s.fab with
      skew := (time.toNat : Int) - s.time.toNat
      slot := slot
      slotTime := s.time
      guard := true
      ports := s.fab.ports.map live
      cal := cal
      nextCal := nextCal } ∧
    (∀ start c, s.fab.nextCal = some (start, c) → slot = 0 → start.toNat ≤ time.toNat → cal = c ∧ nextCal = none) ∧
    ((s.fab.nextCal = none ∨ slot ≠ 0 ∨ ∃ start c, s.fab.nextCal = some (start, c) ∧ time.toNat < start.toNat) → cal = s.fab.cal ∧ nextCal = s.fab.nextCal)) ∧
  (∀ (f : Fabric) (e : Nat), let k := f.corrections e
    100 * k ≤ e + f.age ∧ k ≤ f.skew.natAbs ∧ (f.skew < 0 → k ≤ e ∧ f.ticks e = e - k ∧ (f.corrected e).skew = f.skew + k) ∧
    (0 ≤ f.skew → f.ticks e = e + k ∧ (f.corrected e).skew = f.skew - k) ∧ (f.corrected e).age ≤ 100) ∧
  (s.fab.guard = true → 40 ≤ (s.time - s.fab.slotTime).toNat → Does .guardIntervalEnd s (fabOnly · { s.fab with guard := false })) ∧
  (∀ start table, (calOk s.pkg.toNat table = true → Does (.calendarLoad start table) s (fabOnly · { s.fab with nextCal := some (start, calEntries table) })) ∧
    (calOk s.pkg.toNat table = false → Does (.calendarLoad start table) s fun t => reported { s.fab with calRejects := s.fab.calRejects + 1 } (fabOnly t)) ∧
    (calOk s.pkg.toNat table = true → table.length = 16384) ∧
    ∀ slot port pkg, slot < 8 → port < 32 → pkg < 64 → table.length = 16384 →
      calByte (calEntries table) slot port pkg = (table.getD ((slot * 32 + port) * 64 + pkg) 0).toNat) ∧
  (∀ port p, s.fab.ports[port]? = some p →
    (∀ laser, Does (.portFailure port laser) s fun t => reported { s.fab with ports := s.fab.ports.set port (
      if p.dark = .dead then p
      else if (if laser then p.lasers else p.waves) = 0 then { p with dark := .dead }
      else if laser then { p with dark := .switching, lasers := p.lasers - 1 } else { p with dark := .switching, waves := p.waves - 1 }) } (fabOnly t)) ∧
    (p.dark = .switching → Does (.spareSwitchComplete port) s (fabOnly · { s.fab with ports := s.fab.ports.set port { p with dark := .switched } }))) ∧
  (∀ peer port b, Does (.blackoutNotice peer port b) s fun t => t = { s with fab := t.fab } ∧ t.fab = { s.fab with peerDark := t.fab.peerDark } ∧
    ((peer, port) ∈ t.fab.peerDark ↔ b = false) ∧ ∀ x, x ≠ (peer, port) → (x ∈ t.fab.peerDark ↔ x ∈ s.fab.peerDark)) ∧
  (∀ peer port, s.live peer port = true ↔ s.fab.guard = false ∧ s.peerOf s.fab.slot.toNat port s.pkg.toNat = some peer ∧ (s.port port).dark = .live ∧
    (peer, port) ∉ s.fab.peerDark) ∧
  (∀ (h : LinkHdr) (n : Nat), let t := (s.linkIn h n).linkFree h n
    let c := s.credit h.via
    fabOnly t { s.fab with
      acks := s.fab.acks ++ [(h.via, n)]
      credits := t.fab.credits } ∧ (∀ k, k ≠ h.via → t.credit k = s.credit k) ∧
    (c.freedByPeer.length = 5 → ∀ k < 5, (t.credit h.via).freedByPeer.getD k 0 = c.freedByPeer.getD k 0 +
      (if k = 3 then h.incAtomic.setWidth 32 else if k = 4 then h.incControl.setWidth 32 else 0)) ∧
    (t.credit h.via).freedHere = (if h.chan < 3 then c.freedHere.modify h.chan (· + BitVec.ofNat 32 n) else c.freedHere) ∧
    (t.credit h.via).owed = (if h.chan < 3 then c.owed else c.owed.modify (h.chan - 3) (· + n)) ∧ (t.credit h.via).sent = c.sent) ∧
  (∀ dst chan flits relay p h, s.path dst chan flits relay = some (p, h) → s.live h p = true ∧ s.fits flits = true ∧ (s.credit h).room chan flits = true ∧
    (h = dst ∨ (relay = true ∧ s.joined dst = false ∧ h ∈ s.relays dst))) ∧
  (∀ flits, s.fits flits = true ↔ 7 * (s.time - s.fab.slotTime).toNat + 4 * flits ≤ 17500) ∧
  (∀ peer k, k < 32 → s.live peer k = true → s.fits 1 = true → 586 ≤ (s.time - (s.port k).updated).toNat → Does (.creditUpdateSend peer) s fun t =>
    t = { s with fab := t.fab } ∧ t.credit peer = { s.credit peer with updated := s.time } ∧ ∃ p < 32, s.live peer p = true ∧
      586 ≤ (s.time - (s.port p).updated).toNat ∧ (p < s.fab.ports.length → (t.port p).updated = s.time) ∧
      ∃ x : Flit, t.fab.out = s.fab.out ++ [x] ∧ x.dst = peer ∧ x.chan = 4 ∧ x.body = ((s.credit peer).freedHere.take 3).flatMap fun v => leBytes 4 v.toNat) ∧
  (∀ peer freed, Does (.creditUpdateReceived peer freed) s fun t => t = { s with fab := t.fab } ∧ ∀ k < 5,
    (t.credit peer).freedByPeer.getD k 0 = if k < 3 ∧ k < freed.length then freed.getD k 0 else (s.credit peer).freedByPeer.getD k 0) ∧
  (∀ peer p, s.livePort peer = some p → s.fits 1 = true → (∃ n ∈ (s.credit peer).owed, n ≠ 0) → (s.credit peer).owed.length = 2 →
    Does (.creditIncrementFlit peer) s fun t => t = { s with fab := t.fab } ∧ ∃ x : Flit, t.fab.out = s.fab.out ++ [x] ∧ x.dst = peer ∧ x.body = [] ∧
      (p < s.fab.ports.length → x ∈ (t.port p).replay) ∧
      ∀ k < 2, (t.credit peer).owed.getD k 0 + (if k = 0 then x.incAtomic else x.incControl).toNat = (s.credit peer).owed.getD k 0) ∧
  (∀ x : Flit, let h : LinkHdr := ⟨x.src, x.chan, x.good, x.incAtomic, x.incControl⟩
    let u := s.linkIn h 1
    (x.good = false → exec (.relayFlitArrival x) s = .next s) ∧
    (x.good = true → x.dst = s.pkg.toNat → exec (.relayFlitArrival x) s = .next u) ∧
    (x.good = true → x.dst ≠ s.pkg.toNat → s.tooOld x.time = false →
      exec (.relayFlitArrival x) s = .next { u with fab := { u.fab with landing := s.fab.landing ++ [x] } }) ∧
    (x.good = true → x.dst ≠ s.pkg.toNat → s.tooOld x.time = true → exec (.relayFlitArrival x) s = .next (u.linkFree h 1))) ∧
  (∀ l xs, firstWhole l = some xs → ∃ x rest, l = xs ++ rest ∧ xs.getLast? = some x ∧ x.more = false ∧ ∀ y ∈ xs.dropLast, y.more = true) ∧
  (∀ (idx p : Nat) (x : Flit) (xs : List Flit), let same (y : Flit) : Bool := x.src == y.src && x.dst == y.dst && x.chan == y.chan
    s.fab.landing[idx]? = some x → s.livePort x.dst = some p → x.src ≠ x.dst →
    (∀ y ∈ s.fab.landing.take idx, same y = false) → firstWhole ((s.fab.landing.drop idx).filter same) = some xs →
    s.fits xs.length = true → (s.credit x.dst).room (nextChan x.chan) xs.length = true →
    Does (.relayForward idx) s fun t => t = { s with fab := t.fab } ∧ t.fab.landing = xs.foldl (fun (l : List Flit) y => l.erase y) s.fab.landing ∧
      t.credit x.src = (s.credit x.src).free x.chan xs.length ∧
      (t.credit x.dst).sent = (s.credit x.dst).sent.modify (nextChan x.chan) (· + BitVec.ofNat 32 xs.length) ∧
      ∃ ys : List Flit, t.fab.out = s.fab.out ++ ys ∧ ys.length = xs.length ∧ ∀ (k : Nat) (y z : Flit), ys[k]? = some y → xs[k]? = some z →
        (∃ a b, y = { z with hop := x.dst, chan := nextChan x.chan, incAtomic := a, incControl := b }) ∧ (p < s.fab.ports.length → y ∈ (t.port p).replay)) ∧
  (∀ x, Does (.flitAck x) s (fabOnly · { s.fab with ports := s.fab.ports.map fun (p : Port) => { p with replay := p.replay.filter (· ≠ x) } })) ∧
  ∀ (idx k p h : Nat) (x : Flit), (s.fab.ports.zipIdx.flatMap fun (q, k) => q.replay.map fun x => (k, x))[idx]? = some (k, x) →
    s.replayOn k x = some (p, h) → p < s.fab.ports.length → s.live h p = true ∧ (s.live x.hop k = true → p = k ∧ h = x.hop) ∧
      Does (.flitReplay idx) s fun t => t = { s with fab := t.fab } ∧ t.fab.out = s.fab.out ++ [{ x with hop := h }] ∧
        ({ x with hop := h } : Flit) ∈ (t.port p).replay ∧ (p ≠ k → x ∉ (t.port k).replay)

/-- R302, R326, R342, R347, R349, R358, R364 to R369, R373, R375, R389: what each command of the mailbox does and the status that it returns, with
memory otherwise as it was; in recovery only firmware is taken; register writes and reads; an event takes the next number and goes to the ring or
waits. The model's own choices here: where operands stand (assumption 18), VALID after a termination (assumption 86), the commands that return 0x02
(assumption 87), removal of keys (assumption 88), the reclaim queue's tail (assumption 89), command 0x00 (assumption 90), and when the rings are
served (assumption 122). -/
def Obligations.MailboxCommandsExecute : Prop :=
  (∀ (s : State) (c : Cmd), s.nextCmd = some c → memWf s →
    let dw (k : Nat) : Word := c.dws.getD (k - 1) 0
    let n (k : Nat) : Nat := (dw k).toNat
    let die := if c.die then 1 else 0
    let ends (i : Instr) (status : Nat) (P : State → Prop) : Prop := Does i s fun t => t.mbox.cmdHead = s.mbox.cmdHead + 1 ∧
      cellGet t.mem (s.mbox.cmdAddr + 5) = BitVec.ofNat 8 status ∧ P t
    let quiet (t : State) : Prop := ∀ a, a ≠ s.mbox.cmdAddr + 5 → cellGet t.mem a = cellGet s.mem a
    let still (t : State) : Prop := quiet t ∧ t = { s with
      mem := t.mem
      home := t.home
      poison := t.poison
      mbox := { s.mbox with cmdHead := s.mbox.cmdHead + 1 } }
    let plain (i : Instr) (op : Nat) (P : Prop) : Prop := (c.op.toNat = op → s.fw.recovery = false → P) ∧
      (c.op.toNat = op → op ≠ 0x0B → s.fw.recovery = true → ends i 3 still)
    let ctx := n 1
    let k := s.ctx ctx
    plain (.registerContext c) 0x01 ((64 ≤ ctx → ends (.registerContext c) 2 still) ∧ (ctx < 64 → ctx < s.ctxs.length →
      let admitted := ∃ l ∈ s.launches, l.lrec.ctx = ctx ∧ l.stage ≠ .complete
      let bad := (dw 2).getLsbD 0 = true ∧ (n 3 % 2 ^ 52 % 4096 ≠ 0 ∨ n 4 % 4096 ≠ 0)
      (k.valid = true → admitted → ends (.registerContext c) 3 still) ∧ (¬(k.valid = true ∧ admitted) → bad → ends (.registerContext c) 2 still) ∧
      (¬(k.valid = true ∧ admitted) → ¬bad → ends (.registerContext c) 0 fun t => quiet t ∧ t.teams = s.teams ∧ (t.ctx ctx).valid = (dw 2).getLsbD 0 ∧
        (t.ctx ctx).sys = (dw 2).getLsbD 1 ∧ (t.ctx ctx).root = n 2 / 2 ^ 12 % 2 ^ 40 * 4096 ∧ (t.ctx ctx).saveBase = n 3 % 2 ^ 52 ∧ (t.ctx ctx).saveSize = n 4 ∧
        (t.ctx ctx).wdog = n 5 / 2 ^ 32 % 2 ^ 16 ∧ (t.ctx ctx).drain = n 5 / 2 ^ 16 % 2 ^ 16 ∧ (t.ctx ctx).saveDl = n 5 % 2 ^ 16 ∧
        (t.ctx ctx).keys = [] ∧ (∀ d m, t.counter ctx d m = ⟨0, false⟩) ∧ (∀ d ∈ t.dies, ∀ x ∈ d.trigs, x.ctx ≠ ctx) ∧
        ∀ cl ∈ t.clusters, ∀ q ∈ cl.queues, q.owner ≠ some ctx))) ∧
    plain (.registerLaunchQueue c) 0x02 ((16 ≤ n 1 ∨ 64 ≤ n 2 → ends (.registerLaunchQueue c) 2 still) ∧
      (n 1 < 16 → n 2 < 64 → die < s.dies.length → n 1 < (s.die die).queues.length →
        let good := (s.ctx (n 2)).valid = true ∧ s.goodQueue (n 2) (n 3) ≠ none
        let set (on : Bool) (t : State) : Prop := (t.die die).queues.getD (n 1) none = some ⟨n 2, dw 3, on⟩ ∧ quiet t ∧ t.teams = s.teams
        ((dw 4).getLsbD 0 = false → ends (.registerLaunchQueue c) 0 (set false)) ∧ ((dw 4).getLsbD 0 = true → good → ends (.registerLaunchQueue c) 0 (set true)) ∧
        ((dw 4).getLsbD 0 = true → ¬good → ends (.registerLaunchQueue c) 2 (set false)))) ∧
    plain (.registerReclaimQueue c) 0x03 (
      let good := n 1 % 16 = 0 ∧ (∃ e, n 2 = 2 ^ e) ∧ n 3 % 8 = 0 ∧ (isHbm (n 1) = true ∨ isHost (n 1) = true) ∧ (isHbm (n 3) = true ∨ isHost (n 3) = true)
      (good → ends (.registerReclaimQueue c) 0 fun t => t.reclaim = some ⟨n 1, n 2, n 3, 0⟩ ∧ quiet t ∧ t.teams = s.teams) ∧
      (¬good → ends (.registerReclaimQueue c) 2 still)) ∧
    plain (.requantiserThreshold c) 0x04 (die < s.dies.length → ends (.requantiserThreshold c) 0 fun t => (t.die die).threshold = n 1 ∧ quiet t ∧ t.teams = s.teams) ∧
    plain (.invalidateTranslation c) 0x05 ((64 ≤ ctx → ends (.invalidateTranslation c) 2 still) ∧ (ctx < 64 → ends (.invalidateTranslation c) 0 fun t =>
      quiet t ∧ t.teams = s.teams ∧ ∀ e, e ∈ t.tlb ↔ e ∈ s.tlb ∧ (e.ctx ≠ ctx ∨ ((dw 3).getLsbD 0 = false ∧ e.vpage * 4096 / e.size ≠ n 2 / e.size)))) ∧
    plain (.pageReply c) 0x06 (
      let q : PageReq := ⟨ctx, n 2 / 4096, die⟩
      let answered (t : State) : Prop := q ∉ t.pageReqs ∧ ∀ r T F w, s.team? r.team = some T → T.fibre? r.fid = some F → T.ctx = ctx → F.pageWait = some w →
        (∃ a ∈ w.vas, a.toNat / 4096 = n 2 / 4096) → T.coreOf r.fid / 64 = die → ∃ G, t.fibre? r = some G ∧ G.pageWait = none ∧ ((dw 3).getLsbD 0 = false → G = { F with
          pageWait := none
          fetched := false })
      (64 ≤ ctx → ends (.pageReply c) 2 still) ∧ (ctx < 64 → k.dying = true ∨ q ∉ s.pageReqs → ends (.pageReply c) 1 still) ∧
      (ctx < 64 → k.dying = false → q ∈ s.pageReqs → (dw 3).getLsbD 0 = false ∨ s.canPost = true → ends (.pageReply c) 0 answered)) ∧
    plain (.preemptContext c) 0x07 ((64 ≤ ctx ∨ k.valid = false → ends (.preemptContext c) 2 still) ∧
      (ctx < 64 → k.valid = true → k.preempt ≠ none → ends (.preemptContext c) 1 still) ∧
      (ctx < 64 → ctx < s.ctxs.length → k.valid = true → k.preempt = none → ends (.preemptContext c) 0 fun t => t.ctx ctx = { k with preempt := some s.time } ∧ quiet t ∧ t.teams = s.teams)) ∧
    plain (.liftPreemption c) 0x08 ((64 ≤ ctx → ends (.liftPreemption c) 2 still) ∧ (ctx < 64 → k.preempt = none → ends (.liftPreemption c) 1 still) ∧
      (ctx < 64 → k.preempt ≠ none → ends (.liftPreemption c) 0 fun t => t.ctx ctx = { k with preempt := none } ∧ quiet t ∧ t.teams = s.teams)) ∧
    plain (.terminateContext c) 0x09 ((64 ≤ ctx ∨ k.valid = false → ends (.terminateContext c) 2 still) ∧
      (ctx < 64 → k.valid = true → k.dying = true → ends (.terminateContext c) 1 still) ∧
      (ctx < 64 → ctx < s.ctxs.length → k.valid = true → k.dying = false → s.canPost = true → ends (.terminateContext c) 0 fun t =>
        ∃ u, Terminated ctx (termWord ctx 7 0 0) s u ∧ t = { u with
          mem := t.mem
          home := t.home
          poison := t.poison
          mbox := t.mbox })) ∧
    plain (.registerWindowKey c) 0x0A (
      let y := keyOf c
      (keyBad s.pkg.toNat c = true → ends (.registerWindowKey c) 2 still) ∧
      (keyBad s.pkg.toNat c = false → (dw 1).toNat / 2 ^ 58 < s.ctxs.length → ends (.registerWindowKey c) 0 fun t => quiet t ∧ t.teams = s.teams ∧
        (∀ x, (x.exp = y.exp ∧ x.index = y.index) → (x ∈ (t.ctx ((dw 1).toNat / 2 ^ 58)).keys ↔ (dw 1).getLsbD 56 = true ∧ x = y)) ∧
        ∀ x, ¬(x.exp = y.exp ∧ x.index = y.index) → (x ∈ (t.ctx ((dw 1).toNat / 2 ^ 58)).keys ↔ x ∈ (s.ctx ((dw 1).toNat / 2 ^ 58)).keys))) ∧
    (c.op.toNat = 0x0B → ends (.firmwareChunk c) 0 fun t => quiet t ∧ t.teams = s.teams ∧ t.fw = { s.fw with
      chunks := s.fw.chunks ++ [(dw 1, cellsGet s.mem (hostBase + n 3 % 2 ^ 45) (n 2))] }) ∧
    plain (.setPowerLimit c) 0x0C ((n 1 < 1200 ∨ 2400 < n 1 → ends (.setPowerLimit c) 2 still) ∧ (1200 ≤ n 1 → n 1 ≤ 2400 → ends (.setPowerLimit c) 0 fun t =>
      t.power.setLimit.toNat = n 1 ∧ (s.power.tjmax.toNat ≤ 100 → t.power.limit.toNat = n 1) ∧ quiet t ∧ t.teams = s.teams)) ∧
    (c.op.toNat = 0 ∨ 0x0D ≤ c.op.toNat → s.fw.recovery = false → ends (.reservedCommand c) 2 still) ∧
    (c.op.toNat = 0 ∨ 0x0D ≤ c.op.toNat → s.fw.recovery = true → ends (.reservedCommand c) 3 still)) ∧
  (∀ (s : State) (offset : Nat) (v : Word), s.mbox.held = [] → s.mbox.waiting = [] → exec (.mailboxRegisterWrite offset v) s = .next { s with mbox := { s.mbox with
    cmdBase := if offset = 0x00 then v else s.mbox.cmdBase
    cmdSize := if offset = 0x08 then v else s.mbox.cmdSize
    cmdTail := if offset = 0x10 then v else s.mbox.cmdTail
    evBase := if offset = 0x20 then v else s.mbox.evBase
    evSize := if offset = 0x28 then v else s.mbox.evSize
    evHead := if offset = 0x30 then v else s.mbox.evHead } }) ∧
  (∀ (s : State), s.nextCmd = none ∨ (s.mbox.cmdReady = true ∧ (s.attach.cacheOn = true ∨ s.fw.recovery = true) ∧ s.down = false ∧
    s.attach.retry = false)) ∧
  (∀ (s : State) (v : Word), (∀ m ∈ [0x00, 0x08, 0x10, 0x20, 0x28, 0x30], ({ s with mbox := s.mbox.write m v } : State).mailboxRead m = v) ∧
    (∀ m, ¬(m % 8 = 0 ∧ m ≤ 0x50) → s.mailboxRead m = 0) ∧ s.mailboxRead 0x18 = s.mbox.cmdHead ∧ s.mailboxRead 0x38 = s.mbox.evTail ∧
    s.mailboxRead 0x40 = s.mbox.evLost ∧ s.mailboxRead 0x50 = BitVec.ofNat 64 (s.fw.version.toNat * 2 ^ 32 + s.fw.svn.toNat * 2 ^ 16 +
      (if s.fw.rsaOk then 4 else 0) + (if s.fw.slhOk then 2 else 0) + (if s.fw.recovery then 1 else 0))) ∧
  ∀ (s : State) (kind : Nat) (rec : List Word),
    let t := s.event kind false rec
    let len := (rec.length + 3) / 2
    let entry := BitVec.ofNat 64 (kind * 2 ^ 56 + len * 2 ^ 40) :: (s.mbox.evSeq + 1) :: (rec ++ if rec.length % 2 = 0 then [] else [0])
    t.mbox.evSeq = s.mbox.evSeq + 1 ∧ t.teams = s.teams ∧
    (s.mbox.held = [] → s.attach.cacheOn = true → len ≤ s.mbox.room → t.mbox.held = [] ∧ t.mbox.evTail = s.mbox.evTail + BitVec.ofNat 64 len ∧
      (memWf s → len ≤ s.mbox.evSize.toNat → s.mbox.evBase.toNat + s.mbox.evSize.toNat * 16 ≤ 2 ^ 45 → ∀ j < len, ∀ k < 16,
        cellGet t.mem (hostBase + s.mbox.evBase.toNat + (s.mbox.evTail.toNat + j) % s.mbox.evSize.toNat * 16 + k) =
          BitVec.ofNat 8 ((entry.getD (2 * j + k / 8) 0).toNat / 2 ^ (8 * (k % 8))))) ∧
    (s.mbox.held = [] → s.attach.cacheOn = false ∨ s.mbox.room < len → t = { s with mbox := { s.mbox with evSeq := s.mbox.evSeq + 1, held := [entry] } })

/-- R189, R190, R237, R277, R285, R360, R361, R368: an error that is corrected is counted and recorded; one that is not poisons what it hits, or,
where the state has no poison, ends the owning context; a bridge flit that never arrives ends every context. The model's own choices here: an error is
the input that reports it (assumption 8), the counts of corrected errors (assumption 91), ARRAY of some records (assumption 92), which tape row is hit
(assumptions 93, 123), and the reset that a bridge failure asks for (assumption 95). -/
def Obligations.ErrorsPoisonOrEnd : Prop := ∀ (s : State), memWf s → s.canPost2 = true →
  let posts (t : State) : Prop := t.mbox.evSeq = s.mbox.evSeq + 1
  let sameBits (a a' : TapeArea) : Prop := (a'.tapes.map fun x => (x.team, x.tid, x.records.map fun y =>
      (y.entry, y.mask, y.preds, y.regs.map fun z => (z.1, z.2.1.val, z.2.1.tag, z.2.2)))) =
    a.tapes.map fun x => (x.team, x.tid, x.records.map fun y => (y.entry, y.mask, y.preds, y.regs.map fun z => (z.1, z.2.1.val, z.2.1.tag, z.2.2)))
  let coreCounted (core : Nat) (t : State) : Prop := t.teams = s.teams ∧ sameDevice s t ∧ (t.core core) = { s.core core with corrected := (s.core core).corrected + 1 }
  (∀ e : SramError, s.sramOk e = true → match e.target with
    | .scratchWord b off => b = e.bank.toNat ∧ off / 8 = e.word.toNat
    | .accElem b off => b < 8 ∧ b = e.bank.toNat ∧ off / 8 = e.word.toNat
    | .regRow r _ _ => ∃ T, s.team? r.team = some T ∧ T.ctx = e.ctx.toNat ∧ T.coreOf r.fid = e.core
    | .fifoWord team _ => ∃ T, s.team? team = some T ∧ T.ctx = e.ctx.toNat
    | .galleryRow b _ _ => ∃ x T, (s.core e.core).gallery[b]? = some (some x) ∧ s.team? x.team = some T ∧ T.ctx = e.ctx.toNat
    | .l1Line b => b = e.bank.toNat
    | .clauseCache => True) ∧
  (∀ e : SramError, e.core < s.cores.length → s.sramOk e = true →
    (e.uncorrectable = false → Does (.sramEccError e) s fun t => posts t ∧ coreCounted e.core t) ∧
    (e.uncorrectable = true → Does (.sramEccError e) s fun t => posts t ∧
      (match e.target with
        | .regRow r n l => ∀ T F, s.team? r.team = some T → T.fibre? r.fid = some F → n < T.nregs F → (regAt t r n).shape = (regAt s r n).shape ∧
          ∀ k, rowAt t r n k = if k = l then { rowAt s r n k with poison := true } else rowAt s r n k
        | .scratchWord b off => t.teams = s.teams ∧ (b < (s.core e.core).banks.length → ∀ x, x ∈ ((t.core e.core).banks.getD b ⟨.free, [], []⟩).poison ↔
          x ∈ ((s.core e.core).banks.getD b ⟨.free, [], []⟩).poison ∨ x = off / 8)
        | .accElem b off => t.teams = s.teams ∧ (b < (s.core e.core).acc.length → ∀ x, x ∈ ((t.core e.core).acc.getD b .reset).poison ↔
          x ∈ ((s.core e.core).acc.getD b .reset).poison ∨ x = off / 4)
        | .galleryRow bin th reg => t.teams = s.teams ∧ ∀ b x, (s.core e.core).gallery[bin]? = some (some b) → b.threads[th]? = some x →
          ∃ b' x', (t.core e.core).gallery[bin]? = some (some b') ∧ b'.threads[th]? = some x' ∧ x'.thread = x.thread ∧
            x'.regs = x.regs.map fun y => if y.1 = reg then (y.1, { y.2 with poison := true }) else y
        | .fifoWord team tid => t.teams = s.teams ∧ ∀ T a, s.team? team = some T → s.area? (s.recOf T) = some a →
          let here (x : Tape) (y : TapeRec) : Prop := x.team = T.index ∧ x.tid.toNat = tid ∧ y ∈ x.records ∧ ∃ i ∈ T.ring, i.entry = y.entry
          (∀ x ∈ a.tapes, ∀ y, here x y → y.regs = []) ∨ ∃ a' ∈ t.areas, a'.ctx = a.ctx ∧ a'.base = a.base ∧ sameBits a a' ∧
            ∃ x ∈ a'.tapes, ∃ y, here x y ∧ ∃ z ∈ y.regs, z.2.1.poison = true
        | .l1Line _ => t.teams = s.teams ∧ t.cores = s.cores
        | .clauseCache => t.teams = s.teams ∧ t.cores = s.cores) ∧ sameDevice s t)) ∧
  (∀ e : StateError, e.core < s.cores.length →
    (e.uncorrectable = false → Does (.uncorrectableStateError e) s fun t => posts t ∧ coreCounted e.core t) ∧
    (e.uncorrectable = true → e.ctx.toNat < s.ctxs.length → (s.ctx e.ctx.toNat).dying = false →
      Does (.uncorrectableStateError e) s fun t => ∃ u, Terminated e.ctx.toNat (termWord e.ctx.toNat 8 0 0) u t ∧ u.teams = s.teams ∧ u.mbox.evSeq = s.mbox.evSeq + 1)) ∧
  (∀ e : ClusterError, e.cluster < s.clusters.length →
    (e.uncorrectable = false → Does (.clusterEccError e) s fun t => posts t ∧ t.teams = s.teams ∧ t.clusters = s.clusters ∧ sameDevice s t) ∧
    (e.uncorrectable = true → match e.target with
      | .rasteriser _ => e.ctx.toNat < s.ctxs.length → (s.ctx e.ctx.toNat).dying = false →
        Does (.clusterEccError e) s fun t => ∃ u, Terminated e.ctx.toNat (termWord e.ctx.toNat 6 0 0) u t ∧ u.teams = s.teams ∧ u.mbox.evSeq = s.mbox.evSeq + 1
      | .messageRow q m l => Does (.clusterEccError e) s fun t => posts t ∧ t.teams = s.teams ∧ sameDevice s t ∧ ∀ x, (s.msgQueue e.cluster q).msgs[m]? = some x →
        ∃ y, (t.msgQueue e.cluster q).msgs[m]? = some y ∧ y.tag = x.tag ∧ y.poison = x.poison ∧ ∀ k, y.rows.getD k none = if k = l then (x.rows.getD k none).map
          (fun z => { z with poison := true }) else x.rows.getD k none
      | .messageHeader q m => Does (.clusterEccError e) s fun t => posts t ∧ t.teams = s.teams ∧ sameDevice s t ∧ ∀ x, (s.msgQueue e.cluster q).msgs[m]? = some x →
        (t.msgQueue e.cluster q).msgs[m]? = some { x with poison := true }
      | .reservation k => Does (.clusterEccError e) s fun t => posts t ∧ t.teams = s.teams ∧ sameDevice s t ∧ ∀ g, (s.cluster e.cluster).table[k]? = some g →
        (t.cluster e.cluster).table[k]? = some { g with poison := true })) ∧
  (∀ e : MemoryError, isHbm e.addr = true ∨ isHost e.addr = true → e.unit.toNat ≤ 1 →
    (e.uncorrectable = false → Does (.memoryEccError e) s fun t => posts t ∧ t.teams = s.teams ∧ t.corrected = s.corrected + 1 ∧ sameDevice s t) ∧
    (e.uncorrectable = true → Does (.memoryEccError e) s fun t => posts t ∧ t.teams = s.teams ∧ (isHbm e.addr = true → e.addr / 64 ∈ t.poison) ∧ sameDevice s t ∧
      let u := { s with poison := marks s.poison [e.addr / 64] }
      ((∀ a ∈ s.areas, u.areaCovers a e.addr = false) → t.areas = s.areas) ∧
      ∀ a, s.areas = [a] → u.areaCovers a e.addr = true → u.spilledRows a ≠ [] → ∃ a', t.areas = [a'] ∧ sameBits a a' ∧
        ∃ x ∈ a'.tapes, ∃ y ∈ x.records, ∃ z ∈ y.regs, z.2.1.poison = true)) ∧
  (∀ target, Does (.scatterUnitError target false) s fun t => posts t ∧ t.teams = s.teams ∧
    (((∀ a ∈ s.accs, a.target ≠ target) ∧ t.accs = s.accs) ∨
      ∃ b ∈ s.accs, b.target = target ∧ t.accs = s.accs.map fun a => if a = b then { a with pois := true } else a)) ∧
  (∀ target, (∀ l ∈ s.launches, l.recordOf target = none) → Does (.scatterUnitError target true) s fun t => posts t ∧ t.teams = s.teams ∧ t.accs = s.accs) ∧
  (∀ addr, isHbm addr = true → exec (.patrolScrub addr) s = .next s) ∧
  (∀ n, n < 16 → exec (.bridgeFlitFailure n) s = .next s) ∧
  ∀ n, 16 ≤ n → s.mbox.held.length + (s.ctxs.filter fun c => c.valid).length ≤ 1024 → Does (.bridgeFlitFailure n) s fun t => t.down = true ∧
    ∀ k < s.ctxs.length, (s.ctx k).valid = true → (t.ctx k).dying = true

/-- R283, R293, R363, R370 to R375: host accesses and snoops; configuration; reset brings up verified firmware, a loss of power or a thermal trip
leaves nothing running; caps fall while the demand is above the limit; SPDM requests and IDE keys are taken and answered. The model's own choices
here: contents of SPDM answers (assumption 7), the HDM window (assumption 94), what survives a reset (assumption 96), the arbiter's demand (assumption
97), when a KIND 7 event is written (assumption 98), and that these acts are inputs (assumption 102). -/
def Obligations.PackageEventsAct : Prop := ∀ (s : State),
  (∀ addr la, hdmLocal s.attach.hdmBase addr = some la → s.attach.memOn = true → s.fw.recovery = false →
    let p := s.place (s.pkg.toNat * 2 ^ 46 + la)
    (∀ n, n ≠ 0 → la / 4096 = (la + n - 1) / 4096 → exec (.hostMemAccess (.read addr n)) s =
      .next { s with attach := { s.attach with reads := s.attach.reads ++ [(s.readPlace p n).1] } }) ∧
    ∀ bs, bs ≠ [] → la / 4096 = (la + bs.length - 1) / 4096 → memWf s → (∀ b ∈ s.namedPages, b / 65536 ≠ la / 65536) → Does (.hostMemAccess (.write addr bs)) s fun t => t.teams = s.teams ∧
      (∀ k < bs.length, placeByte t (p.add k) = bs.getD k 0) ∧ ∀ x, (∀ k < bs.length, p.add k ≠ x) → placeByte t x = placeByte s x) ∧
  (∀ base addr la, hdmLocal base addr = some la ↔ base ≤ addr ∧ ((addr - base < 0x3000000000 ∧ la = addr - base) ∨
    (0x3000000000 ≤ addr - base ∧ addr - base < 0x6000000000 ∧ la = addr - base + 0x1000000000))) ∧
  (s.fw.recovery = true → (∀ a, exec (.hostMemAccess a) s = .fault .notDue) ∧ ∀ line stores, exec (.hostSnoop line stores) s = .fault .notDue) ∧
  (∀ line stores, s.attach.cacheOn = true → s.fw.recovery = false → isHost line = true → line % 64 = 0 → (∀ c ∈ stores, line ≤ c.1 ∧ c.1 < line + 64) → (stores.map (·.1)).Nodup → memWf s →
    (∀ m h p, ({ s with mem := m, home := h, poison := p } : State).bankOf line = none) → Does (.hostSnoop line stores) s fun t => t.teams = s.teams ∧
      t.attach = { s.attach with snooped := s.attach.snooped ++ [line] } ∧ (∀ c ∈ stores, cellGet t.mem c.1 = c.2) ∧
      ∀ a, (∀ c ∈ stores, c.1 ≠ a) → cellGet t.mem a = cellGet s.mem a) ∧
  (s.attach.retry = true → ∀ q, exec (.configurationRequest q) s = .next s) ∧
  (s.attach.retry = false → exec (.configurationRequest .read) s = .next s ∧ ∀ mem cache base, exec (.configurationRequest (.enable mem cache base)) s =
    .next { s with attach := { s.attach with memOn := mem, cacheOn := cache, hdmBase := base } }) ∧
  (∀ pkg, Does (.packageReset pkg) s fun t => t.teams = [] ∧ t.launches = [] ∧ t.time = 0 ∧ t.on = true ∧ t.down = false ∧ t.pkg = pkg ∧ t.ctxs = State.reset.ctxs ∧ t.fab = State.reset.fab ∧
    t.tlb = [] ∧ (memWf s → ∀ a, cellGet t.mem a = if isHost a then cellGet s.mem a else 0) ∧
    let img := s.fw.found
    t.attach.retry = true ∧ t.fw.image = img ∧ t.fw.chunks = [] ∧ (s.fw.chunks = [] → img = s.fw.image) ∧
    let ok := img.rsaOk = true ∧ img.slhOk = true ∧ s.fw.svn.toNat ≤ img.svn.toNat
    (t.fw.recovery = false ↔ ok) ∧ (ok → t.fw.version = img.version ∧ t.fw.svn = img.svn) ∧ (¬ok → t.fw.version = 0 ∧ t.fw.svn = s.fw.svn)) ∧
  (∀ i, i = .powerLoss ∨ i = .thermalTrip → Does i s fun t => t.on = false ∧ t.teams = [] ∧ t.launches = [] ∧ t.fw.svn = s.fw.svn ∧ t.fw.image = s.fw.image ∧
    t.fw.chunks = s.fw.chunks ∧ (memWf s → ∀ a, cellGet t.mem a = if isHost a then cellGet s.mem a else 0)) ∧
  (∀ (draw : BitVec 16) (grad fwd : Nat), 1 ≤ s.power.gcap.toNat → s.power.gcap.toNat ≤ 8 → 1 ≤ s.power.fcap.toNat → s.power.fcap.toNat ≤ 8 →
    Does (.powerArbiterPeriod draw grad fwd) s fun t => t = { s with power := t.power } ∧
      let d (p : Power) : Nat := 8 * draw.toNat - grad * 22 * (8 - p.gcap.toNat) - fwd * 6 * (8 - p.fcap.toNat)
      let lim := 8 * s.power.limit.toNat
      t.power.draw.toNat = d t.power / 8 ∧ 1 ≤ t.power.gcap.toNat ∧ t.power.gcap.toNat ≤ 8 ∧ 1 ≤ t.power.fcap.toNat ∧ t.power.fcap.toNat ≤ 8 ∧
      (lim < d s.power → t.power.gcap.toNat ≤ s.power.gcap.toNat ∧ t.power.fcap.toNat ≤ s.power.fcap.toNat ∧
        (d t.power ≤ lim ∨ (t.power.gcap.toNat = 1 ∧ t.power.fcap.toNat = 1)) ∧ (t.power.fcap ≠ s.power.fcap → t.power.gcap.toNat = 1)) ∧
      (d s.power ≤ lim → s.power.gcap.toNat ≤ t.power.gcap.toNat ∧ s.power.fcap.toNat ≤ t.power.fcap.toNat ∧ d t.power ≤ lim)) ∧
  (∀ tj : BitVec 8, tj.toNat < 110 → s.canPost = true →
    let lim := s.power.setLimit - BitVec.ofNat 16 (25 * (tj.toNat - 100))
    Does (.thermalLimitChange tj) s fun t => t.teams = s.teams ∧ t.power = { s.power with tjmax := tj, limit := lim, therm := decide (100 < tj.toNat) } ∧
      t.mbox.evSeq = s.mbox.evSeq + (if lim = s.power.limit ∧ s.power.therm = decide (100 < tj.toNat) then 0 else 1)) ∧
  ∀ req, let answered (i : Instr) (n : Nat) : Prop := Does i s fun t => t = { s with attach := t.attach } ∧ ∃ bs keys,
      t.attach = { s.attach with doe := s.attach.doe ++ [(n, bs)], ideKeys := keys } ∧
      keys = (if n = 8 then s.attach.ideKeys ++ [req] else s.attach.ideKeys)
    answered (.getVersion req) 0 ∧ answered (.getCapabilities req) 1 ∧ answered (.negotiateAlgorithms req) 2 ∧ answered (.getDigests req) 3 ∧
    answered (.getCertificate req) 4 ∧ answered (.challenge req) 5 ∧ answered (.keyExchange req) 7 ∧ answered (.ideKm req) 8 ∧
    Does (.getMeasurements req) s fun t => t = { s with attach := t.attach } ∧ ∃ body,
      let tr := s.attach.doe.flatMap (·.2) ++ req ++ body
      t.attach = { s.attach with doe := s.attach.doe ++ [(6, body ++ Config.rsaSignature tr ++ Config.slhSignature tr)] }

/-- R41, R67, R75, R174, R175, R328, R329: a step at which a bundle issues a word that decodes to an instruction is exec of that instruction, after
which time passes; a word that does not decode takes the illegal-instruction exception at the first offending field; what may come next: each
scheduler issues from the slot that has gone longest without issue, and overdue slots first. The model's own choices here: the order of what may come
next (assumption 1), the time that passes (assumption 2), and which field of a word that does not decode comes first (assumption 17). -/
def Obligations.StepRunsTheDecodedInstruction : Prop :=
  (∀ (t : State), t.advance = { t with
    time := t.time + BitVec.ofNat 64 (t.fab.ticks (Config.elapsedNs t.tick))
    clock := t.clock + Config.elapsedClocks t.tick
    tick := t.tick + 1
    attach := t.advance.attach
    fab := t.advance.fab
    cur := none } ∧ (t.attach.retry = false → t.advance.attach = t.attach) ∧
    (t.fab.sendQ = [] → t.advance.fab = t.fab.corrected (Config.elapsedNs t.tick)) ∧ t.advance.fab.reqs = t.fab.reqs) ∧
  (∀ (s : State) (r : FibreRef) (w : Word), s.cur = some r → s.issuing? r = some w →
    (∀ i, decodeWord w = .ok i → (∀ t, exec i s = .next t → step s = .next t.advance) ∧ (∀ e, exec i s = .fault e → step s = .fault e) ∧
      ∀ e, exec i s = .refused e → step s = .refused e) ∧
    ∀ e, decodeWord w = .error e → ∀ T F is, s.team? r.team = some T → T.fibre? r.fid = some F → F.issue = some is → F.interlocked T [] = false →
      F.handler = none → targetOk (s.recOf T) F.tvec = true → F.ops.any Op.isWindow = false → ∃ t, step s = .next t ∧ sameMemory s t ∧ sameRegs s t ∧
        ∃ G, t.fibre? r = some G ∧ G.tpc = is.addr ∧ G.handler = some ⟨is.hdr, maskOf F.bundle⟩ ∧
          G.frec = ⟨BitVec.ofNat 64 (1 * 2 ^ 56 + fieldOf w e.bit * 2 ^ 52 + e.bit % 2 ^ 16 * 2 ^ 32 + w.toNat / 2 ^ 32), 0, maskOf F.bundle, s.time⟩ ∧
          ∀ l ∈ F.bundle, atHeader (G.thread l) F.tvec) ∧
  (∀ (s : State) (r : FibreRef) (w : Word) (i : Instr), s.cur = none → s.works.getD (Config.choice s.tick % s.works.length) .idle = .instr r w →
    decodeWord w = .ok i → step s = step { s with cur := some r } ∧ s.issuing? r = some w ∧ (∀ t, exec i { s with cur := some r } = .next t → step s = .next t.advance)) ∧
  (∀ (s : State) (i : Instr), s.cur = none → s.works.getD (Config.choice s.tick % s.works.length) .idle = .event i →
    ∃ t, exec i s = .next t ∧ step s = .next t.advance) ∧
  (∀ (s : State) (c : Cmd), s.cur = none → s.works.getD (Config.choice s.tick % s.works.length) .idle = .command c →
    ∃ t, s.nextCmd = some c ∧ runCommand c s = .next t ∧ step s = .next t.advance) ∧
  (∀ (s : State) (i : Instr), s.cur = none → s.works.getD (Config.choice s.tick % s.works.length) .idle = .input i →
    ∃ t rest, s.inbox = i :: rest ∧ exec i { s with inbox := rest } = .next t ∧ step s = .next t.advance ∧
      (s.attach.retry = true → earlyInput i = true)) ∧
  (∀ (s : State) (r : FibreRef) (w : Word), s.issuing? r = some w ↔ ∃ T F is, s.team? r.team = some T ∧ T.fibre? r.fid = some F ∧ F.issue = some is ∧
    is.ended = false ∧ F.pageWait = none ∧ s.mayIssue T F = true ∧ w = is.words.getD is.idx 0) ∧
  ∀ (s : State), s.on = true →
    let may (w : Work) : Prop := (∃ r x, w = .instr r x ∧ r ∈ s.refs ∧ s.issuing? r = some x ∧ s.reformWaits w = false) ∨
      (∃ i, w = .event i ∧ i ∈ s.events ∧ ∃ t, exec i s = .next t) ∨ w ∈ s.commandWork ∨ w ∈ s.inputWork
    let key (w : Work) : Option (Nat × Nat × Nat) := w.fibre?.bind s.slotKey
    let first (w : Work) : Prop := ∀ v j k, may v → s.issues v = true → key v = some j → key w = some k → j.1 = k.1 → j.2.1 = k.2.1 → k.2.2 ≤ j.2.2
    (∀ w ∈ s.works, may w ∧ (s.issues w = true → first w)) ∧
    (∀ w, may w → (s.issues w = true → first w) → (∀ v, may v → s.issues v = true → s.overdue v = false) → w ∈ s.works) ∧
    ∀ w v, w ∈ s.works → v ∈ s.works → s.issues v = true → s.overdue v = true → s.issues w = true ∧ s.overdue w = true

/-- R29, R75 to R84, R90 and the entries' encoding tables: what some words of the spec are. -/
def Obligations.WordsDecode : Prop :=
  let g : Guard := ⟨false, false, 7⟩
  let v (d a b c mods permA permB p clamp scale : Nat) (g : Guard) : VF := ⟨BitVec.ofNat 6 d, BitVec.ofNat 6 a, BitVec.ofNat 6 b, BitVec.ofNat 6 c, BitVec.ofNat 6 mods,
    BitVec.ofNat 3 permA, BitVec.ofNat 3 permB, BitVec.ofNat 6 p, BitVec.ofNat 2 clamp, BitVec.ofNat 3 scale, g⟩
  decodeWord 0xE000800000200007#64 = .ok (.sget ⟨2, 0, 0x002, g⟩) ∧
  decodeWord 0xE200000012300007#64 = .ok (.trap ⟨0, 0, 0x123, g⟩) ∧
  decodeWord 0xE401000000200007#64 = .ok (.tinv ⟨4, 0, 2, g⟩) ∧
  decodeWord 0xE600090000000007#64 = .ok (.halt ⟨0, 9, 0, g⟩) ∧
  decodeWord 0x42A0C41468010502#64 = .ok (.ffma .f32 (v 3 4 5 6 0x20 0 1 1 1 0 ⟨false, false, 2⟩)) ∧
  decodeWord 0x0351010820000007#64 = .ok (.imul .n32 (v 4 1 2 2 0 0 0 0 0 0 g)) ∧
  decodeWord 0x7205000000080007#64 = .ok (.call ⟨20, 32, g⟩) ∧
  decodeWord 0x808143FC00020007#64 = .ok (.ld .b64 ⟨5, 3, 63, 8, 0, false, 0, 0, g⟩) ∧
  decodeWord 0xA2081201000001E7#64 = .ok (.mma 0 ⟨8, 1, 2, 0, false, true, false, false, 0, 0, 15, g⟩) ∧
  decodeWord 0xB000280000000007#64 = .ok (.trec ⟨0, 0x28, 0, g⟩) ∧
  decodeWord 0xC005010850000007#64 = .ok (.boxt (v 20 1 2 5 0 0 0 0 0 0 g)) ∧
  decodeWord 0xD2028B30002529E7#64 = .ok (.put ⟨10, 11, 12, 0x94, 2, true, 0, 15, g⟩) ∧
  decodeWord 0xFF00000000000007#64 = .error .reservedMajor ∧
  decodeWord 0xE00E000000200007#64 = .error (.badField 46)

/-- R75 to R84, R90: encoding and decoding agree on every instruction and every word; every instruction of the table of words has one, and bytes are
decoded lowest first. -/
def Obligations.EncodeAndDecodeAgree : Prop :=
  (∀ (i : Instr) (w : Word), i.firstBad = none → encode i = some w → decodeWord w = .ok i) ∧
  (∀ (i : Instr) (w : Word), decodeWord w = .ok i → i.firstBad = none ∧ encode i = some w) ∧
  (∀ (i j : Instr) (w : Word), i.firstBad = none → j.firstBad = none → encode i = some w → encode j = some w → i = j) ∧
  ∀ (i : Instr) (w : Word) (rest : List Byte), decodeWord w = .ok i → decode (leBytes 8 w.toNat ++ rest) = .ok (i, rest) ∧ decodeTableWord 64 w.toNat = some i

/-- The memory, the pool banks and the accumulator banks keep their one canonical form through every step (the model's form of the byte-addressed
memory of R5). -/
def Obligations.EveryStepKeepsMemoryCanonical : Prop := ∀ (s t : State), memWf s → step s = .next t → memWf t

/-- R8, R27, R342, R362, R370: after reset memory reads zero and is in its canonical form, time is zero, no context is valid, no launch and no team
stand; a placed word is the next to issue. The model's own choices here: how a program comes to run from reset (assumption 13), that memory which
nothing has written reads zero (assumption 14), and zero wherever the spec gives no reset value (assumption 106). -/
def Obligations.ResetStartsEmpty : Prop :=
  memWf State.reset ∧ (∀ a, cellGet State.reset.mem a = 0) ∧ State.reset.time = 0 ∧ (∀ k, (State.reset.ctx k).valid = false) ∧ State.reset.teams = [] ∧
  State.reset.launches = [] ∧ State.reset.tlb = [] ∧ State.reset.on = true ∧ (∀ k d n, State.reset.counter k d n = ⟨0, false⟩) ∧
  (∀ w, memWf (State.reset.withFetchWord 64 w)) ∧
  ∀ w : Word, ∃ r, (State.reset.withFetchWord 64 w.toNat).cur = some r ∧ (State.reset.withFetchWord 64 w.toNat).issuing? r = some w
end

