-- ==== Sys2Proof/Laws/State.lean ====
section
/-! SUPPORT. Every field after every named update of the state: the updates touch the field they name and no other. -/

namespace Sys2Proof.Machine

/-! ### modTeam -/

@[simp] theorem State.modTeam_time (s : State) (u : Nat) (f : Team → Team) : (s.modTeam u f).time = s.time := rfl
@[simp] theorem State.modTeam_clock (s : State) (u : Nat) (f : Team → Team) : (s.modTeam u f).clock = s.clock := rfl
@[simp] theorem State.modTeam_tick (s : State) (u : Nat) (f : Team → Team) : (s.modTeam u f).tick = s.tick := rfl
@[simp] theorem State.modTeam_fresh (s : State) (u : Nat) (f : Team → Team) : (s.modTeam u f).fresh = s.fresh := rfl
@[simp] theorem State.modTeam_on (s : State) (u : Nat) (f : Team → Team) : (s.modTeam u f).on = s.on := rfl
@[simp] theorem State.modTeam_down (s : State) (u : Nat) (f : Team → Team) : (s.modTeam u f).down = s.down := rfl
@[simp] theorem State.modTeam_pkg (s : State) (u : Nat) (f : Team → Team) : (s.modTeam u f).pkg = s.pkg := rfl
@[simp] theorem State.modTeam_mem (s : State) (u : Nat) (f : Team → Team) : (s.modTeam u f).mem = s.mem := rfl
@[simp] theorem State.modTeam_home (s : State) (u : Nat) (f : Team → Team) : (s.modTeam u f).home = s.home := rfl
@[simp] theorem State.modTeam_poison (s : State) (u : Nat) (f : Team → Team) : (s.modTeam u f).poison = s.poison := rfl
@[simp] theorem State.modTeam_corrected (s : State) (u : Nat) (f : Team → Team) : (s.modTeam u f).corrected = s.corrected := rfl
@[simp] theorem State.modTeam_cores (s : State) (u : Nat) (f : Team → Team) : (s.modTeam u f).cores = s.cores := rfl
@[simp] theorem State.modTeam_clusters (s : State) (u : Nat) (f : Team → Team) : (s.modTeam u f).clusters = s.clusters := rfl
@[simp] theorem State.modTeam_dies (s : State) (u : Nat) (f : Team → Team) : (s.modTeam u f).dies = s.dies := rfl
@[simp] theorem State.modTeam_ctxs (s : State) (u : Nat) (f : Team → Team) : (s.modTeam u f).ctxs = s.ctxs := rfl
@[simp] theorem State.modTeam_launches (s : State) (u : Nat) (f : Team → Team) : (s.modTeam u f).launches = s.launches := rfl
@[simp] theorem State.modTeam_saved (s : State) (u : Nat) (f : Team → Team) : (s.modTeam u f).saved = s.saved := rfl
@[simp] theorem State.modTeam_areas (s : State) (u : Nat) (f : Team → Team) : (s.modTeam u f).areas = s.areas := rfl
@[simp] theorem State.modTeam_accs (s : State) (u : Nat) (f : Team → Team) : (s.modTeam u f).accs = s.accs := rfl
@[simp] theorem State.modTeam_adds (s : State) (u : Nat) (f : Team → Team) : (s.modTeam u f).adds = s.adds := rfl
@[simp] theorem State.modTeam_reservs (s : State) (u : Nat) (f : Team → Team) : (s.modTeam u f).reservs = s.reservs := rfl
@[simp] theorem State.modTeam_commits (s : State) (u : Nat) (f : Team → Team) : (s.modTeam u f).commits = s.commits := rfl
@[simp] theorem State.modTeam_tlb (s : State) (u : Nat) (f : Team → Team) : (s.modTeam u f).tlb = s.tlb := rfl
@[simp] theorem State.modTeam_pageReqs (s : State) (u : Nat) (f : Team → Team) : (s.modTeam u f).pageReqs = s.pageReqs := rfl
@[simp] theorem State.modTeam_convs (s : State) (u : Nat) (f : Team → Team) : (s.modTeam u f).convs = s.convs := rfl
@[simp] theorem State.modTeam_skipped (s : State) (u : Nat) (f : Team → Team) : (s.modTeam u f).skipped = s.skipped := rfl
@[simp] theorem State.modTeam_reclaim (s : State) (u : Nat) (f : Team → Team) : (s.modTeam u f).reclaim = s.reclaim := rfl
@[simp] theorem State.modTeam_mbox (s : State) (u : Nat) (f : Team → Team) : (s.modTeam u f).mbox = s.mbox := rfl
@[simp] theorem State.modTeam_power (s : State) (u : Nat) (f : Team → Team) : (s.modTeam u f).power = s.power := rfl
@[simp] theorem State.modTeam_fw (s : State) (u : Nat) (f : Team → Team) : (s.modTeam u f).fw = s.fw := rfl
@[simp] theorem State.modTeam_attach (s : State) (u : Nat) (f : Team → Team) : (s.modTeam u f).attach = s.attach := rfl
@[simp] theorem State.modTeam_fab (s : State) (u : Nat) (f : Team → Team) : (s.modTeam u f).fab = s.fab := rfl
@[simp] theorem State.modTeam_cur (s : State) (u : Nat) (f : Team → Team) : (s.modTeam u f).cur = s.cur := rfl
@[simp] theorem State.modTeam_inbox (s : State) (u : Nat) (f : Team → Team) : (s.modTeam u f).inbox = s.inbox := rfl
@[simp] theorem State.modTeam_uid (s : State) (u : Nat) (f : Team → Team) : (s.modTeam u f).uid = s.uid := rfl

/-! ### modCore -/

@[simp] theorem State.modCore_time (s : State) (c : Nat) (f : Core → Core) : (s.modCore c f).time = s.time := rfl
@[simp] theorem State.modCore_clock (s : State) (c : Nat) (f : Core → Core) : (s.modCore c f).clock = s.clock := rfl
@[simp] theorem State.modCore_tick (s : State) (c : Nat) (f : Core → Core) : (s.modCore c f).tick = s.tick := rfl
@[simp] theorem State.modCore_fresh (s : State) (c : Nat) (f : Core → Core) : (s.modCore c f).fresh = s.fresh := rfl
@[simp] theorem State.modCore_on (s : State) (c : Nat) (f : Core → Core) : (s.modCore c f).on = s.on := rfl
@[simp] theorem State.modCore_down (s : State) (c : Nat) (f : Core → Core) : (s.modCore c f).down = s.down := rfl
@[simp] theorem State.modCore_pkg (s : State) (c : Nat) (f : Core → Core) : (s.modCore c f).pkg = s.pkg := rfl
@[simp] theorem State.modCore_mem (s : State) (c : Nat) (f : Core → Core) : (s.modCore c f).mem = s.mem := rfl
@[simp] theorem State.modCore_home (s : State) (c : Nat) (f : Core → Core) : (s.modCore c f).home = s.home := rfl
@[simp] theorem State.modCore_poison (s : State) (c : Nat) (f : Core → Core) : (s.modCore c f).poison = s.poison := rfl
@[simp] theorem State.modCore_corrected (s : State) (c : Nat) (f : Core → Core) : (s.modCore c f).corrected = s.corrected := rfl
@[simp] theorem State.modCore_clusters (s : State) (c : Nat) (f : Core → Core) : (s.modCore c f).clusters = s.clusters := rfl
@[simp] theorem State.modCore_dies (s : State) (c : Nat) (f : Core → Core) : (s.modCore c f).dies = s.dies := rfl
@[simp] theorem State.modCore_ctxs (s : State) (c : Nat) (f : Core → Core) : (s.modCore c f).ctxs = s.ctxs := rfl
@[simp] theorem State.modCore_launches (s : State) (c : Nat) (f : Core → Core) : (s.modCore c f).launches = s.launches := rfl
@[simp] theorem State.modCore_teams (s : State) (c : Nat) (f : Core → Core) : (s.modCore c f).teams = s.teams := rfl
@[simp] theorem State.modCore_saved (s : State) (c : Nat) (f : Core → Core) : (s.modCore c f).saved = s.saved := rfl
@[simp] theorem State.modCore_areas (s : State) (c : Nat) (f : Core → Core) : (s.modCore c f).areas = s.areas := rfl
@[simp] theorem State.modCore_accs (s : State) (c : Nat) (f : Core → Core) : (s.modCore c f).accs = s.accs := rfl
@[simp] theorem State.modCore_adds (s : State) (c : Nat) (f : Core → Core) : (s.modCore c f).adds = s.adds := rfl
@[simp] theorem State.modCore_reservs (s : State) (c : Nat) (f : Core → Core) : (s.modCore c f).reservs = s.reservs := rfl
@[simp] theorem State.modCore_commits (s : State) (c : Nat) (f : Core → Core) : (s.modCore c f).commits = s.commits := rfl
@[simp] theorem State.modCore_tlb (s : State) (c : Nat) (f : Core → Core) : (s.modCore c f).tlb = s.tlb := rfl
@[simp] theorem State.modCore_pageReqs (s : State) (c : Nat) (f : Core → Core) : (s.modCore c f).pageReqs = s.pageReqs := rfl
@[simp] theorem State.modCore_convs (s : State) (c : Nat) (f : Core → Core) : (s.modCore c f).convs = s.convs := rfl
@[simp] theorem State.modCore_skipped (s : State) (c : Nat) (f : Core → Core) : (s.modCore c f).skipped = s.skipped := rfl
@[simp] theorem State.modCore_reclaim (s : State) (c : Nat) (f : Core → Core) : (s.modCore c f).reclaim = s.reclaim := rfl
@[simp] theorem State.modCore_mbox (s : State) (c : Nat) (f : Core → Core) : (s.modCore c f).mbox = s.mbox := rfl
@[simp] theorem State.modCore_power (s : State) (c : Nat) (f : Core → Core) : (s.modCore c f).power = s.power := rfl
@[simp] theorem State.modCore_fw (s : State) (c : Nat) (f : Core → Core) : (s.modCore c f).fw = s.fw := rfl
@[simp] theorem State.modCore_attach (s : State) (c : Nat) (f : Core → Core) : (s.modCore c f).attach = s.attach := rfl
@[simp] theorem State.modCore_fab (s : State) (c : Nat) (f : Core → Core) : (s.modCore c f).fab = s.fab := rfl
@[simp] theorem State.modCore_cur (s : State) (c : Nat) (f : Core → Core) : (s.modCore c f).cur = s.cur := rfl
@[simp] theorem State.modCore_inbox (s : State) (c : Nat) (f : Core → Core) : (s.modCore c f).inbox = s.inbox := rfl
@[simp] theorem State.modCore_uid (s : State) (c : Nat) (f : Core → Core) : (s.modCore c f).uid = s.uid := rfl

/-! ### modCluster -/

@[simp] theorem State.modCluster_time (s : State) (c : Nat) (f : Cluster → Cluster) : (s.modCluster c f).time = s.time := rfl
@[simp] theorem State.modCluster_clock (s : State) (c : Nat) (f : Cluster → Cluster) : (s.modCluster c f).clock = s.clock := rfl
@[simp] theorem State.modCluster_tick (s : State) (c : Nat) (f : Cluster → Cluster) : (s.modCluster c f).tick = s.tick := rfl
@[simp] theorem State.modCluster_fresh (s : State) (c : Nat) (f : Cluster → Cluster) : (s.modCluster c f).fresh = s.fresh := rfl
@[simp] theorem State.modCluster_on (s : State) (c : Nat) (f : Cluster → Cluster) : (s.modCluster c f).on = s.on := rfl
@[simp] theorem State.modCluster_down (s : State) (c : Nat) (f : Cluster → Cluster) : (s.modCluster c f).down = s.down := rfl
@[simp] theorem State.modCluster_pkg (s : State) (c : Nat) (f : Cluster → Cluster) : (s.modCluster c f).pkg = s.pkg := rfl
@[simp] theorem State.modCluster_mem (s : State) (c : Nat) (f : Cluster → Cluster) : (s.modCluster c f).mem = s.mem := rfl
@[simp] theorem State.modCluster_home (s : State) (c : Nat) (f : Cluster → Cluster) : (s.modCluster c f).home = s.home := rfl
@[simp] theorem State.modCluster_poison (s : State) (c : Nat) (f : Cluster → Cluster) : (s.modCluster c f).poison = s.poison := rfl
@[simp] theorem State.modCluster_corrected (s : State) (c : Nat) (f : Cluster → Cluster) : (s.modCluster c f).corrected = s.corrected := rfl
@[simp] theorem State.modCluster_cores (s : State) (c : Nat) (f : Cluster → Cluster) : (s.modCluster c f).cores = s.cores := rfl
@[simp] theorem State.modCluster_dies (s : State) (c : Nat) (f : Cluster → Cluster) : (s.modCluster c f).dies = s.dies := rfl
@[simp] theorem State.modCluster_ctxs (s : State) (c : Nat) (f : Cluster → Cluster) : (s.modCluster c f).ctxs = s.ctxs := rfl
@[simp] theorem State.modCluster_launches (s : State) (c : Nat) (f : Cluster → Cluster) : (s.modCluster c f).launches = s.launches := rfl
@[simp] theorem State.modCluster_teams (s : State) (c : Nat) (f : Cluster → Cluster) : (s.modCluster c f).teams = s.teams := rfl
@[simp] theorem State.modCluster_saved (s : State) (c : Nat) (f : Cluster → Cluster) : (s.modCluster c f).saved = s.saved := rfl
@[simp] theorem State.modCluster_areas (s : State) (c : Nat) (f : Cluster → Cluster) : (s.modCluster c f).areas = s.areas := rfl
@[simp] theorem State.modCluster_accs (s : State) (c : Nat) (f : Cluster → Cluster) : (s.modCluster c f).accs = s.accs := rfl
@[simp] theorem State.modCluster_adds (s : State) (c : Nat) (f : Cluster → Cluster) : (s.modCluster c f).adds = s.adds := rfl
@[simp] theorem State.modCluster_reservs (s : State) (c : Nat) (f : Cluster → Cluster) : (s.modCluster c f).reservs = s.reservs := rfl
@[simp] theorem State.modCluster_commits (s : State) (c : Nat) (f : Cluster → Cluster) : (s.modCluster c f).commits = s.commits := rfl
@[simp] theorem State.modCluster_tlb (s : State) (c : Nat) (f : Cluster → Cluster) : (s.modCluster c f).tlb = s.tlb := rfl
@[simp] theorem State.modCluster_pageReqs (s : State) (c : Nat) (f : Cluster → Cluster) : (s.modCluster c f).pageReqs = s.pageReqs := rfl
@[simp] theorem State.modCluster_convs (s : State) (c : Nat) (f : Cluster → Cluster) : (s.modCluster c f).convs = s.convs := rfl
@[simp] theorem State.modCluster_skipped (s : State) (c : Nat) (f : Cluster → Cluster) : (s.modCluster c f).skipped = s.skipped := rfl
@[simp] theorem State.modCluster_reclaim (s : State) (c : Nat) (f : Cluster → Cluster) : (s.modCluster c f).reclaim = s.reclaim := rfl
@[simp] theorem State.modCluster_mbox (s : State) (c : Nat) (f : Cluster → Cluster) : (s.modCluster c f).mbox = s.mbox := rfl
@[simp] theorem State.modCluster_power (s : State) (c : Nat) (f : Cluster → Cluster) : (s.modCluster c f).power = s.power := rfl
@[simp] theorem State.modCluster_fw (s : State) (c : Nat) (f : Cluster → Cluster) : (s.modCluster c f).fw = s.fw := rfl
@[simp] theorem State.modCluster_attach (s : State) (c : Nat) (f : Cluster → Cluster) : (s.modCluster c f).attach = s.attach := rfl
@[simp] theorem State.modCluster_fab (s : State) (c : Nat) (f : Cluster → Cluster) : (s.modCluster c f).fab = s.fab := rfl
@[simp] theorem State.modCluster_cur (s : State) (c : Nat) (f : Cluster → Cluster) : (s.modCluster c f).cur = s.cur := rfl
@[simp] theorem State.modCluster_inbox (s : State) (c : Nat) (f : Cluster → Cluster) : (s.modCluster c f).inbox = s.inbox := rfl
@[simp] theorem State.modCluster_uid (s : State) (c : Nat) (f : Cluster → Cluster) : (s.modCluster c f).uid = s.uid := rfl

/-! ### modDie -/

@[simp] theorem State.modDie_time (s : State) (d : Nat) (f : Die → Die) : (s.modDie d f).time = s.time := rfl
@[simp] theorem State.modDie_clock (s : State) (d : Nat) (f : Die → Die) : (s.modDie d f).clock = s.clock := rfl
@[simp] theorem State.modDie_tick (s : State) (d : Nat) (f : Die → Die) : (s.modDie d f).tick = s.tick := rfl
@[simp] theorem State.modDie_fresh (s : State) (d : Nat) (f : Die → Die) : (s.modDie d f).fresh = s.fresh := rfl
@[simp] theorem State.modDie_on (s : State) (d : Nat) (f : Die → Die) : (s.modDie d f).on = s.on := rfl
@[simp] theorem State.modDie_down (s : State) (d : Nat) (f : Die → Die) : (s.modDie d f).down = s.down := rfl
@[simp] theorem State.modDie_pkg (s : State) (d : Nat) (f : Die → Die) : (s.modDie d f).pkg = s.pkg := rfl
@[simp] theorem State.modDie_mem (s : State) (d : Nat) (f : Die → Die) : (s.modDie d f).mem = s.mem := rfl
@[simp] theorem State.modDie_home (s : State) (d : Nat) (f : Die → Die) : (s.modDie d f).home = s.home := rfl
@[simp] theorem State.modDie_poison (s : State) (d : Nat) (f : Die → Die) : (s.modDie d f).poison = s.poison := rfl
@[simp] theorem State.modDie_corrected (s : State) (d : Nat) (f : Die → Die) : (s.modDie d f).corrected = s.corrected := rfl
@[simp] theorem State.modDie_cores (s : State) (d : Nat) (f : Die → Die) : (s.modDie d f).cores = s.cores := rfl
@[simp] theorem State.modDie_clusters (s : State) (d : Nat) (f : Die → Die) : (s.modDie d f).clusters = s.clusters := rfl
@[simp] theorem State.modDie_ctxs (s : State) (d : Nat) (f : Die → Die) : (s.modDie d f).ctxs = s.ctxs := rfl
@[simp] theorem State.modDie_launches (s : State) (d : Nat) (f : Die → Die) : (s.modDie d f).launches = s.launches := rfl
@[simp] theorem State.modDie_teams (s : State) (d : Nat) (f : Die → Die) : (s.modDie d f).teams = s.teams := rfl
@[simp] theorem State.modDie_saved (s : State) (d : Nat) (f : Die → Die) : (s.modDie d f).saved = s.saved := rfl
@[simp] theorem State.modDie_areas (s : State) (d : Nat) (f : Die → Die) : (s.modDie d f).areas = s.areas := rfl
@[simp] theorem State.modDie_accs (s : State) (d : Nat) (f : Die → Die) : (s.modDie d f).accs = s.accs := rfl
@[simp] theorem State.modDie_adds (s : State) (d : Nat) (f : Die → Die) : (s.modDie d f).adds = s.adds := rfl
@[simp] theorem State.modDie_reservs (s : State) (d : Nat) (f : Die → Die) : (s.modDie d f).reservs = s.reservs := rfl
@[simp] theorem State.modDie_commits (s : State) (d : Nat) (f : Die → Die) : (s.modDie d f).commits = s.commits := rfl
@[simp] theorem State.modDie_tlb (s : State) (d : Nat) (f : Die → Die) : (s.modDie d f).tlb = s.tlb := rfl
@[simp] theorem State.modDie_pageReqs (s : State) (d : Nat) (f : Die → Die) : (s.modDie d f).pageReqs = s.pageReqs := rfl
@[simp] theorem State.modDie_convs (s : State) (d : Nat) (f : Die → Die) : (s.modDie d f).convs = s.convs := rfl
@[simp] theorem State.modDie_skipped (s : State) (d : Nat) (f : Die → Die) : (s.modDie d f).skipped = s.skipped := rfl
@[simp] theorem State.modDie_reclaim (s : State) (d : Nat) (f : Die → Die) : (s.modDie d f).reclaim = s.reclaim := rfl
@[simp] theorem State.modDie_mbox (s : State) (d : Nat) (f : Die → Die) : (s.modDie d f).mbox = s.mbox := rfl
@[simp] theorem State.modDie_power (s : State) (d : Nat) (f : Die → Die) : (s.modDie d f).power = s.power := rfl
@[simp] theorem State.modDie_fw (s : State) (d : Nat) (f : Die → Die) : (s.modDie d f).fw = s.fw := rfl
@[simp] theorem State.modDie_attach (s : State) (d : Nat) (f : Die → Die) : (s.modDie d f).attach = s.attach := rfl
@[simp] theorem State.modDie_fab (s : State) (d : Nat) (f : Die → Die) : (s.modDie d f).fab = s.fab := rfl
@[simp] theorem State.modDie_cur (s : State) (d : Nat) (f : Die → Die) : (s.modDie d f).cur = s.cur := rfl
@[simp] theorem State.modDie_inbox (s : State) (d : Nat) (f : Die → Die) : (s.modDie d f).inbox = s.inbox := rfl
@[simp] theorem State.modDie_uid (s : State) (d : Nat) (f : Die → Die) : (s.modDie d f).uid = s.uid := rfl

/-! ### modCtx -/

@[simp] theorem State.modCtx_time (s : State) (c : Nat) (f : Context → Context) : (s.modCtx c f).time = s.time := rfl
@[simp] theorem State.modCtx_clock (s : State) (c : Nat) (f : Context → Context) : (s.modCtx c f).clock = s.clock := rfl
@[simp] theorem State.modCtx_tick (s : State) (c : Nat) (f : Context → Context) : (s.modCtx c f).tick = s.tick := rfl
@[simp] theorem State.modCtx_fresh (s : State) (c : Nat) (f : Context → Context) : (s.modCtx c f).fresh = s.fresh := rfl
@[simp] theorem State.modCtx_on (s : State) (c : Nat) (f : Context → Context) : (s.modCtx c f).on = s.on := rfl
@[simp] theorem State.modCtx_down (s : State) (c : Nat) (f : Context → Context) : (s.modCtx c f).down = s.down := rfl
@[simp] theorem State.modCtx_pkg (s : State) (c : Nat) (f : Context → Context) : (s.modCtx c f).pkg = s.pkg := rfl
@[simp] theorem State.modCtx_mem (s : State) (c : Nat) (f : Context → Context) : (s.modCtx c f).mem = s.mem := rfl
@[simp] theorem State.modCtx_home (s : State) (c : Nat) (f : Context → Context) : (s.modCtx c f).home = s.home := rfl
@[simp] theorem State.modCtx_poison (s : State) (c : Nat) (f : Context → Context) : (s.modCtx c f).poison = s.poison := rfl
@[simp] theorem State.modCtx_corrected (s : State) (c : Nat) (f : Context → Context) : (s.modCtx c f).corrected = s.corrected := rfl
@[simp] theorem State.modCtx_cores (s : State) (c : Nat) (f : Context → Context) : (s.modCtx c f).cores = s.cores := rfl
@[simp] theorem State.modCtx_clusters (s : State) (c : Nat) (f : Context → Context) : (s.modCtx c f).clusters = s.clusters := rfl
@[simp] theorem State.modCtx_dies (s : State) (c : Nat) (f : Context → Context) : (s.modCtx c f).dies = s.dies := rfl
@[simp] theorem State.modCtx_launches (s : State) (c : Nat) (f : Context → Context) : (s.modCtx c f).launches = s.launches := rfl
@[simp] theorem State.modCtx_teams (s : State) (c : Nat) (f : Context → Context) : (s.modCtx c f).teams = s.teams := rfl
@[simp] theorem State.modCtx_saved (s : State) (c : Nat) (f : Context → Context) : (s.modCtx c f).saved = s.saved := rfl
@[simp] theorem State.modCtx_areas (s : State) (c : Nat) (f : Context → Context) : (s.modCtx c f).areas = s.areas := rfl
@[simp] theorem State.modCtx_accs (s : State) (c : Nat) (f : Context → Context) : (s.modCtx c f).accs = s.accs := rfl
@[simp] theorem State.modCtx_adds (s : State) (c : Nat) (f : Context → Context) : (s.modCtx c f).adds = s.adds := rfl
@[simp] theorem State.modCtx_reservs (s : State) (c : Nat) (f : Context → Context) : (s.modCtx c f).reservs = s.reservs := rfl
@[simp] theorem State.modCtx_commits (s : State) (c : Nat) (f : Context → Context) : (s.modCtx c f).commits = s.commits := rfl
@[simp] theorem State.modCtx_tlb (s : State) (c : Nat) (f : Context → Context) : (s.modCtx c f).tlb = s.tlb := rfl
@[simp] theorem State.modCtx_pageReqs (s : State) (c : Nat) (f : Context → Context) : (s.modCtx c f).pageReqs = s.pageReqs := rfl
@[simp] theorem State.modCtx_convs (s : State) (c : Nat) (f : Context → Context) : (s.modCtx c f).convs = s.convs := rfl
@[simp] theorem State.modCtx_skipped (s : State) (c : Nat) (f : Context → Context) : (s.modCtx c f).skipped = s.skipped := rfl
@[simp] theorem State.modCtx_reclaim (s : State) (c : Nat) (f : Context → Context) : (s.modCtx c f).reclaim = s.reclaim := rfl
@[simp] theorem State.modCtx_mbox (s : State) (c : Nat) (f : Context → Context) : (s.modCtx c f).mbox = s.mbox := rfl
@[simp] theorem State.modCtx_power (s : State) (c : Nat) (f : Context → Context) : (s.modCtx c f).power = s.power := rfl
@[simp] theorem State.modCtx_fw (s : State) (c : Nat) (f : Context → Context) : (s.modCtx c f).fw = s.fw := rfl
@[simp] theorem State.modCtx_attach (s : State) (c : Nat) (f : Context → Context) : (s.modCtx c f).attach = s.attach := rfl
@[simp] theorem State.modCtx_fab (s : State) (c : Nat) (f : Context → Context) : (s.modCtx c f).fab = s.fab := rfl
@[simp] theorem State.modCtx_cur (s : State) (c : Nat) (f : Context → Context) : (s.modCtx c f).cur = s.cur := rfl
@[simp] theorem State.modCtx_inbox (s : State) (c : Nat) (f : Context → Context) : (s.modCtx c f).inbox = s.inbox := rfl
@[simp] theorem State.modCtx_uid (s : State) (c : Nat) (f : Context → Context) : (s.modCtx c f).uid = s.uid := rfl

/-! ### modLaunch -/

@[simp] theorem State.modLaunch_time (s : State) (id : Nat) (f : Launch → Launch) : (s.modLaunch id f).time = s.time := rfl
@[simp] theorem State.modLaunch_clock (s : State) (id : Nat) (f : Launch → Launch) : (s.modLaunch id f).clock = s.clock := rfl
@[simp] theorem State.modLaunch_tick (s : State) (id : Nat) (f : Launch → Launch) : (s.modLaunch id f).tick = s.tick := rfl
@[simp] theorem State.modLaunch_fresh (s : State) (id : Nat) (f : Launch → Launch) : (s.modLaunch id f).fresh = s.fresh := rfl
@[simp] theorem State.modLaunch_on (s : State) (id : Nat) (f : Launch → Launch) : (s.modLaunch id f).on = s.on := rfl
@[simp] theorem State.modLaunch_down (s : State) (id : Nat) (f : Launch → Launch) : (s.modLaunch id f).down = s.down := rfl
@[simp] theorem State.modLaunch_pkg (s : State) (id : Nat) (f : Launch → Launch) : (s.modLaunch id f).pkg = s.pkg := rfl
@[simp] theorem State.modLaunch_mem (s : State) (id : Nat) (f : Launch → Launch) : (s.modLaunch id f).mem = s.mem := rfl
@[simp] theorem State.modLaunch_home (s : State) (id : Nat) (f : Launch → Launch) : (s.modLaunch id f).home = s.home := rfl
@[simp] theorem State.modLaunch_poison (s : State) (id : Nat) (f : Launch → Launch) : (s.modLaunch id f).poison = s.poison := rfl
@[simp] theorem State.modLaunch_corrected (s : State) (id : Nat) (f : Launch → Launch) : (s.modLaunch id f).corrected = s.corrected := rfl
@[simp] theorem State.modLaunch_cores (s : State) (id : Nat) (f : Launch → Launch) : (s.modLaunch id f).cores = s.cores := rfl
@[simp] theorem State.modLaunch_clusters (s : State) (id : Nat) (f : Launch → Launch) : (s.modLaunch id f).clusters = s.clusters := rfl
@[simp] theorem State.modLaunch_dies (s : State) (id : Nat) (f : Launch → Launch) : (s.modLaunch id f).dies = s.dies := rfl
@[simp] theorem State.modLaunch_ctxs (s : State) (id : Nat) (f : Launch → Launch) : (s.modLaunch id f).ctxs = s.ctxs := rfl
@[simp] theorem State.modLaunch_teams (s : State) (id : Nat) (f : Launch → Launch) : (s.modLaunch id f).teams = s.teams := rfl
@[simp] theorem State.modLaunch_saved (s : State) (id : Nat) (f : Launch → Launch) : (s.modLaunch id f).saved = s.saved := rfl
@[simp] theorem State.modLaunch_areas (s : State) (id : Nat) (f : Launch → Launch) : (s.modLaunch id f).areas = s.areas := rfl
@[simp] theorem State.modLaunch_accs (s : State) (id : Nat) (f : Launch → Launch) : (s.modLaunch id f).accs = s.accs := rfl
@[simp] theorem State.modLaunch_adds (s : State) (id : Nat) (f : Launch → Launch) : (s.modLaunch id f).adds = s.adds := rfl
@[simp] theorem State.modLaunch_reservs (s : State) (id : Nat) (f : Launch → Launch) : (s.modLaunch id f).reservs = s.reservs := rfl
@[simp] theorem State.modLaunch_commits (s : State) (id : Nat) (f : Launch → Launch) : (s.modLaunch id f).commits = s.commits := rfl
@[simp] theorem State.modLaunch_tlb (s : State) (id : Nat) (f : Launch → Launch) : (s.modLaunch id f).tlb = s.tlb := rfl
@[simp] theorem State.modLaunch_pageReqs (s : State) (id : Nat) (f : Launch → Launch) : (s.modLaunch id f).pageReqs = s.pageReqs := rfl
@[simp] theorem State.modLaunch_convs (s : State) (id : Nat) (f : Launch → Launch) : (s.modLaunch id f).convs = s.convs := rfl
@[simp] theorem State.modLaunch_skipped (s : State) (id : Nat) (f : Launch → Launch) : (s.modLaunch id f).skipped = s.skipped := rfl
@[simp] theorem State.modLaunch_reclaim (s : State) (id : Nat) (f : Launch → Launch) : (s.modLaunch id f).reclaim = s.reclaim := rfl
@[simp] theorem State.modLaunch_mbox (s : State) (id : Nat) (f : Launch → Launch) : (s.modLaunch id f).mbox = s.mbox := rfl
@[simp] theorem State.modLaunch_power (s : State) (id : Nat) (f : Launch → Launch) : (s.modLaunch id f).power = s.power := rfl
@[simp] theorem State.modLaunch_fw (s : State) (id : Nat) (f : Launch → Launch) : (s.modLaunch id f).fw = s.fw := rfl
@[simp] theorem State.modLaunch_attach (s : State) (id : Nat) (f : Launch → Launch) : (s.modLaunch id f).attach = s.attach := rfl
@[simp] theorem State.modLaunch_fab (s : State) (id : Nat) (f : Launch → Launch) : (s.modLaunch id f).fab = s.fab := rfl
@[simp] theorem State.modLaunch_cur (s : State) (id : Nat) (f : Launch → Launch) : (s.modLaunch id f).cur = s.cur := rfl
@[simp] theorem State.modLaunch_inbox (s : State) (id : Nat) (f : Launch → Launch) : (s.modLaunch id f).inbox = s.inbox := rfl
@[simp] theorem State.modLaunch_uid (s : State) (id : Nat) (f : Launch → Launch) : (s.modLaunch id f).uid = s.uid := rfl

/-! ### modFibre -/

@[simp] theorem State.modFibre_time (s : State) (r : FibreRef) (f : Fibre → Fibre) : (s.modFibre r f).time = s.time := rfl
@[simp] theorem State.modFibre_clock (s : State) (r : FibreRef) (f : Fibre → Fibre) : (s.modFibre r f).clock = s.clock := rfl
@[simp] theorem State.modFibre_tick (s : State) (r : FibreRef) (f : Fibre → Fibre) : (s.modFibre r f).tick = s.tick := rfl
@[simp] theorem State.modFibre_fresh (s : State) (r : FibreRef) (f : Fibre → Fibre) : (s.modFibre r f).fresh = s.fresh := rfl
@[simp] theorem State.modFibre_on (s : State) (r : FibreRef) (f : Fibre → Fibre) : (s.modFibre r f).on = s.on := rfl
@[simp] theorem State.modFibre_down (s : State) (r : FibreRef) (f : Fibre → Fibre) : (s.modFibre r f).down = s.down := rfl
@[simp] theorem State.modFibre_pkg (s : State) (r : FibreRef) (f : Fibre → Fibre) : (s.modFibre r f).pkg = s.pkg := rfl
@[simp] theorem State.modFibre_mem (s : State) (r : FibreRef) (f : Fibre → Fibre) : (s.modFibre r f).mem = s.mem := rfl
@[simp] theorem State.modFibre_home (s : State) (r : FibreRef) (f : Fibre → Fibre) : (s.modFibre r f).home = s.home := rfl
@[simp] theorem State.modFibre_poison (s : State) (r : FibreRef) (f : Fibre → Fibre) : (s.modFibre r f).poison = s.poison := rfl
@[simp] theorem State.modFibre_corrected (s : State) (r : FibreRef) (f : Fibre → Fibre) : (s.modFibre r f).corrected = s.corrected := rfl
@[simp] theorem State.modFibre_cores (s : State) (r : FibreRef) (f : Fibre → Fibre) : (s.modFibre r f).cores = s.cores := rfl
@[simp] theorem State.modFibre_clusters (s : State) (r : FibreRef) (f : Fibre → Fibre) : (s.modFibre r f).clusters = s.clusters := rfl
@[simp] theorem State.modFibre_dies (s : State) (r : FibreRef) (f : Fibre → Fibre) : (s.modFibre r f).dies = s.dies := rfl
@[simp] theorem State.modFibre_ctxs (s : State) (r : FibreRef) (f : Fibre → Fibre) : (s.modFibre r f).ctxs = s.ctxs := rfl
@[simp] theorem State.modFibre_launches (s : State) (r : FibreRef) (f : Fibre → Fibre) : (s.modFibre r f).launches = s.launches := rfl
@[simp] theorem State.modFibre_saved (s : State) (r : FibreRef) (f : Fibre → Fibre) : (s.modFibre r f).saved = s.saved := rfl
@[simp] theorem State.modFibre_areas (s : State) (r : FibreRef) (f : Fibre → Fibre) : (s.modFibre r f).areas = s.areas := rfl
@[simp] theorem State.modFibre_accs (s : State) (r : FibreRef) (f : Fibre → Fibre) : (s.modFibre r f).accs = s.accs := rfl
@[simp] theorem State.modFibre_adds (s : State) (r : FibreRef) (f : Fibre → Fibre) : (s.modFibre r f).adds = s.adds := rfl
@[simp] theorem State.modFibre_reservs (s : State) (r : FibreRef) (f : Fibre → Fibre) : (s.modFibre r f).reservs = s.reservs := rfl
@[simp] theorem State.modFibre_commits (s : State) (r : FibreRef) (f : Fibre → Fibre) : (s.modFibre r f).commits = s.commits := rfl
@[simp] theorem State.modFibre_tlb (s : State) (r : FibreRef) (f : Fibre → Fibre) : (s.modFibre r f).tlb = s.tlb := rfl
@[simp] theorem State.modFibre_pageReqs (s : State) (r : FibreRef) (f : Fibre → Fibre) : (s.modFibre r f).pageReqs = s.pageReqs := rfl
@[simp] theorem State.modFibre_convs (s : State) (r : FibreRef) (f : Fibre → Fibre) : (s.modFibre r f).convs = s.convs := rfl
@[simp] theorem State.modFibre_skipped (s : State) (r : FibreRef) (f : Fibre → Fibre) : (s.modFibre r f).skipped = s.skipped := rfl
@[simp] theorem State.modFibre_reclaim (s : State) (r : FibreRef) (f : Fibre → Fibre) : (s.modFibre r f).reclaim = s.reclaim := rfl
@[simp] theorem State.modFibre_mbox (s : State) (r : FibreRef) (f : Fibre → Fibre) : (s.modFibre r f).mbox = s.mbox := rfl
@[simp] theorem State.modFibre_power (s : State) (r : FibreRef) (f : Fibre → Fibre) : (s.modFibre r f).power = s.power := rfl
@[simp] theorem State.modFibre_fw (s : State) (r : FibreRef) (f : Fibre → Fibre) : (s.modFibre r f).fw = s.fw := rfl
@[simp] theorem State.modFibre_attach (s : State) (r : FibreRef) (f : Fibre → Fibre) : (s.modFibre r f).attach = s.attach := rfl
@[simp] theorem State.modFibre_fab (s : State) (r : FibreRef) (f : Fibre → Fibre) : (s.modFibre r f).fab = s.fab := rfl
@[simp] theorem State.modFibre_cur (s : State) (r : FibreRef) (f : Fibre → Fibre) : (s.modFibre r f).cur = s.cur := rfl
@[simp] theorem State.modFibre_inbox (s : State) (r : FibreRef) (f : Fibre → Fibre) : (s.modFibre r f).inbox = s.inbox := rfl
@[simp] theorem State.modFibre_uid (s : State) (r : FibreRef) (f : Fibre → Fibre) : (s.modFibre r f).uid = s.uid := rfl

/-! ### putReg -/

@[simp] theorem State.putReg_time (s : State) (r : FibreRef) (n : Nat) (rows : List (Nat × Row)) (sh : Shape) : (s.putReg r n rows sh).time = s.time := rfl
@[simp] theorem State.putReg_clock (s : State) (r : FibreRef) (n : Nat) (rows : List (Nat × Row)) (sh : Shape) : (s.putReg r n rows sh).clock = s.clock := rfl
@[simp] theorem State.putReg_tick (s : State) (r : FibreRef) (n : Nat) (rows : List (Nat × Row)) (sh : Shape) : (s.putReg r n rows sh).tick = s.tick := rfl
@[simp] theorem State.putReg_fresh (s : State) (r : FibreRef) (n : Nat) (rows : List (Nat × Row)) (sh : Shape) : (s.putReg r n rows sh).fresh = s.fresh := rfl
@[simp] theorem State.putReg_on (s : State) (r : FibreRef) (n : Nat) (rows : List (Nat × Row)) (sh : Shape) : (s.putReg r n rows sh).on = s.on := rfl
@[simp] theorem State.putReg_down (s : State) (r : FibreRef) (n : Nat) (rows : List (Nat × Row)) (sh : Shape) : (s.putReg r n rows sh).down = s.down := rfl
@[simp] theorem State.putReg_pkg (s : State) (r : FibreRef) (n : Nat) (rows : List (Nat × Row)) (sh : Shape) : (s.putReg r n rows sh).pkg = s.pkg := rfl
@[simp] theorem State.putReg_mem (s : State) (r : FibreRef) (n : Nat) (rows : List (Nat × Row)) (sh : Shape) : (s.putReg r n rows sh).mem = s.mem := rfl
@[simp] theorem State.putReg_home (s : State) (r : FibreRef) (n : Nat) (rows : List (Nat × Row)) (sh : Shape) : (s.putReg r n rows sh).home = s.home := rfl
@[simp] theorem State.putReg_poison (s : State) (r : FibreRef) (n : Nat) (rows : List (Nat × Row)) (sh : Shape) : (s.putReg r n rows sh).poison = s.poison := rfl
@[simp] theorem State.putReg_corrected (s : State) (r : FibreRef) (n : Nat) (rows : List (Nat × Row)) (sh : Shape) : (s.putReg r n rows sh).corrected = s.corrected := rfl
@[simp] theorem State.putReg_cores (s : State) (r : FibreRef) (n : Nat) (rows : List (Nat × Row)) (sh : Shape) : (s.putReg r n rows sh).cores = s.cores := rfl
@[simp] theorem State.putReg_clusters (s : State) (r : FibreRef) (n : Nat) (rows : List (Nat × Row)) (sh : Shape) : (s.putReg r n rows sh).clusters = s.clusters := rfl
@[simp] theorem State.putReg_dies (s : State) (r : FibreRef) (n : Nat) (rows : List (Nat × Row)) (sh : Shape) : (s.putReg r n rows sh).dies = s.dies := rfl
@[simp] theorem State.putReg_ctxs (s : State) (r : FibreRef) (n : Nat) (rows : List (Nat × Row)) (sh : Shape) : (s.putReg r n rows sh).ctxs = s.ctxs := rfl
@[simp] theorem State.putReg_launches (s : State) (r : FibreRef) (n : Nat) (rows : List (Nat × Row)) (sh : Shape) : (s.putReg r n rows sh).launches = s.launches := rfl
@[simp] theorem State.putReg_saved (s : State) (r : FibreRef) (n : Nat) (rows : List (Nat × Row)) (sh : Shape) : (s.putReg r n rows sh).saved = s.saved := rfl
@[simp] theorem State.putReg_areas (s : State) (r : FibreRef) (n : Nat) (rows : List (Nat × Row)) (sh : Shape) : (s.putReg r n rows sh).areas = s.areas := rfl
@[simp] theorem State.putReg_accs (s : State) (r : FibreRef) (n : Nat) (rows : List (Nat × Row)) (sh : Shape) : (s.putReg r n rows sh).accs = s.accs := rfl
@[simp] theorem State.putReg_adds (s : State) (r : FibreRef) (n : Nat) (rows : List (Nat × Row)) (sh : Shape) : (s.putReg r n rows sh).adds = s.adds := rfl
@[simp] theorem State.putReg_reservs (s : State) (r : FibreRef) (n : Nat) (rows : List (Nat × Row)) (sh : Shape) : (s.putReg r n rows sh).reservs = s.reservs := rfl
@[simp] theorem State.putReg_commits (s : State) (r : FibreRef) (n : Nat) (rows : List (Nat × Row)) (sh : Shape) : (s.putReg r n rows sh).commits = s.commits := rfl
@[simp] theorem State.putReg_tlb (s : State) (r : FibreRef) (n : Nat) (rows : List (Nat × Row)) (sh : Shape) : (s.putReg r n rows sh).tlb = s.tlb := rfl
@[simp] theorem State.putReg_pageReqs (s : State) (r : FibreRef) (n : Nat) (rows : List (Nat × Row)) (sh : Shape) : (s.putReg r n rows sh).pageReqs = s.pageReqs := rfl
@[simp] theorem State.putReg_convs (s : State) (r : FibreRef) (n : Nat) (rows : List (Nat × Row)) (sh : Shape) : (s.putReg r n rows sh).convs = s.convs := rfl
@[simp] theorem State.putReg_skipped (s : State) (r : FibreRef) (n : Nat) (rows : List (Nat × Row)) (sh : Shape) : (s.putReg r n rows sh).skipped = s.skipped := rfl
@[simp] theorem State.putReg_reclaim (s : State) (r : FibreRef) (n : Nat) (rows : List (Nat × Row)) (sh : Shape) : (s.putReg r n rows sh).reclaim = s.reclaim := rfl
@[simp] theorem State.putReg_mbox (s : State) (r : FibreRef) (n : Nat) (rows : List (Nat × Row)) (sh : Shape) : (s.putReg r n rows sh).mbox = s.mbox := rfl
@[simp] theorem State.putReg_power (s : State) (r : FibreRef) (n : Nat) (rows : List (Nat × Row)) (sh : Shape) : (s.putReg r n rows sh).power = s.power := rfl
@[simp] theorem State.putReg_fw (s : State) (r : FibreRef) (n : Nat) (rows : List (Nat × Row)) (sh : Shape) : (s.putReg r n rows sh).fw = s.fw := rfl
@[simp] theorem State.putReg_attach (s : State) (r : FibreRef) (n : Nat) (rows : List (Nat × Row)) (sh : Shape) : (s.putReg r n rows sh).attach = s.attach := rfl
@[simp] theorem State.putReg_fab (s : State) (r : FibreRef) (n : Nat) (rows : List (Nat × Row)) (sh : Shape) : (s.putReg r n rows sh).fab = s.fab := rfl
@[simp] theorem State.putReg_cur (s : State) (r : FibreRef) (n : Nat) (rows : List (Nat × Row)) (sh : Shape) : (s.putReg r n rows sh).cur = s.cur := rfl
@[simp] theorem State.putReg_inbox (s : State) (r : FibreRef) (n : Nat) (rows : List (Nat × Row)) (sh : Shape) : (s.putReg r n rows sh).inbox = s.inbox := rfl
@[simp] theorem State.putReg_uid (s : State) (r : FibreRef) (n : Nat) (rows : List (Nat × Row)) (sh : Shape) : (s.putReg r n rows sh).uid = s.uid := rfl

/-! ### setPreds -/

@[simp] theorem State.setPreds_time (s : State) (r : FibreRef) (p : BitVec 3) (v : List (Nat × Bool)) : (s.setPreds r p v).time = s.time := rfl
@[simp] theorem State.setPreds_clock (s : State) (r : FibreRef) (p : BitVec 3) (v : List (Nat × Bool)) : (s.setPreds r p v).clock = s.clock := rfl
@[simp] theorem State.setPreds_tick (s : State) (r : FibreRef) (p : BitVec 3) (v : List (Nat × Bool)) : (s.setPreds r p v).tick = s.tick := rfl
@[simp] theorem State.setPreds_fresh (s : State) (r : FibreRef) (p : BitVec 3) (v : List (Nat × Bool)) : (s.setPreds r p v).fresh = s.fresh := rfl
@[simp] theorem State.setPreds_on (s : State) (r : FibreRef) (p : BitVec 3) (v : List (Nat × Bool)) : (s.setPreds r p v).on = s.on := rfl
@[simp] theorem State.setPreds_down (s : State) (r : FibreRef) (p : BitVec 3) (v : List (Nat × Bool)) : (s.setPreds r p v).down = s.down := rfl
@[simp] theorem State.setPreds_pkg (s : State) (r : FibreRef) (p : BitVec 3) (v : List (Nat × Bool)) : (s.setPreds r p v).pkg = s.pkg := rfl
@[simp] theorem State.setPreds_mem (s : State) (r : FibreRef) (p : BitVec 3) (v : List (Nat × Bool)) : (s.setPreds r p v).mem = s.mem := rfl
@[simp] theorem State.setPreds_home (s : State) (r : FibreRef) (p : BitVec 3) (v : List (Nat × Bool)) : (s.setPreds r p v).home = s.home := rfl
@[simp] theorem State.setPreds_poison (s : State) (r : FibreRef) (p : BitVec 3) (v : List (Nat × Bool)) : (s.setPreds r p v).poison = s.poison := rfl
@[simp] theorem State.setPreds_corrected (s : State) (r : FibreRef) (p : BitVec 3) (v : List (Nat × Bool)) : (s.setPreds r p v).corrected = s.corrected := rfl
@[simp] theorem State.setPreds_cores (s : State) (r : FibreRef) (p : BitVec 3) (v : List (Nat × Bool)) : (s.setPreds r p v).cores = s.cores := rfl
@[simp] theorem State.setPreds_clusters (s : State) (r : FibreRef) (p : BitVec 3) (v : List (Nat × Bool)) : (s.setPreds r p v).clusters = s.clusters := rfl
@[simp] theorem State.setPreds_dies (s : State) (r : FibreRef) (p : BitVec 3) (v : List (Nat × Bool)) : (s.setPreds r p v).dies = s.dies := rfl
@[simp] theorem State.setPreds_ctxs (s : State) (r : FibreRef) (p : BitVec 3) (v : List (Nat × Bool)) : (s.setPreds r p v).ctxs = s.ctxs := rfl
@[simp] theorem State.setPreds_launches (s : State) (r : FibreRef) (p : BitVec 3) (v : List (Nat × Bool)) : (s.setPreds r p v).launches = s.launches := rfl
@[simp] theorem State.setPreds_saved (s : State) (r : FibreRef) (p : BitVec 3) (v : List (Nat × Bool)) : (s.setPreds r p v).saved = s.saved := rfl
@[simp] theorem State.setPreds_areas (s : State) (r : FibreRef) (p : BitVec 3) (v : List (Nat × Bool)) : (s.setPreds r p v).areas = s.areas := rfl
@[simp] theorem State.setPreds_accs (s : State) (r : FibreRef) (p : BitVec 3) (v : List (Nat × Bool)) : (s.setPreds r p v).accs = s.accs := rfl
@[simp] theorem State.setPreds_adds (s : State) (r : FibreRef) (p : BitVec 3) (v : List (Nat × Bool)) : (s.setPreds r p v).adds = s.adds := rfl
@[simp] theorem State.setPreds_reservs (s : State) (r : FibreRef) (p : BitVec 3) (v : List (Nat × Bool)) : (s.setPreds r p v).reservs = s.reservs := rfl
@[simp] theorem State.setPreds_commits (s : State) (r : FibreRef) (p : BitVec 3) (v : List (Nat × Bool)) : (s.setPreds r p v).commits = s.commits := rfl
@[simp] theorem State.setPreds_tlb (s : State) (r : FibreRef) (p : BitVec 3) (v : List (Nat × Bool)) : (s.setPreds r p v).tlb = s.tlb := rfl
@[simp] theorem State.setPreds_pageReqs (s : State) (r : FibreRef) (p : BitVec 3) (v : List (Nat × Bool)) : (s.setPreds r p v).pageReqs = s.pageReqs := rfl
@[simp] theorem State.setPreds_convs (s : State) (r : FibreRef) (p : BitVec 3) (v : List (Nat × Bool)) : (s.setPreds r p v).convs = s.convs := rfl
@[simp] theorem State.setPreds_skipped (s : State) (r : FibreRef) (p : BitVec 3) (v : List (Nat × Bool)) : (s.setPreds r p v).skipped = s.skipped := rfl
@[simp] theorem State.setPreds_reclaim (s : State) (r : FibreRef) (p : BitVec 3) (v : List (Nat × Bool)) : (s.setPreds r p v).reclaim = s.reclaim := rfl
@[simp] theorem State.setPreds_mbox (s : State) (r : FibreRef) (p : BitVec 3) (v : List (Nat × Bool)) : (s.setPreds r p v).mbox = s.mbox := rfl
@[simp] theorem State.setPreds_power (s : State) (r : FibreRef) (p : BitVec 3) (v : List (Nat × Bool)) : (s.setPreds r p v).power = s.power := rfl
@[simp] theorem State.setPreds_fw (s : State) (r : FibreRef) (p : BitVec 3) (v : List (Nat × Bool)) : (s.setPreds r p v).fw = s.fw := rfl
@[simp] theorem State.setPreds_attach (s : State) (r : FibreRef) (p : BitVec 3) (v : List (Nat × Bool)) : (s.setPreds r p v).attach = s.attach := rfl
@[simp] theorem State.setPreds_fab (s : State) (r : FibreRef) (p : BitVec 3) (v : List (Nat × Bool)) : (s.setPreds r p v).fab = s.fab := rfl
@[simp] theorem State.setPreds_cur (s : State) (r : FibreRef) (p : BitVec 3) (v : List (Nat × Bool)) : (s.setPreds r p v).cur = s.cur := rfl
@[simp] theorem State.setPreds_inbox (s : State) (r : FibreRef) (p : BitVec 3) (v : List (Nat × Bool)) : (s.setPreds r p v).inbox = s.inbox := rfl
@[simp] theorem State.setPreds_uid (s : State) (r : FibreRef) (p : BitVec 3) (v : List (Nat × Bool)) : (s.setPreds r p v).uid = s.uid := rfl

/-! ### orFlags -/

@[simp] theorem State.orFlags_time (s : State) (r : FibreRef) (v : List (Nat × Fl)) : (s.orFlags r v).time = s.time := rfl
@[simp] theorem State.orFlags_clock (s : State) (r : FibreRef) (v : List (Nat × Fl)) : (s.orFlags r v).clock = s.clock := rfl
@[simp] theorem State.orFlags_tick (s : State) (r : FibreRef) (v : List (Nat × Fl)) : (s.orFlags r v).tick = s.tick := rfl
@[simp] theorem State.orFlags_fresh (s : State) (r : FibreRef) (v : List (Nat × Fl)) : (s.orFlags r v).fresh = s.fresh := rfl
@[simp] theorem State.orFlags_on (s : State) (r : FibreRef) (v : List (Nat × Fl)) : (s.orFlags r v).on = s.on := rfl
@[simp] theorem State.orFlags_down (s : State) (r : FibreRef) (v : List (Nat × Fl)) : (s.orFlags r v).down = s.down := rfl
@[simp] theorem State.orFlags_pkg (s : State) (r : FibreRef) (v : List (Nat × Fl)) : (s.orFlags r v).pkg = s.pkg := rfl
@[simp] theorem State.orFlags_mem (s : State) (r : FibreRef) (v : List (Nat × Fl)) : (s.orFlags r v).mem = s.mem := rfl
@[simp] theorem State.orFlags_home (s : State) (r : FibreRef) (v : List (Nat × Fl)) : (s.orFlags r v).home = s.home := rfl
@[simp] theorem State.orFlags_poison (s : State) (r : FibreRef) (v : List (Nat × Fl)) : (s.orFlags r v).poison = s.poison := rfl
@[simp] theorem State.orFlags_corrected (s : State) (r : FibreRef) (v : List (Nat × Fl)) : (s.orFlags r v).corrected = s.corrected := rfl
@[simp] theorem State.orFlags_cores (s : State) (r : FibreRef) (v : List (Nat × Fl)) : (s.orFlags r v).cores = s.cores := rfl
@[simp] theorem State.orFlags_clusters (s : State) (r : FibreRef) (v : List (Nat × Fl)) : (s.orFlags r v).clusters = s.clusters := rfl
@[simp] theorem State.orFlags_dies (s : State) (r : FibreRef) (v : List (Nat × Fl)) : (s.orFlags r v).dies = s.dies := rfl
@[simp] theorem State.orFlags_ctxs (s : State) (r : FibreRef) (v : List (Nat × Fl)) : (s.orFlags r v).ctxs = s.ctxs := rfl
@[simp] theorem State.orFlags_launches (s : State) (r : FibreRef) (v : List (Nat × Fl)) : (s.orFlags r v).launches = s.launches := rfl
@[simp] theorem State.orFlags_saved (s : State) (r : FibreRef) (v : List (Nat × Fl)) : (s.orFlags r v).saved = s.saved := rfl
@[simp] theorem State.orFlags_areas (s : State) (r : FibreRef) (v : List (Nat × Fl)) : (s.orFlags r v).areas = s.areas := rfl
@[simp] theorem State.orFlags_accs (s : State) (r : FibreRef) (v : List (Nat × Fl)) : (s.orFlags r v).accs = s.accs := rfl
@[simp] theorem State.orFlags_adds (s : State) (r : FibreRef) (v : List (Nat × Fl)) : (s.orFlags r v).adds = s.adds := rfl
@[simp] theorem State.orFlags_reservs (s : State) (r : FibreRef) (v : List (Nat × Fl)) : (s.orFlags r v).reservs = s.reservs := rfl
@[simp] theorem State.orFlags_commits (s : State) (r : FibreRef) (v : List (Nat × Fl)) : (s.orFlags r v).commits = s.commits := rfl
@[simp] theorem State.orFlags_tlb (s : State) (r : FibreRef) (v : List (Nat × Fl)) : (s.orFlags r v).tlb = s.tlb := rfl
@[simp] theorem State.orFlags_pageReqs (s : State) (r : FibreRef) (v : List (Nat × Fl)) : (s.orFlags r v).pageReqs = s.pageReqs := rfl
@[simp] theorem State.orFlags_convs (s : State) (r : FibreRef) (v : List (Nat × Fl)) : (s.orFlags r v).convs = s.convs := rfl
@[simp] theorem State.orFlags_skipped (s : State) (r : FibreRef) (v : List (Nat × Fl)) : (s.orFlags r v).skipped = s.skipped := rfl
@[simp] theorem State.orFlags_reclaim (s : State) (r : FibreRef) (v : List (Nat × Fl)) : (s.orFlags r v).reclaim = s.reclaim := rfl
@[simp] theorem State.orFlags_mbox (s : State) (r : FibreRef) (v : List (Nat × Fl)) : (s.orFlags r v).mbox = s.mbox := rfl
@[simp] theorem State.orFlags_power (s : State) (r : FibreRef) (v : List (Nat × Fl)) : (s.orFlags r v).power = s.power := rfl
@[simp] theorem State.orFlags_fw (s : State) (r : FibreRef) (v : List (Nat × Fl)) : (s.orFlags r v).fw = s.fw := rfl
@[simp] theorem State.orFlags_attach (s : State) (r : FibreRef) (v : List (Nat × Fl)) : (s.orFlags r v).attach = s.attach := rfl
@[simp] theorem State.orFlags_fab (s : State) (r : FibreRef) (v : List (Nat × Fl)) : (s.orFlags r v).fab = s.fab := rfl
@[simp] theorem State.orFlags_cur (s : State) (r : FibreRef) (v : List (Nat × Fl)) : (s.orFlags r v).cur = s.cur := rfl
@[simp] theorem State.orFlags_inbox (s : State) (r : FibreRef) (v : List (Nat × Fl)) : (s.orFlags r v).inbox = s.inbox := rfl
@[simp] theorem State.orFlags_uid (s : State) (r : FibreRef) (v : List (Nat × Fl)) : (s.orFlags r v).uid = s.uid := rfl

/-! ### setHolder -/

@[simp] theorem State.setHolder_time (s : State) (u slot fid : Nat) : (s.setHolder u slot fid).time = s.time := rfl
@[simp] theorem State.setHolder_clock (s : State) (u slot fid : Nat) : (s.setHolder u slot fid).clock = s.clock := rfl
@[simp] theorem State.setHolder_tick (s : State) (u slot fid : Nat) : (s.setHolder u slot fid).tick = s.tick := rfl
@[simp] theorem State.setHolder_fresh (s : State) (u slot fid : Nat) : (s.setHolder u slot fid).fresh = s.fresh := rfl
@[simp] theorem State.setHolder_on (s : State) (u slot fid : Nat) : (s.setHolder u slot fid).on = s.on := rfl
@[simp] theorem State.setHolder_down (s : State) (u slot fid : Nat) : (s.setHolder u slot fid).down = s.down := rfl
@[simp] theorem State.setHolder_pkg (s : State) (u slot fid : Nat) : (s.setHolder u slot fid).pkg = s.pkg := rfl
@[simp] theorem State.setHolder_mem (s : State) (u slot fid : Nat) : (s.setHolder u slot fid).mem = s.mem := rfl
@[simp] theorem State.setHolder_home (s : State) (u slot fid : Nat) : (s.setHolder u slot fid).home = s.home := rfl
@[simp] theorem State.setHolder_poison (s : State) (u slot fid : Nat) : (s.setHolder u slot fid).poison = s.poison := rfl
@[simp] theorem State.setHolder_corrected (s : State) (u slot fid : Nat) : (s.setHolder u slot fid).corrected = s.corrected := rfl
@[simp] theorem State.setHolder_cores (s : State) (u slot fid : Nat) : (s.setHolder u slot fid).cores = s.cores := rfl
@[simp] theorem State.setHolder_clusters (s : State) (u slot fid : Nat) : (s.setHolder u slot fid).clusters = s.clusters := rfl
@[simp] theorem State.setHolder_dies (s : State) (u slot fid : Nat) : (s.setHolder u slot fid).dies = s.dies := rfl
@[simp] theorem State.setHolder_ctxs (s : State) (u slot fid : Nat) : (s.setHolder u slot fid).ctxs = s.ctxs := rfl
@[simp] theorem State.setHolder_launches (s : State) (u slot fid : Nat) : (s.setHolder u slot fid).launches = s.launches := rfl
@[simp] theorem State.setHolder_saved (s : State) (u slot fid : Nat) : (s.setHolder u slot fid).saved = s.saved := rfl
@[simp] theorem State.setHolder_areas (s : State) (u slot fid : Nat) : (s.setHolder u slot fid).areas = s.areas := rfl
@[simp] theorem State.setHolder_accs (s : State) (u slot fid : Nat) : (s.setHolder u slot fid).accs = s.accs := rfl
@[simp] theorem State.setHolder_adds (s : State) (u slot fid : Nat) : (s.setHolder u slot fid).adds = s.adds := rfl
@[simp] theorem State.setHolder_reservs (s : State) (u slot fid : Nat) : (s.setHolder u slot fid).reservs = s.reservs := rfl
@[simp] theorem State.setHolder_commits (s : State) (u slot fid : Nat) : (s.setHolder u slot fid).commits = s.commits := rfl
@[simp] theorem State.setHolder_tlb (s : State) (u slot fid : Nat) : (s.setHolder u slot fid).tlb = s.tlb := rfl
@[simp] theorem State.setHolder_pageReqs (s : State) (u slot fid : Nat) : (s.setHolder u slot fid).pageReqs = s.pageReqs := rfl
@[simp] theorem State.setHolder_convs (s : State) (u slot fid : Nat) : (s.setHolder u slot fid).convs = s.convs := rfl
@[simp] theorem State.setHolder_skipped (s : State) (u slot fid : Nat) : (s.setHolder u slot fid).skipped = s.skipped := rfl
@[simp] theorem State.setHolder_reclaim (s : State) (u slot fid : Nat) : (s.setHolder u slot fid).reclaim = s.reclaim := rfl
@[simp] theorem State.setHolder_mbox (s : State) (u slot fid : Nat) : (s.setHolder u slot fid).mbox = s.mbox := rfl
@[simp] theorem State.setHolder_power (s : State) (u slot fid : Nat) : (s.setHolder u slot fid).power = s.power := rfl
@[simp] theorem State.setHolder_fw (s : State) (u slot fid : Nat) : (s.setHolder u slot fid).fw = s.fw := rfl
@[simp] theorem State.setHolder_attach (s : State) (u slot fid : Nat) : (s.setHolder u slot fid).attach = s.attach := rfl
@[simp] theorem State.setHolder_fab (s : State) (u slot fid : Nat) : (s.setHolder u slot fid).fab = s.fab := rfl
@[simp] theorem State.setHolder_cur (s : State) (u slot fid : Nat) : (s.setHolder u slot fid).cur = s.cur := rfl
@[simp] theorem State.setHolder_inbox (s : State) (u slot fid : Nat) : (s.setHolder u slot fid).inbox = s.inbox := rfl
@[simp] theorem State.setHolder_uid (s : State) (u slot fid : Nat) : (s.setHolder u slot fid).uid = s.uid := rfl

/-! ### ramWrite -/

@[simp] theorem State.ramWrite_time (s : State) (la : Nat) (bs : List Byte) (p : Bool) : (s.ramWrite la bs p).time = s.time := rfl
@[simp] theorem State.ramWrite_clock (s : State) (la : Nat) (bs : List Byte) (p : Bool) : (s.ramWrite la bs p).clock = s.clock := rfl
@[simp] theorem State.ramWrite_tick (s : State) (la : Nat) (bs : List Byte) (p : Bool) : (s.ramWrite la bs p).tick = s.tick := rfl
@[simp] theorem State.ramWrite_fresh (s : State) (la : Nat) (bs : List Byte) (p : Bool) : (s.ramWrite la bs p).fresh = s.fresh := rfl
@[simp] theorem State.ramWrite_on (s : State) (la : Nat) (bs : List Byte) (p : Bool) : (s.ramWrite la bs p).on = s.on := rfl
@[simp] theorem State.ramWrite_down (s : State) (la : Nat) (bs : List Byte) (p : Bool) : (s.ramWrite la bs p).down = s.down := rfl
@[simp] theorem State.ramWrite_pkg (s : State) (la : Nat) (bs : List Byte) (p : Bool) : (s.ramWrite la bs p).pkg = s.pkg := rfl
@[simp] theorem State.ramWrite_corrected (s : State) (la : Nat) (bs : List Byte) (p : Bool) : (s.ramWrite la bs p).corrected = s.corrected := rfl
@[simp] theorem State.ramWrite_cores (s : State) (la : Nat) (bs : List Byte) (p : Bool) : (s.ramWrite la bs p).cores = s.cores := rfl
@[simp] theorem State.ramWrite_clusters (s : State) (la : Nat) (bs : List Byte) (p : Bool) : (s.ramWrite la bs p).clusters = s.clusters := rfl
@[simp] theorem State.ramWrite_dies (s : State) (la : Nat) (bs : List Byte) (p : Bool) : (s.ramWrite la bs p).dies = s.dies := rfl
@[simp] theorem State.ramWrite_ctxs (s : State) (la : Nat) (bs : List Byte) (p : Bool) : (s.ramWrite la bs p).ctxs = s.ctxs := rfl
@[simp] theorem State.ramWrite_launches (s : State) (la : Nat) (bs : List Byte) (p : Bool) : (s.ramWrite la bs p).launches = s.launches := rfl
@[simp] theorem State.ramWrite_teams (s : State) (la : Nat) (bs : List Byte) (p : Bool) : (s.ramWrite la bs p).teams = s.teams := rfl
@[simp] theorem State.ramWrite_saved (s : State) (la : Nat) (bs : List Byte) (p : Bool) : (s.ramWrite la bs p).saved = s.saved := rfl
@[simp] theorem State.ramWrite_areas (s : State) (la : Nat) (bs : List Byte) (p : Bool) : (s.ramWrite la bs p).areas = s.areas := rfl
@[simp] theorem State.ramWrite_accs (s : State) (la : Nat) (bs : List Byte) (p : Bool) : (s.ramWrite la bs p).accs = s.accs := rfl
@[simp] theorem State.ramWrite_adds (s : State) (la : Nat) (bs : List Byte) (p : Bool) : (s.ramWrite la bs p).adds = s.adds := rfl
@[simp] theorem State.ramWrite_reservs (s : State) (la : Nat) (bs : List Byte) (p : Bool) : (s.ramWrite la bs p).reservs = s.reservs := rfl
@[simp] theorem State.ramWrite_commits (s : State) (la : Nat) (bs : List Byte) (p : Bool) : (s.ramWrite la bs p).commits = s.commits := rfl
@[simp] theorem State.ramWrite_tlb (s : State) (la : Nat) (bs : List Byte) (p : Bool) : (s.ramWrite la bs p).tlb = s.tlb := rfl
@[simp] theorem State.ramWrite_pageReqs (s : State) (la : Nat) (bs : List Byte) (p : Bool) : (s.ramWrite la bs p).pageReqs = s.pageReqs := rfl
@[simp] theorem State.ramWrite_convs (s : State) (la : Nat) (bs : List Byte) (p : Bool) : (s.ramWrite la bs p).convs = s.convs := rfl
@[simp] theorem State.ramWrite_skipped (s : State) (la : Nat) (bs : List Byte) (p : Bool) : (s.ramWrite la bs p).skipped = s.skipped := rfl
@[simp] theorem State.ramWrite_reclaim (s : State) (la : Nat) (bs : List Byte) (p : Bool) : (s.ramWrite la bs p).reclaim = s.reclaim := rfl
@[simp] theorem State.ramWrite_mbox (s : State) (la : Nat) (bs : List Byte) (p : Bool) : (s.ramWrite la bs p).mbox = s.mbox := rfl
@[simp] theorem State.ramWrite_power (s : State) (la : Nat) (bs : List Byte) (p : Bool) : (s.ramWrite la bs p).power = s.power := rfl
@[simp] theorem State.ramWrite_fw (s : State) (la : Nat) (bs : List Byte) (p : Bool) : (s.ramWrite la bs p).fw = s.fw := rfl
@[simp] theorem State.ramWrite_attach (s : State) (la : Nat) (bs : List Byte) (p : Bool) : (s.ramWrite la bs p).attach = s.attach := rfl
@[simp] theorem State.ramWrite_fab (s : State) (la : Nat) (bs : List Byte) (p : Bool) : (s.ramWrite la bs p).fab = s.fab := rfl
@[simp] theorem State.ramWrite_cur (s : State) (la : Nat) (bs : List Byte) (p : Bool) : (s.ramWrite la bs p).cur = s.cur := rfl
@[simp] theorem State.ramWrite_inbox (s : State) (la : Nat) (bs : List Byte) (p : Bool) : (s.ramWrite la bs p).inbox = s.inbox := rfl
@[simp] theorem State.ramWrite_uid (s : State) (la : Nat) (bs : List Byte) (p : Bool) : (s.ramWrite la bs p).uid = s.uid := rfl

end Sys2Proof.Machine
end

