-- ==== Sys2Proof/Laws/Issue.lean ====
section
/-! SUPPORT. What the shell `issue` does when nothing holds an instruction back, and what a finished instruction leaves. -/

namespace Sys2Proof.Laws

open Sys2Proof.Machine Sys2Proof.Safety

/-- How the shell turns a meaning's answer into an outcome. -/
def outcome (i : Instr) (n : Names) (s : State) (c : Ctx) (a : Act) : Host.Outcome State Fault Refusal :=
  match a with
  | .ok (t, .advance) => .next (t.modFibre c.r Fibre.advance)
  | .ok (t, .placed) => .next (t.modFibre c.r Fibre.leave)
  | .ok (t, .stopped) => .next ((t.modFibre c.r Fibre.leave).passStopped c.r c.act n.g.y)
  | .error e => .next ((s.setHolder c.r.team c.f0.slot c.r.fid).except c.r c.f0 c.is c.act i n.g.y e)

/-- Where an instruction issues, the shell gives its meaning the context and passes on. -/
theorem issue_eq {i : Instr} {n : Names} {s : State} {c : Ctx} (h : issuing i n s = some c) (k : Ctx → Act) :
    issue i n s k = outcome i n s c (k c) := by
  unfold issuing at h
  split at h
  · cases h
  rename_i r hr
  split at h
  · cases h
  rename_i t ht
  split at h
  · cases h
  rename_i f hf
  split at h
  · cases h
  rename_i is his
  split at h
  case isFalse => cases h
  rename_i hc
  simp only [clear, Bool.and_eq_true, Bool.not_eq_true', Option.isNone_iff_eq_none, List.isEmpty_iff] at hc
  obtain ⟨⟨⟨⟨⟨h1, h2⟩, h3⟩, h4⟩, h5⟩, h6⟩ := hc
  dsimp only at h
  split at h
  case h_2 => cases h
  rename_i wv hw
  split at h
  case isFalse => cases h
  rename_i ho
  simp only [activeLanes] at hw
  simp only [activeLanes, Bool.and_eq_true, Bool.not_eq_true', List.isEmpty_iff] at ho
  obtain ⟨ho, ha⟩ := ho
  unfold issue
  simp only [hr, ht, hf, his, h1, h2, h3, Option.isSome_none, Bool.or_self, Bool.false_eq_true, if_false]
  unfold issue.go
  simp only [h4, h5, h6, Bool.false_eq_true, if_false, List.map_nil]
  rw [hw]
  simp only [ha, ho, List.isEmpty_nil, Bool.not_true, Bool.false_eq_true, if_false]
  cases h
  rfl

end Sys2Proof.Laws
end

