-- ==== Sys2Proof/Laws/Fibre.lean ====
section
/-! SUPPORT. Reading back what was written: teams, fibres, threads, slots and the rows of registers. -/

namespace Sys2Proof.Laws

open Sys2Proof.Machine Sys2Proof.Safety

/-! ## Lists -/

theorem find?_map_key {α : Type} (key : α → Nat) (u v : Nat) (f : α → α) (hf : ∀ x, key (f x) = key x) (l : List α) :
    (l.map fun x => if key x == u then f x else x).find? (fun x => key x == v) =
      (l.find? fun x => key x == v).map fun x => if v == u then f x else x := by
  induction l with
  | nil => rfl
  | cons x xs ih =>
    simp only [List.map_cons, List.find?_cons]
    by_cases h : key x = v
    · subst h
      by_cases h2 : key x = u <;> simp [h2, hf]
    · have : (key (if (key x == u) = true then f x else x) == v) = false := by
        split <;> simp [hf, h]
      rw [this, ih, beq_eq_false_iff_ne.2 h]

theorem getD_setLane (l : List Row) (i j : Nat) (x : Row) :
    (setLane l i x).getD j Row.zero = if j = i then x else l.getD j Row.zero := by
  induction l generalizing i j with
  | nil =>
    induction i generalizing j with
    | zero => cases j <;> simp [setLane]
    | succ i ih =>
      cases j with
      | zero => simp [setLane]
      | succ j => have := ih j; simp_all [setLane]
  | cons y ys ih =>
    cases i with
    | zero => cases j <;> simp [setLane]
    | succ i => cases j with
      | zero => simp [setLane]
      | succ j => have := ih i j; simp_all [setLane]

/-- A list of rows by lane, no lane named twice, written into a register. -/
theorem row_put (v : VReg) (lanes : List Nat) (g : Nat → Row) (sh : Shape) (hl : lanes.Nodup) (l : Nat) :
    (v.put (lanes.map fun i => (i, g i)) sh).row l = if l ∈ lanes then g l else v.row l := by
  simp only [VReg.put, VReg.row]
  generalize v.rows = r
  induction lanes generalizing r with
  | nil => simp
  | cons a as ih =>
    rw [List.nodup_cons] at hl
    rw [List.map_cons, List.foldl_cons, ih hl.2, getD_setLane]
    by_cases h1 : l ∈ as
    · have : l ≠ a := fun h => hl.1 (h ▸ h1)
      simp [h1]
    · by_cases h2 : l = a
      · subst h2; simp [h1]
      · simp [h1, h2]

theorem shape_put (v : VReg) (rows : List (Nat × Row)) (sh : Shape) : (v.put rows sh).shape = sh := rfl

/-! ## Teams and fibres -/

theorem team?_modTeam (s : State) (u v : Nat) (f : Team → Team) (hf : ∀ t, (f t).uid = t.uid) :
    (s.modTeam u f).team? v = (s.team? v).map fun t => if v == u then f t else t :=
  find?_map_key Team.uid u v f hf s.teams

theorem fibre?_modFibre (t : Team) (u v : Nat) (f : Fibre → Fibre) (hf : ∀ x, (f x).fid = x.fid) :
    (t.modFibre u f).fibre? v = (t.fibre? v).map fun x => if v == u then f x else x :=
  find?_map_key Fibre.fid u v f hf t.fibres

/-- A function that keeps the number of the fibre it is given is enough where the fibre is known. -/
theorem find?_map_const {α : Type} (key : α → Nat) (u v : Nat) (y : α) (hy : key y = u) (l : List α) :
    (l.map fun x => if key x == u then y else x).find? (fun x => key x == v) =
      (l.find? fun x => key x == v).map fun x => if v == u then y else x := by
  induction l with
  | nil => rfl
  | cons x xs ih =>
    simp only [List.map_cons, List.find?_cons]
    by_cases h : key x = v
    · subst h
      by_cases h2 : key x = u <;> simp [h2, hy]
    · have : (key (if (key x == u) = true then y else x) == v) = false := by
        split
        · rename_i h2
          simp only [beq_iff_eq] at h2
          simp [hy, ← h2, h]
        · simp [h]
      rw [this, ih, beq_eq_false_iff_ne.2 h]

theorem team?_uid {s : State} {u : Nat} {t : Team} (h : s.team? u = some t) : t.uid = u := by
  have := List.find?_some h
  simpa using this

theorem fibre?_fid {t : Team} {k : Nat} {f : Fibre} (h : t.fibre? k = some f) : f.fid = k := by
  have := List.find?_some h
  simpa using this

/-! ## Threads -/

theorem thread_modThread (f : Fibre) (i j : Nat) (g : Thread → Thread) (hi : i < f.threads.length) :
    (f.modThread i g).thread j = if j = i then g (f.thread j) else f.thread j := by
  simp only [Fibre.modThread, Fibre.thread, List.getD_eq_getElem?_getD, List.getElem?_modify]
  by_cases h : i = j
  · subst h
    simp [List.getElem?_eq_getElem hi]
  · have : j ≠ i := fun e => h e.symm
    simp [h, this]

theorem length_modThread (f : Fibre) (i : Nat) (g : Thread → Thread) : (f.modThread i g).threads.length = f.threads.length := by
  simp [Fibre.modThread]

/-- One change of each of several lanes. -/
theorem thread_foldl {α : Type} (vals : List (Nat × α)) (g : α → Thread → Thread) (f : Fibre)
    (hn : (vals.map (·.1)).Nodup) (hi : ∀ p ∈ vals, p.1 < f.threads.length) (j : Nat) :
    (vals.foldl (fun (f : Fibre) p => f.modThread p.1 (g p.2)) f).thread j =
      match vals.find? (fun p => p.1 == j) with
      | some p => g p.2 (f.thread j)
      | none => f.thread j := by
  induction vals generalizing f with
  | nil => rfl
  | cons p ps ih =>
    rw [List.map_cons, List.nodup_cons] at hn
    rw [List.foldl_cons, ih _ hn.2 (by
      intro q hq
      rw [length_modThread]
      exact hi q (List.mem_cons_of_mem _ hq)), List.find?_cons]
    have hp := hi p List.mem_cons_self
    by_cases h : p.1 = j
    · subst h
      have : ps.find? (fun q => q.1 == p.1) = none := by
        rw [List.find?_eq_none]
        intro q hq hqe
        simp only [beq_iff_eq] at hqe
        exact hn.1 (List.mem_map.2 ⟨q, hq, hqe⟩)
      rw [this]
      simp [thread_modThread f p.1 p.1 _ hp]
    · have h2 : (p.1 == j) = false := by simp [h]
      rw [h2, thread_modThread f p.1 j _ hp]
      have : j ≠ p.1 := fun e => h e.symm
      simp [this]

theorem foldl_modThread_same {α : Type} (vals : List (Nat × α)) (g : α → Thread → Thread) (f : Fibre) :
    vals.foldl (fun (f : Fibre) p => f.modThread p.1 (g p.2)) f =
      { f with threads := (vals.foldl (fun (f : Fibre) p => f.modThread p.1 (g p.2)) f).threads } ∧
    (vals.foldl (fun (f : Fibre) p => f.modThread p.1 (g p.2)) f).threads.length = f.threads.length := by
  induction vals generalizing f with
  | nil => exact ⟨rfl, rfl⟩
  | cons p ps ih =>
    obtain ⟨h1, h2⟩ := ih (f.modThread p.1 (g p.2))
    rw [List.foldl_cons]
    refine ⟨?_, h2.trans (length_modThread _ _ _)⟩
    rw [h1]
    rfl

/-! ## Lanes -/

theorem lanesWhere_spec (f : Fibre) (p : Thread → Bool) :
    f.lanesWhere p = (List.range f.threads.length).filter fun i => p (f.thread i) := by
  unfold Fibre.lanesWhere Fibre.thread
  generalize f.threads = l
  suffices h : ∀ (k : Nat), (l.zipIdx k).filterMap (fun x => if p x.1 = true then some x.2 else none) =
      ((List.range l.length).filter fun i => p (l.getD i noThread)).map (k + ·) by
    have := h 0
    simpa using this
  induction l with
  | nil => intro k; rfl
  | cons x xs ih =>
    intro k
    rw [List.zipIdx_cons, List.filterMap_cons, ih (k + 1), List.length_cons, List.range_succ_eq_map, List.filter_cons]
    have hmap : ∀ (q : List Nat), List.map (fun x => k + 1 + x) q = List.map (fun x => k + x) (List.map Nat.succ q) := by
      intro q
      simp only [List.map_map]
      apply List.map_congr_left
      intro a _
      simp only [Function.comp_apply, Nat.succ_eq_add_one]
      omega
    have hf : List.filter (fun i => p ((x :: xs).getD i noThread)) (List.map Nat.succ (List.range xs.length)) =
        List.map Nat.succ (List.filter (fun i => p (xs.getD i noThread)) (List.range xs.length)) := by
      rw [List.filter_map]
      rfl
    rw [hf]
    by_cases hx : p x = true
    · simp only [hx, List.getD_cons_zero, if_true, List.map_cons, Nat.add_zero]
      rw [← hmap]
    · simp only [hx, List.getD_cons_zero, Bool.false_eq_true, if_false]
      rw [← hmap]

theorem nodup_bundle (f : Fibre) : f.bundle.Nodup := by
  rw [Fibre.bundle, lanesWhere_spec]
  exact List.Nodup.sublist List.filter_sublist List.nodup_range

theorem bundle_lt {f : Fibre} {l : Nat} (h : l ∈ f.bundle) : l < f.threads.length := by
  rw [Fibre.bundle, lanesWhere_spec] at h
  simpa using (List.mem_filter.1 h).1

end Sys2Proof.Laws
end

