-- ==== Sys2Proof/Laws/After.lean ====
section
/-! SUPPORT. What the shared operations of finished instructions leave: register writes, predicate writes, flags, and the step of the
bundle to the next instruction. -/

namespace Sys2Proof.Laws

open Sys2Proof.Machine Sys2Proof.Safety

/-! ## The context of an issue -/

/-- What the context of an issue holds. -/
structure CtxOk (c : Ctx) : Prop where
  team : ∃ T, c.s.team? c.r.team = some T ∧ T.fibre? c.r.fid = some c.f ∧ T.nregs c.f = c.t.nregs c.f ∧
    (∀ n, T.reg c.f n = c.t.reg c.f n)
  nodup : c.act.Nodup
  inside : ∀ l ∈ c.act, l < c.f.threads.length

theorem length_afterReads (i : Instr) (n : Names) (f : Fibre) (ks : List Nat) :
    (afterReads i n f ks).threads.length = f.threads.length := by
  simp only [afterReads]
  split <;> simp

theorem setHolder_team (s : State) (u k fid : Nat) : (s.setHolder u k fid).team? u =
    (s.team? u).map fun t => { t with slots := t.slots.modify k fun sl => { sl with holder := fid } } := by
  rw [State.setHolder, team?_modTeam]
  · simp
  · intro t; rfl

theorem getD_modify {α : Type} (l : List α) (k j : Nat) (f : α → α) (d : α) (hd : j = k → k < l.length) :
    (l.modify k f).getD j d = if j = k then f (l.getD j d) else l.getD j d := by
  simp only [List.getD_eq_getElem?_getD, List.getElem?_modify]
  by_cases h : k = j
  · subst h
    simp [List.getElem?_eq_getElem (hd rfl)]
  · have : j ≠ k := fun e => h e.symm
    simp [h, this]

/-- The shared window of a slot does not depend on who holds it. -/
theorem shared_holder (l : List Slot) (k fid : Nat) :
    ((l.modify k fun sl => { sl with holder := fid }).getD k noSlot).shared = (l.getD k noSlot).shared := by
  by_cases h : k < l.length
  · rw [getD_modify _ _ _ _ _ fun _ => h]; simp
  · simp only [List.getD_eq_getElem?_getD]
    rw [List.getElem?_eq_none (by simpa using h), List.getElem?_eq_none (by simpa using h)]

/-- Nor on when it issued last. -/
theorem shared_last (l : List Slot) (k n : Nat) :
    ((l.modify k fun sl => { sl with last := n }).getD k noSlot).shared = (l.getD k noSlot).shared := by
  by_cases h : k < l.length
  · rw [getD_modify _ _ _ _ _ fun _ => h]; simp
  · simp only [List.getD_eq_getElem?_getD]
    rw [List.getElem?_eq_none (by simpa using h), List.getElem?_eq_none (by simpa using h)]

theorem issuing_ok {i : Instr} {n : Names} {s : State} {c : Ctx} (h : issuing i n s = some c) : CtxOk c := by
  unfold issuing at h
  split at h
  · cases h
  rename_i r hr
  split at h
  · cases h
  rename_i t ht
  split at h
  · cases h
  rename_i f hf
  split at h
  · cases h
  split at h
  case isFalse => cases h
  dsimp only at h
  split at h
  case h_2 => cases h
  rename_i wv hw
  split at h
  case isFalse => cases h
  have hlen := length_afterReads i n f (wv.map (·.1))
  have hslot : (afterReads i n f (wv.map (·.1))).slot = f.slot := rfl
  have hpriv : (afterReads i n f (wv.map (·.1))).priv = f.priv := rfl
  have hfid : (afterReads i n f (wv.map (·.1))).fid = r.fid := fibre?_fid (f := f) hf
  generalize afterReads i n f (wv.map (·.1)) = f1 at h hlen hslot hpriv hfid
  cases h
  let T0 : Team := { t with slots := t.slots.modify f.slot fun sl => { sl with holder := r.fid } }
  let φ (x : Team) : Team := (x.stamp f.slot (s.setHolder r.team f.slot r.fid).tick).modFibre r.fid fun _ => f1
  refine ⟨⟨φ T0, ?_, ?_, ?_, ?_⟩, ?_, ?_⟩
  · have h1 : ((s.setHolder r.team f.slot r.fid).modTeam r.team φ).team? r.team =
        ((s.setHolder r.team f.slot r.fid).team? r.team).map fun t => if r.team == r.team then φ t else t :=
      team?_modTeam _ _ _ _ fun t => rfl
    refine h1.trans ?_
    rw [setHolder_team, ht]
    simp [T0]
  · have h1 := find?_map_const Fibre.fid r.fid r.fid f1 hfid T0.fibres
    have h2 : T0.fibres.find? (fun x => x.fid == r.fid) = some f := hf
    rw [h2] at h1
    exact h1.trans (by simp)
  · simp only [Team.nregs, Team.slotOf, Team.modFibre, Team.stamp, hslot, hpriv, T0, φ]
    rw [shared_last, shared_holder, shared_last]
  · intro m
    simp only [Team.reg, Team.slotOf, Team.modFibre, Team.stamp, hslot, hpriv, T0, φ]
    rw [shared_last, shared_holder, shared_last]
  · exact List.Nodup.sublist List.filter_sublist (nodup_bundle f)
  · intro l hl
    rw [hlen]
    exact bundle_lt (List.mem_filter.1 hl).1

/-! ## Steps of a meaning -/

theorem after_now {c : Ctx} (h : CtxOk c) : After c c.s (now c) := by
  obtain ⟨T, h1, h2, h3, h4⟩ := h.team
  refine ⟨rfl, fun _ => rfl, fun _ _ => rfl, T, T, c.f, h1, h1, ?_⟩
  refine ⟨h2, rfl, fun _ _ => rfl, ⟨rfl, fun _ _ => rfl, rfl⟩, rfl, rfl, fun n _ => ?_, rfl, fun l => rfl⟩
  exact ⟨by rw [h4]; rfl, fun l => by rw [h4]; rfl⟩

theorem after_modTeam {c : Ctx} {t : State} {o o' : Out} (h : After c t o) (hs : o'.state = o.state) (F : Team → Team) (hu : ∀ t, (F t).uid = t.uid)
    (hF : ∀ T T' g, c.s.team? c.r.team = some T → FibreAfter c T T' g o → ∃ g', FibreAfter c T (F T') g' o') : After c (t.modTeam c.r.team F) o' := by
  obtain ⟨T, T', g, h1, h2, h3⟩ := h.own
  obtain ⟨g', h4⟩ := hF T T' g h1 h3
  refine ⟨?_, hs ▸ h.memory, ?_, T, F T', g', h1, ?_, h4⟩
  · rw [hs]
    exact congrArg (fun x : State => { x with teams := (t.modTeam c.r.team F).teams }) h.rest
  · intro u hu'
    rw [team?_modTeam _ _ _ _ hu, ← h.others u hu']
    simp [hu']
  · rw [team?_modTeam _ _ _ _ hu, h2]
    simp

theorem fibre?_modFibre_eq {T : Team} {fid : Nat} {g : Fibre} (φ : Fibre → Fibre) (hφ : ∀ x, (φ x).fid = x.fid)
    (h : T.fibre? fid = some g) : (T.modFibre fid φ).fibre? fid = some (φ g) := by
  rw [fibre?_modFibre _ _ _ _ hφ, h]
  simp

theorem fibre?_modFibre_ne {T : Team} {fid k : Nat} (φ : Fibre → Fibre) (hφ : ∀ x, (φ x).fid = x.fid) (h : k ≠ fid) :
    (T.modFibre fid φ).fibre? k = T.fibre? k := by
  rw [fibre?_modFibre _ _ _ _ hφ]
  simp [h]

/-- A change of threads and issue of the fibre. -/
theorem after_threads {c : Ctx} {t : State} {o o' : Out} (h : After c t o) (φ : Fibre → Fibre)
    (hsame : ∀ x, φ x = { x with threads := (φ x).threads, issue := (φ x).issue })
    (hlen : ∀ x, (φ x).threads.length = x.threads.length)
    (ho : o'.row = o.row ∧ o'.shape = o.shape ∧ o'.fibre = o.fibre ∧ o'.state = o.state)
    (hth : ∀ g, g.threads.length = c.f.threads.length → (∀ l, sameThread (o.thread l) (g.thread l)) →
      ∀ l, sameThread (o'.thread l) ((φ g).thread l)) : After c (t.modFibre c.r φ) o' := by
  have hfid : ∀ x, (φ x).fid = x.fid := fun x => by rw [hsame x]
  obtain ⟨ho1, ho2, ho3, ho4⟩ := ho
  refine after_modTeam h ho4 _ (fun t => rfl) fun T T' g _ hg => ⟨φ g, ?_⟩
  have hr : ∀ n, (T'.modFibre c.r.fid φ).reg (φ g) n = T'.reg g n := by
    intro n
    have h1 : (φ g).slot = g.slot := by rw [hsame g]
    have h2 : (φ g).priv = g.priv := by rw [hsame g]
    simp only [Team.reg, Team.slotOf, Team.modFibre, h1, h2, Fibre.width, hlen]
    rfl
  refine ⟨fibre?_modFibre_eq φ hfid hg.fibre, ?_, ?_, hg.slots, ?_, ?_, ?_, (hlen g).trans hg.threads.1,
    hth g hg.threads.1 hg.threads.2⟩
  · exact congrArg (fun x : Team => { x with fibres := (T'.modFibre c.r.fid φ).fibres }) hg.team
  · intro k hk
    rw [fibre?_modFibre_ne φ hfid hk]
    exact hg.others k hk
  · have h1 := hsame g
    rw [ho3, h1, hg.same]
  · have h1 : (φ g).slot = g.slot := by rw [hsame g]
    have h2 : (φ g).priv = g.priv := by rw [hsame g]
    have := hg.window
    simp only [Team.nregs, Team.slotOf, Team.modFibre, h1, h2] at this ⊢
    exact this
  · intro n hn
    rw [hr, ho1, ho2]
    exact hg.regs n hn

theorem thread_map (f : Fibre) (φ : Thread → Thread) (l : Nat) (h : φ noThread = noThread) :
    ({ f with threads := f.threads.map φ } : Fibre).thread l = φ (f.thread l) := by
  simp only [Fibre.thread, List.getD_eq_getElem?_getD, List.getElem?_map]
  cases f.threads[l]? <;> simp [h]

theorem endClause_same (i : Issue) (t : Thread) : sameThread t (Thread.endClause i t) := by
  unfold Thread.endClause
  split <;> rfl

theorem sameThread_trans {x y z : Thread} (h1 : sameThread x y) (h2 : sameThread y z) : sameThread x z := by
  unfold sameThread at *
  rw [h2, h1]

/-- Leaving a clause changes nothing but what the fibre issues. -/
theorem leave_spec (x : Fibre) : x.leave = { x with issue := x.leave.issue } := by
  unfold Fibre.leave
  split
  · rfl
  · split
    · rfl
    · split <;> rfl

/-- A step to the next instruction changes only threads and what the fibre issues. -/
theorem advance_spec (x : Fibre) : x.advance = { x with threads := x.advance.threads, issue := x.advance.issue } ∧
    (x.advance.threads = x.threads ∨ ∃ i, x.advance.threads = x.threads.map (Thread.endClause i)) := by
  unfold Fibre.advance
  split
  · exact ⟨rfl, .inl rfl⟩
  · rename_i i hi
    split
    · rw [leave_spec]
      exact ⟨rfl, .inr ⟨i, rfl⟩⟩
    · exact ⟨rfl, .inl rfl⟩

/-- The step of the bundle to the next instruction. -/
theorem after_advance {c : Ctx} {t : State} {o : Out} (h : After c t o) : After c (t.modFibre c.r Fibre.advance) o := by
  refine after_threads h Fibre.advance (fun x => (advance_spec x).1) ?_ ⟨rfl, rfl, rfl, rfl⟩ ?_
  · intro x
    obtain h1 | ⟨i, h1⟩ := (advance_spec x).2 <;> rw [h1]
    simp
  · intro g _ hg l
    obtain h1 | ⟨i, h1⟩ := (advance_spec g).2
    · have h2 : g.advance.thread l = g.thread l := by simp only [Fibre.thread, h1]
      rw [h2]
      exact hg l
    · have h2 : g.advance.thread l = Thread.endClause i (g.thread l) := by
        rw [← thread_map g (Thread.endClause i) l rfl]
        simp only [Fibre.thread, h1]
      rw [h2]
      exact sameThread_trans (hg l) (endClause_same i (g.thread l))

theorem shift_bit : ∀ p q : BitVec 3, (1#8 <<< p.toNat).getLsbD q.toNat = (q == p) := by decide

theorem set_bit (b : BitVec 8) (p q : BitVec 3) (v : Bool) :
    (if v then b ||| (1#8 <<< p.toNat) else b &&& ~~~(1#8 <<< p.toNat)).getLsbD q.toNat = if q = p then v else b.getLsbD q.toNat := by
  have hlt : q.toNat < 8 := q.isLt
  by_cases hqp : q = p
  · rw [if_pos hqp]
    cases v
    · show (b &&& ~~~(1#8 <<< p.toNat)).getLsbD q.toNat = false
      rw [BitVec.getLsbD_and, BitVec.getLsbD_not, shift_bit, beq_iff_eq.2 hqp]
      simp
    · show (b ||| (1#8 <<< p.toNat)).getLsbD q.toNat = true
      rw [BitVec.getLsbD_or, shift_bit, beq_iff_eq.2 hqp, Bool.or_true]
  · rw [if_neg hqp]
    cases v
    · show (b &&& ~~~(1#8 <<< p.toNat)).getLsbD q.toNat = b.getLsbD q.toNat
      rw [BitVec.getLsbD_and, BitVec.getLsbD_not, shift_bit, beq_eq_false_iff_ne.2 hqp]
      simp [hlt]
    · show (b ||| (1#8 <<< p.toNat)).getLsbD q.toNat = b.getLsbD q.toNat
      rw [BitVec.getLsbD_or, shift_bit, beq_eq_false_iff_ne.2 hqp, Bool.or_false]

theorem pred_setPred (t : Thread) (p q : BitVec 3) (v : Bool) :
    (t.setPred p v).pred q = if q = p ∧ p ≠ 7 then v else t.pred q := by
  unfold Thread.setPred Thread.pred
  by_cases hp : p = 7
  · have h1 : (p == 7) = true := beq_iff_eq.2 hp
    simp only [h1, if_true]
    rw [if_neg]
    exact fun h => h.2 hp
  · have h1 : (p == 7) = false := beq_eq_false_iff_ne.2 hp
    simp only [h1, Bool.false_eq_true, if_false, set_bit]
    by_cases hq : q = 7
    · have h2 : ¬q = p := fun h => hp (h ▸ hq)
      simp only [beq_iff_eq.2 hq, Bool.true_or, h2, false_and, if_false]
    · simp only [beq_eq_false_iff_ne.2 hq, Bool.false_or]
      by_cases hqp : q = p
      · rw [if_pos hqp, if_pos ⟨hqp, hp⟩]
      · rw [if_neg hqp, if_neg]
        exact fun h => hqp h.1

theorem find_map_mem {α : Type} (l : List Nat) (g : Nat → α) (j : Nat) :
    (l.map fun i => (i, g i)).find? (fun p => p.1 == j) = if j ∈ l then some (j, g j) else none := by
  induction l with
  | nil => rfl
  | cons x xs ih =>
    rw [List.map_cons, List.find?_cons, ih]
    by_cases h : x = j
    · subst h; simp
    · have h2 : (x == j) = false := by simp [h]
      have h3 : j ≠ x := fun e => h e.symm
      simp [h2, h3]

/-- A change of several lanes' threads, one function of the lane's value for each, that respects `sameThread`. -/
theorem after_lanes {c : Ctx} {t : State} {o : Out} (hc : CtxOk c) (h : After c t o) {α : Type} (lanes : List Nat)
    (hsub : lanes.Sublist c.act) (v : Nat → α) (g : α → Thread → Thread) (hg : ∀ a x y, sameThread x y → sameThread (g a x) (g a y)) :
    After c (t.modFibre c.r fun f => (lanes.map fun l => (l, v l)).foldl (fun (f : Fibre) p => f.modThread p.1 (g p.2)) f)
      { o with thread := fun l => if l ∈ lanes then g (v l) (o.thread l) else o.thread l } := by
  have hs := fun x => (foldl_modThread_same (lanes.map fun l => (l, v l)) g x)
  refine after_threads h _ (fun x => ?_) (fun x => (hs x).2) ⟨rfl, rfl, rfl, rfl⟩ ?_
  · rw [(hs x).1]
  · intro x hlen hx l
    have h1 := thread_foldl (lanes.map fun l => (l, v l)) g x
      (by simpa [List.map_map, Function.comp_def] using List.Nodup.sublist hsub hc.nodup)
      (by
        intro q hq
        obtain ⟨l, hl, rfl⟩ := List.mem_map.1 hq
        rw [hlen]
        exact hc.inside l (hsub.subset hl)) l
    rw [find_map_mem] at h1
    dsimp only
    by_cases hl : l ∈ lanes
    · simp only [hl, if_true] at h1 ⊢
      rw [h1]
      exact hg _ _ _ (hx l)
    · simp only [hl, if_false] at h1 ⊢
      rw [h1]
      exact hx l

theorem setPred_sameThread (p : BitVec 3) (v : Bool) (x y : Thread) (h : sameThread x y) : sameThread (x.setPred p v) (y.setPred p v) := by
  unfold sameThread at *
  unfold Thread.setPred
  split
  · exact h
  · rw [h]

/-- A predicate written in the active lanes. -/
theorem after_setPreds {c : Ctx} {t : State} {o : Out} (hc : CtxOk c) (h : After c t o) (p : BitVec 3) (v : Nat → Bool) :
    After c (t.setPreds c.r p (c.act.map fun l => (l, v l))) (o.setPred c p v) :=
  after_lanes hc h c.act (List.Sublist.refl _) v (fun b (t : Thread) => t.setPred p b) fun a x y hxy => setPred_sameThread p a x y hxy

/-- Flags of lanes whose flags are not zero. -/
theorem after_orFlags {c : Ctx} {t : State} {o : Out} (hc : CtxOk c) (h : After c t o) (v : Nat → Fl) :
    After c (t.orFlags c.r (c.act.filterMap fun l => if v l == 0 then none else some (l, v l))) (o.orFlags c v) := by
  have hl2 : ∀ l : List Nat, (l.filterMap fun l => if v l == 0 then none else some (l, v l)) =
      (l.filter fun l => v l != 0).map fun l => (l, v l) := by
    intro l
    induction l with
    | nil => rfl
    | cons x xs ih =>
      rw [List.filterMap_cons, List.filter_cons]
      by_cases hx : v x = 0
      · rw [ih]
        simp [hx]
      · rw [ih]
        have h1 : (v x == 0) = false := beq_eq_false_iff_ne.2 hx
        have h2 : (v x != 0) = true := by rw [bne, h1]; rfl
        rw [h1, h2]
        rfl
  rw [hl2]
  have h1 := after_lanes hc h (c.act.filter fun l => v l != 0) List.filter_sublist v
    (fun b (t : Thread) => { t with flags := t.flags ||| b.setWidth 64 }) fun a x y hxy => by
      unfold sameThread at *
      rw [hxy]
  have h2 : (o.orFlags c v) = { o with thread := fun l => if l ∈ c.act.filter (fun l => v l != 0) then
      { o.thread l with flags := (o.thread l).flags ||| (v l).setWidth 64 } else o.thread l } := by
    unfold Out.orFlags Out.onThreads
    congr 1
    funext l
    by_cases hl : l ∈ c.act
    · by_cases hv : v l = 0
      · simp [hl, hv]
      · have hv2 : (v l != 0) = true := by rw [bne, beq_eq_false_iff_ne.2 hv]; rfl
        have : l ∈ c.act.filter fun l => v l != 0 := List.mem_filter.2 ⟨hl, hv2⟩
        rw [if_pos hl, if_pos this]
    · have : ¬l ∈ c.act.filter fun l => v l != 0 := fun hh => hl (List.mem_filter.1 hh).1
      rw [if_neg hl, if_neg this]
  rw [h2]
  exact h1

theorem getD_modify_VReg (l : List VReg) (k j : Nat) (f : VReg → VReg) (d : VReg) (hk : k < l.length) :
    (l.modify k f).getD j d = if j = k then f (l.getD j d) else l.getD j d :=
  getD_modify l k j f d fun _ => hk

/-- A write of rows to one register of the fibre, in the active lanes. -/
theorem after_putReg {c : Ctx} {t : State} {o : Out} (h : After c t o) (ho : o.fibre.slot = c.f.slot) (lanes : List Nat) (hl : lanes.Nodup) (d : Nat)
    (hd : d < c.t.nregs c.f) (hc : CtxOk c) (v : Nat → Row) (sh : Shape) :
    After c (t.putReg c.r d (lanes.map fun l => (l, v l)) sh) { o with
      row := fun n l => if n = d ∧ l ∈ lanes then v l else o.row n l
      shape := fun n => if n = d then sh else o.shape n } := by
  obtain ⟨T0, ht0, _, hn0, _⟩ := hc.team
  refine after_modTeam (o' := { o with
      row := fun n l => if n = d ∧ l ∈ lanes then v l else o.row n l
      shape := fun n => if n = d then sh else o.shape n }) h rfl _ (fun t => ?_) fun T T' g hT0 hg => ?_
  · unfold Team.putReg
    split
    · rfl
    · dsimp only
      split <;> rfl
  · have hT : T.nregs c.f = T'.nregs g := hg.window.symm
    have hslot : g.slot = c.f.slot := by rw [hg.same]; exact ho
    have hdn : d < T'.nregs g := by
      rw [← hT, show T = T0 from Option.some.inj (hT0.symm.trans ht0), hn0]
      exact hd
    unfold Team.putReg
    rw [hg.fibre]
    dsimp only
    split
    · rename_i hk
      have hin : g.slot < T'.slots.length := by
        refine Nat.lt_of_not_le fun hh => ?_
        have : T'.slotOf g = noSlot := by
          simp only [Team.slotOf, List.getD_eq_getElem?_getD]
          rw [List.getElem?_eq_none (by omega)]
          rfl
        rw [this] at hk
        simp [noSlot] at hk
      have hs : ∀ j, (T'.slots.modify g.slot fun sl => { sl with shared := sl.shared.modify d fun x => x.put (lanes.map fun l => (l, v l)) sh }).getD j noSlot =
          if j = g.slot then { T'.slots.getD j noSlot with
            shared := (T'.slots.getD j noSlot).shared.modify d fun x => x.put (lanes.map fun l => (l, v l)) sh } else T'.slots.getD j noSlot := by
        intro j
        rw [getD_modify]
        intro hj
        exact hin
      have hsh := congrArg Slot.shared ((hs g.slot).trans (if_pos rfl))
      dsimp only at hsh
      refine ⟨g, hg.fibre, ?_, hg.others, ⟨?_, ?_, ?_⟩, hg.same, ?_, ?_, hg.threads⟩
      · have := hg.team
        rw [this]
      · dsimp only
        rw [List.length_modify]
        exact hg.slots.1
      · intro k hk2
        dsimp only
        rw [hs, hslot, if_neg hk2]
        exact hg.slots.2.1 k hk2
      · dsimp only
        rw [hs, hslot, if_pos rfl]
        have := hg.slots.2.2
        unfold sameSlot at this ⊢
        rw [this]
      · have := hg.window
        simp only [Team.nregs, Team.slotOf] at this ⊢
        rw [hsh, List.length_modify]
        exact this
      · intro n hn
        obtain ⟨e1, e2⟩ := hg.regs n hn
        simp only [Team.reg, Team.slotOf] at e1 e2 hk
        simp only [Team.reg, Team.slotOf, hsh, List.length_modify]
        by_cases hnk : n < (T'.slots.getD g.slot noSlot).shared.length
        · simp only [hnk, ↓reduceIte] at e1 e2 ⊢
          rw [getD_modify_VReg _ _ _ _ _ hk]
          by_cases hnd : n = d
          · rw [if_pos hnd, if_pos hnd]
            refine ⟨rfl, fun l => ?_⟩
            rw [row_put _ _ _ _ hl, e2 l]
            simp [hnd]
          · rw [if_neg hnd, if_neg hnd]
            refine ⟨e1, fun l => ?_⟩
            rw [e2 l, if_neg fun hh => hnd hh.1]
        · have hnd : ¬n = d := fun e => hnk (e ▸ hk)
          simp only [hnk, ↓reduceIte] at e1 e2 ⊢
          rw [if_neg hnd]
          refine ⟨e1, fun l => ?_⟩
          rw [e2 l, if_neg fun hh => hnd hh.1]
    · rename_i hk
      let φ : Fibre → Fibre := fun f => { f with priv := f.priv.modify (d - (T'.slotOf g).shared.length) fun x => x.put (lanes.map fun l => (l, v l)) sh }
      have hfid : ∀ x, (φ x).fid = x.fid := fun _ => rfl
      refine ⟨φ g, fibre?_modFibre_eq φ hfid hg.fibre, ?_, ?_, hg.slots, ?_, ?_, ?_, hg.threads⟩
      · exact congrArg (fun x : Team => { x with fibres := (T'.modFibre c.r.fid φ).fibres }) hg.team
      · intro k hk2
        exact (fibre?_modFibre_ne φ hfid hk2).trans (hg.others k hk2)
      · have := hg.same
        show { g with priv := (φ g).priv } = { o.fibre with priv := (φ g).priv, threads := g.threads, issue := g.issue }
        rw [this]
      · have := hg.window
        simp only [Team.nregs, Team.slotOf, Team.modFibre, φ, List.length_modify] at this ⊢
        exact this
      · intro n hn
        obtain ⟨e1, e2⟩ := hg.regs n hn
        have hlen : (φ g).priv.length = g.priv.length := by simp [φ]
        simp only [Team.nregs, Team.slotOf] at hdn
        simp only [Team.reg, Team.slotOf, Team.modFibre] at e1 e2 hk ⊢
        have hsl : (φ g).slot = g.slot := rfl
        have hp : (φ g).priv = g.priv.modify (d - (T'.slots.getD g.slot noSlot).shared.length) fun x => x.put (lanes.map fun l => (l, v l)) sh := rfl
        have hw : (φ g).width = g.width := rfl
        simp only [hsl, hp, hw]
        by_cases hnk : n < (T'.slots.getD g.slot noSlot).shared.length
        · have hnd : ¬n = d := fun e => hk (e ▸ hnk)
          simp only [hnk, ↓reduceIte] at e1 e2 ⊢
          rw [if_neg hnd]
          refine ⟨e1, fun l => ?_⟩
          rw [if_neg fun hh => hnd hh.1]
          exact e2 l
        · simp only [hnk, ↓reduceIte] at e1 e2 ⊢
          rw [getD_modify_VReg _ _ _ _ _ (by omega)]
          by_cases hnd : n = d
          · rw [if_pos (by omega), if_pos hnd]
            refine ⟨rfl, fun l => ?_⟩
            rw [row_put _ _ _ _ hl, e2 l]
            simp [hnd]
          · rw [if_neg (by omega), if_neg hnd]
            refine ⟨e1, fun l => ?_⟩
            rw [e2 l, if_neg fun hh => hnd hh.1]

theorem after_write {c : Ctx} {t : State} {o : Out} (hc : CtxOk c) (h : After c t o) (ho : o.fibre.slot = c.f.slot) (d : Nat) (hd : d < c.t.nregs c.f)
    (v : Nat → Row) (sh : Shape) : After c (c.write t d (c.act.map fun l => (l, v l)) sh) (o.write c d v sh) := by
  unfold Ctx.write
  by_cases he : c.act = []
  · have : Out.write o c d v sh = o := by
      unfold Out.write
      simp [he]
    rw [this, he]
    exact h
  · have h1 : (c.act.map fun l => (l, v l)).isEmpty = false := by
      rw [List.isEmpty_eq_false_iff]
      simpa using he
    rw [h1]
    have h2 := after_putReg h ho c.act hc.nodup d hd hc v (if c.full then sh else .general)
    have : Out.write o c d v sh = { o with
        row := fun n l => if n = d ∧ l ∈ c.act then v l else o.row n l
        shape := fun n => if n = d then (if c.full then sh else .general) else o.shape n } := by
      unfold Out.write
      simp [he]
    rw [this]
    exact h2

/-- What the context of an issue keeps of the conditions: well-formedness and the register window. -/
theorem issuing_regs {i : Instr} {n : Names} {s : State} {c : Ctx} (h : issuing i n s = some c) :
    i.firstBad = none ∧ ∀ p ∈ n.regs, p.2 < c.t.nregs c.f := by
  unfold issuing at h
  split at h
  · cases h
  rename_i r hr
  split at h
  · cases h
  rename_i t ht
  split at h
  · cases h
  rename_i f hf
  split at h
  · cases h
  split at h
  case isFalse => cases h
  rename_i hcl
  dsimp only at h
  split at h
  case h_2 => cases h
  rename_i wv hw
  split at h
  case isFalse => cases h
  have hslot : (afterReads i n f (wv.map (·.1))).slot = f.slot := rfl
  have hpriv : (afterReads i n f (wv.map (·.1))).priv = f.priv := rfl
  generalize afterReads i n f (wv.map (·.1)) = f1 at h hslot hpriv
  cases h
  simp only [clear, Bool.and_eq_true, Option.isNone_iff_eq_none, List.isEmpty_iff] at hcl
  refine ⟨hcl.1.2, fun p hp => ?_⟩
  have h2 := hcl.2
  rw [List.filter_eq_nil_iff] at h2
  have h3 := h2 p hp
  simp only [decide_eq_true_eq, Nat.not_le] at h3
  simp only [Team.nregs, Team.slotOf, Team.modFibre, Team.stamp, hslot, hpriv]
  rw [shared_last]
  exact h3

/-! ## The pieces of an issue's effect -/

/-- A change outside the teams. -/
theorem after_state {c : Ctx} {t : State} {o : Out} (h : After c t o) (φ : State → State)
    (hφ : ∀ (x : State) (ts : List Team), φ { x with teams := ts } = { φ x with teams := ts }) : After c (φ t) (o.onState φ) := by
  have e : φ t = { φ o.state with teams := t.teams } := (congrArg φ h.rest).trans (hφ o.state t.teams)
  have ht : (φ t).teams = t.teams := by rw [e]
  have hteam : ∀ u, (φ t).team? u = t.team? u := fun u => by simp only [State.team?, ht]
  refine ⟨?_, fun a => by rw [e]; rfl, fun u hu => by rw [hteam]; exact h.others u hu, ?_⟩
  · rw [ht]; exact e
  · obtain ⟨T, T', g, h1, h2, h3⟩ := h.own
    exact ⟨T, T', g, h1, by rw [hteam]; exact h2, h3.1, h3.2, h3.3, h3.4, h3.5, h3.6, h3.7, h3.8⟩

/-- A change φ of the fibre outside its registers, threads and clause, which is ψ on the fibre that stands there. -/
theorem after_onFibre {c : Ctx} {t : State} {o : Out} (h : After c t o) (φ ψ : Fibre → Fibre)
    (hkeep : ∀ x, (φ x).fid = x.fid ∧ (φ x).slot = x.slot ∧ (φ x).priv = x.priv ∧ (φ x).threads = x.threads)
    (hev : ∀ g, (∃ T, t.team? c.r.team = some T ∧ T.fibre? c.r.fid = some g) →
      φ g = { ψ o.fibre with priv := g.priv, threads := g.threads, issue := (φ g).issue }) :
    After c (t.modFibre c.r φ) (o.onFibre ψ) := by
  have hfid : ∀ x, (φ x).fid = x.fid := fun x => (hkeep x).1
  obtain ⟨T, T', g, e1, e2, hg⟩ := h.own
  have hw : (φ g).width = g.width := by simp only [Fibre.width, (hkeep g).2.2.2]
  have hr : ∀ n, (T'.modFibre c.r.fid φ).reg (φ g) n = T'.reg g n := by
    intro n
    simp only [Team.reg, Team.slotOf, Team.modFibre, (hkeep g).2.1, (hkeep g).2.2.1, hw]
    rfl
  refine ⟨?_, h.memory, ?_, T, T'.modFibre c.r.fid φ, φ g, e1, ?_, ?_⟩
  · exact congrArg (fun x : State => { x with teams := (t.modFibre c.r φ).teams }) h.rest
  · intro u hu
    have : (t.modFibre c.r φ).team? u = t.team? u := by
      rw [State.modFibre, team?_modTeam t c.r.team u (fun x => x.modFibre c.r.fid φ) fun _ => rfl]
      simp [hu]
    rw [this]
    exact h.others u hu
  · rw [State.modFibre, team?_modTeam t c.r.team c.r.team (fun x => x.modFibre c.r.fid φ) fun _ => rfl, e2]
    simp
  · refine ⟨fibre?_modFibre_eq φ hfid hg.fibre, ?_, ?_, hg.slots, ?_, ?_, ?_, ?_⟩
    · exact congrArg (fun x : Team => { x with fibres := (T'.modFibre c.r.fid φ).fibres }) hg.team
    · intro k hk
      rw [fibre?_modFibre_ne φ hfid hk]
      exact hg.others k hk
    · rw [(hkeep g).2.2.1, (hkeep g).2.2.2]
      exact hev g ⟨T', e2, hg.fibre⟩
    · have := hg.window
      simp only [Team.nregs, Team.slotOf, Team.modFibre, (hkeep g).2.1, (hkeep g).2.2.1] at this ⊢
      exact this
    · intro n hn
      rw [hr]
      exact hg.regs n hn
    · rw [(hkeep g).2.2.2]
      refine ⟨hg.threads.1, fun l => ?_⟩
      have h2 : (φ g).thread l = g.thread l := by simp only [Fibre.thread, (hkeep g).2.2.2]
      rw [h2]
      exact hg.threads.2 l

/-- An operation becomes outstanding in the fibre (`State.addOp`), with the window that the fibre then opens. -/
theorem after_addOp {c : Ctx} {t : State} {o : Out} (h : After c t o) (classes : List WClass) (kind : OpKind) (la : Nat) (w : Ahead × Word)
    (hw : ∀ T g, t.team? c.r.team = some T → T.fibre? c.r.fid = some g → g.window la = w) (writes : List HeldWrite) (preds : List HeldPred)
    (granules : List Nat) : After c (t.addOp c.r classes kind la writes preds granules).2
      (o.adds ⟨t.fresh, classes, kind, w.1, w.2, writes, preds, granules, t.time, kind.isAlu⟩) := by
  have h1 : After c t.newId.2 (o.onState fun u => { u with fresh := u.fresh + 1 }) := after_state h (fun u => { u with fresh := u.fresh + 1 }) fun _ _ => rfl
  obtain ⟨T, T', g, _, e2, hg⟩ := h.own
  refine after_onFibre h1 _ (fun x => { x with ops := x.ops ++ [(⟨t.fresh, classes, kind, w.1, w.2, writes, preds, granules, t.time, kind.isAlu⟩ : Op)] })
    (fun _ => ⟨rfl, rfl, rfl, rfl⟩) ?_
  rintro g' ⟨U, u1, u2⟩
  have hU : U = T' := Option.some.inj (u1.symm.trans e2)
  have hG : g' = g := Option.some.inj ((hU ▸ u2).symm.trans hg.fibre)
  subst hG
  rw [hw T' g' e2 hg.fibre]
  exact congrArg (fun x : Fibre => { x with ops := x.ops ++ [(⟨t.fresh, classes, kind, w.1, w.2, writes, preds, granules, t.time, kind.isAlu⟩ : Op)] }) hg.same

/-- Lookahead code 15 opens no window. -/
theorem window_none (g : Fibre) : g.window 15 = (.async, 0) := by
  unfold Fibre.window
  split <;> simp

/-! ## Finished instructions -/

/-- One value per active lane into a register, with flags: the instruction completes. -/
theorem next_finish {i : Instr} {n : Names} {s : State} {c : Ctx} (h : issuing i n s = some c) (d : BitVec 6)
    (hd : d.toNat < c.t.nregs c.f) (tag : Tag) (sh : Shape) (op : Nat → Word × Fl) :
    ∃ t, outcome i n s c (c.finish d tag sh op) = .next t ∧
      After c t (((now c).write c d.toNat (fun l => ⟨(op l).1, tag, false⟩) sh).orFlags c fun l => (op l).2) := by
  have hc := issuing_ok h
  have h1 := after_write hc (after_now hc) rfl d.toNat hd (fun l => ⟨(op l).1, tag, false⟩) sh
  have h2 := after_orFlags hc h1 fun l => (op l).2
  have e1 : ((c.act.map fun l => (l, op l)).map fun x => (x.1, (⟨x.2.1, tag, false⟩ : Row))) =
      c.act.map fun l => (l, ⟨(op l).1, tag, false⟩) := by
    rw [List.map_map]
    rfl
  have e2 : ((c.act.map fun l => (l, op l)).filterMap fun x => if x.2.2 == 0 then none else some (x.1, x.2.2)) =
      c.act.filterMap fun l => if (op l).2 == 0 then none else some (l, (op l).2) := by
    rw [List.filterMap_map]
    rfl
  unfold Ctx.finish
  dsimp only
  rw [e1, e2]
  refine ⟨_, rfl, ?_⟩
  split
  · rename_i he
    rw [List.isEmpty_iff] at he
    rw [he] at h2
    have e3 : ∀ u : State, u.orFlags c.r [] = u := by
      intro u
      unfold State.orFlags State.modFibre State.modTeam Team.modFibre
      simp
    rw [e3] at h2
    exact after_advance h2
  · exact after_advance h2

/-- The same for an instruction of either latency. -/
theorem delivers {i : Instr} {n : Names} {s : State} {c : Ctx} (late : Bool) (h : issuing i n s = some c) (d : BitVec 6)
    (hd : d.toNat < c.t.nregs c.f) (tag : Tag) (sh : Shape) (op : Nat → Word × Fl) (k : Ctx → Act) (hk : k c = c.deliver late d tag sh op)
    (he : exec i s = issue i n s k) : Delivers late i s c d tag sh (fun l => (op l).1) fun l => (op l).2 := by
  unfold Delivers Completes
  rw [he, issue_eq h, hk]
  by_cases hl : late = true ∧ c.act ≠ []
  · rw [if_pos hl]
    have hc := issuing_ok h
    have h2 := after_orFlags hc (after_now hc) fun l => (op l).2
    have e2 : ((c.act.map fun l => (l, op l)).filterMap fun x => if x.2.2 == 0 then none else some (x.1, x.2.2)) =
        c.act.filterMap fun l => if (op l).2 == 0 then none else some (l, (op l).2) := by
      rw [List.filterMap_map]
      rfl
    have e1 : ((c.act.map fun l => (l, op l)).map fun x => (x.1, (⟨x.2.1, tag, false⟩ : Row))) =
        c.act.map fun l => (l, ⟨(op l).1, tag, false⟩) := by
      rw [List.map_map]
      rfl
    have e0 : (c.act.map fun l => (l, op l)).isEmpty = false := by
      rw [List.isEmpty_eq_false_iff]
      simpa using hl.2
    have h3 : After c (if (c.act.filterMap fun l => if (op l).2 == 0 then none else some (l, (op l).2)).isEmpty then c.s
        else c.s.orFlags c.r (c.act.filterMap fun l => if (op l).2 == 0 then none else some (l, (op l).2)))
        ((now c).orFlags c fun l => (op l).2) := by
      split
      · rename_i he
        rw [List.isEmpty_iff] at he
        rw [he] at h2
        have e3 : c.s.orFlags c.r [] = c.s := by
          unfold State.orFlags State.modFibre State.modTeam Team.modFibre
          simp
        rw [e3] at h2
        exact h2
      · exact h2
    have h4 := after_addOp h3 [] .alu 15 (.async, 0) (fun _ g _ _ => window_none g)
      [⟨d.toNat, c.act.map fun l => (l, ⟨(op l).1, tag, false⟩), if c.full then sh else .general⟩] [] []
    have hf := congrArg State.fresh h3.rest
    have ht := congrArg State.time h3.rest
    dsimp only at hf ht
    rw [hf, ht] at h4
    refine ⟨_, ?_, after_advance h4⟩
    simp only [Ctx.deliver, hl.1, if_true, Ctx.finishLate, e0, e1, e2, Bool.false_eq_true, if_false, outcome]
  · rw [if_neg hl]
    have h1 : c.deliver late d tag sh op = c.finish d tag sh op := by
      unfold Ctx.deliver
      split
      · rename_i hlate
        have : c.act = [] := by
          by_cases ha : c.act = []
          · exact ha
          · exact absurd ⟨hlate, ha⟩ hl
        unfold Ctx.finishLate Ctx.finish Ctx.write
        simp [this]
      · rfl
    rw [h1]
    exact next_finish h d hd tag sh op

/-- One predicate per active lane: the instruction completes. -/
theorem next_finishPred {i : Instr} {n : Names} {s : State} {c : Ctx} (h : issuing i n s = some c) (p : BitVec 3) (op : Nat → Bool) :
    ∃ t, outcome i n s c (c.finishPred p op) = .next t ∧ After c t ((now c).setPred c p op) := by
  have hc := issuing_ok h
  exact ⟨_, rfl, after_advance (after_setPreds hc (after_now hc) p op)⟩

theorem checkRows_clean {c : Ctx} {xs : List (Src × Option Tag)} (h : clean c xs) : c.checkRows xs = .ok () := by
  unfold Ctx.checkRows
  have : (c.act.filterMap fun l => (laneRowErr xs l).map fun e => (l, e)) = [] := by
    rw [List.filterMap_eq_nil_iff]
    intro l hl
    rw [h l hl]
    rfl
  simp only [this]

end Sys2Proof.Laws
end

