-- ==== Sys2Proof/Laws/Elements.lean ====
section
/-! SUPPORT. Elements of packed registers, and what the shared shapes of element-wise instructions leave. -/

namespace Sys2Proof.Laws

open Sys2Proof.Machine Sys2Proof.Safety

/-! ## Packing -/

theorem packNat_div (s : Nat) (l : List Nat) (q : Nat) : packNat s l / 2 ^ (s * q) % 2 ^ s = l.getD q 0 % 2 ^ s := by
  induction l generalizing q with
  | nil => simp [packNat]
  | cons x xs ih =>
    cases q with
    | zero => simp [packNat, Nat.add_mul_mod_self_left]
    | succ q =>
      have h : packNat s (x :: xs) / 2 ^ s = packNat s xs := by
        rw [packNat, Nat.add_mul_div_left _ _ (Nat.two_pow_pos s), Nat.div_eq_of_lt (Nat.mod_lt _ (Nat.two_pow_pos s)), Nat.zero_add]
      rw [Nat.mul_succ, Nat.add_comm, Nat.pow_add, ← Nat.div_div_eq_div_mul, h, ih]
      rfl

/-- Element q of a packed register. -/
theorem elem_pack (s : Nat) (l : List Nat) (q : Nat) (h : s * (q + 1) ≤ 64) : elem s q (pack s l) = l.getD q 0 % 2 ^ s := by
  unfold elem pack
  rw [← packNat_div, BitVec.toNat_ofNat]
  have h1 : (2 ^ 64 : Nat) = 2 ^ (s * q) * 2 ^ (64 - s * q) := by
    rw [← Nat.pow_add]
    congr 1
    rw [Nat.mul_succ] at h
    omega
  rw [h1, Nat.mod_mul_right_div_self, Nat.mod_mod_of_dvd _ (Nat.pow_dvd_pow 2 (by rw [Nat.mul_succ] at h; omega))]

theorem bits_count (ty : ETy) : ty.bits * ty.count = 64 := by cases ty <;> rfl

theorem elems_getD (ty : ETy) (x : Word) (q : Nat) (h : q < ty.count) : (elems ty.bits x)[q]? = some (elem ty.bits q x) := by
  unfold elems
  have : q < 64 / ty.bits := h
  simp [this]

theorem elem_lt (s q : Nat) (x : Word) : elem s q x < 2 ^ s := Nat.mod_lt _ (Nat.two_pow_pos s)

theorem elem_fit (ty : ETy) (q : Nat) (h : q < ty.count) : ty.bits * (q + 1) ≤ 64 := by
  have := bits_count ty
  calc ty.bits * (q + 1) ≤ ty.bits * ty.count := Nat.mul_le_mul_left _ h
    _ = 64 := this

/-! ## Element-wise functions -/

theorem foldl_or_range (l : List (Nat × Fl)) (n : Nat) (h : l.length = n) (e : Nat → Fl) (he : ∀ q, q < n → (l.getD q (0, 0)).2 = e q) :
    orAll l = orOver n e := by
  unfold orAll orOver
  have : l.map (·.2) = (List.range n).map e := by
    apply List.ext_getElem
    · simp [h]
    · intro q h1 h2
      simp only [List.length_map, List.length_range] at h1 h2
      have := he q h2
      rw [List.getD_eq_getElem?_getD, List.getElem?_eq_getElem h1] at this
      simpa using this
  rw [← List.foldl_map (f := fun x : Nat × Fl => x.2) (g := fun (a : Fl) x => a ||| x), this, List.foldl_map]

theorem map1_elem (ty : ETy) (g : Nat → Nat × Fl) (x : Word) :
    (∀ q < ty.count, elem ty.bits q (map1 ty g x).1 = (g (elem ty.bits q x)).1 % 2 ^ ty.bits) ∧
      (map1 ty g x).2 = orOver ty.count fun q => (g (elem ty.bits q x)).2 := by
  unfold map1
  dsimp only
  refine ⟨fun q hq => ?_, foldl_or_range _ _ (by simp [elems, ETy.count]) _ fun q hq => ?_⟩
  · rw [elem_pack _ _ _ (elem_fit ty q hq), List.getD_eq_getElem?_getD, List.getElem?_map, List.getElem?_map, elems_getD ty x q hq]
    rfl
  · rw [List.getD_eq_getElem?_getD, List.getElem?_map, elems_getD ty x q hq]
    rfl

theorem map2_elem (ty : ETy) (g : Nat → Nat → Nat × Fl) (x y : Word) :
    (∀ q < ty.count, elem ty.bits q (map2 ty g x y).1 = (g (elem ty.bits q x) (elem ty.bits q y)).1 % 2 ^ ty.bits) ∧
      (map2 ty g x y).2 = orOver ty.count fun q => (g (elem ty.bits q x) (elem ty.bits q y)).2 := by
  unfold map2
  dsimp only
  have hz : ∀ q, q < ty.count → (List.zipWith g (elems ty.bits x) (elems ty.bits y))[q]? = some (g (elem ty.bits q x) (elem ty.bits q y)) := by
    intro q hq
    rw [List.getElem?_zipWith, elems_getD ty x q hq, elems_getD ty y q hq]
  refine ⟨fun q hq => ?_, foldl_or_range _ _ (by simp [elems, ETy.count]) _ fun q hq => ?_⟩
  · rw [elem_pack _ _ _ (elem_fit ty q hq), List.getD_eq_getElem?_getD, List.getElem?_map, hz q hq]
    rfl
  · rw [List.getD_eq_getElem?_getD, hz q hq]
    rfl

theorem map3_elem (ty : ETy) (g : Nat → Nat → Nat → Nat × Fl) (x y z : Word) :
    (∀ q < ty.count, elem ty.bits q (map3 ty g x y z).1 =
      (g (elem ty.bits q x) (elem ty.bits q y) (elem ty.bits q z)).1 % 2 ^ ty.bits) ∧
      (map3 ty g x y z).2 = orOver ty.count fun q => (g (elem ty.bits q x) (elem ty.bits q y) (elem ty.bits q z)).2 := by
  unfold map3
  dsimp only
  have hz : ∀ q, q < ty.count → (List.zipWith (fun h a => h a) (List.zipWith (fun a b => g a b) (elems ty.bits x) (elems ty.bits y))
      (elems ty.bits z))[q]? = some (g (elem ty.bits q x) (elem ty.bits q y) (elem ty.bits q z)) := by
    intro q hq
    rw [List.getElem?_zipWith, List.getElem?_zipWith, elems_getD ty x q hq, elems_getD ty y q hq, elems_getD ty z q hq]
  refine ⟨fun q hq => ?_, foldl_or_range _ _ (by simp [elems, ETy.count]) _ fun q hq => ?_⟩
  · rw [elem_pack _ _ _ (elem_fit ty q hq), List.getD_eq_getElem?_getD, List.getElem?_map, hz q hq]
    rfl
  · rw [List.getD_eq_getElem?_getD, hz q hq]
    rfl

end Sys2Proof.Laws
end

