-- ==== Sys2Proof/Laws/Arith.lean ====
section
/-! SUPPORT. What the shared operations of element-wise and row-wise instructions leave when nothing stops them. -/

namespace Sys2Proof.Laws

open Sys2Proof.Machine Sys2Proof.Safety

theorem vDest {i : Instr} {f : VF} {k : Nat} {s : State} {c : Ctx} (h : issuing i (vNames f true k) s = some c) (hd : f.d.toNat < 56) :
    f.d.toNat < c.t.nregs c.f := by
  refine (issuing_regs h).2 (46, f.d.toNat) ?_
  simp [vNames, regName, hd]

/-- A finished element-wise instruction, element by element. -/
theorem byElement_deliver (late : Bool) {i : Instr} {n : Names} {s : State} {c : Ctx} (h : issuing i n s = some c) (ty : ETy) (d : BitVec 6)
    (hd : d.toNat < c.t.nregs c.f) (tag : Tag) (sh : Shape) (op : Nat → Word × Fl) (k : Ctx → Act) (hk : k c = c.deliver late d tag sh op)
    (he : exec i s = issue i n s k) (e : Nat → Nat → Fl) (hfl : ∀ l, (op l).2 = orOver ty.count (e l)) (P : Nat → Nat → Nat → Fl → Prop)
    (hP : ∀ l, ∀ q < ty.count, P l q (elem ty.bits q (op l).1) (e l q)) : ByElement late i s c ty d tag sh P := by
  have h1 := delivers late h d hd tag sh op k hk he
  rw [show (fun l => (op l).2) = fun l => orOver ty.count (e l) from funext hfl] at h1
  exact ⟨fun l => (op l).1, e, h1, fun l _ q hq => hP l q hq⟩

/-- A row-wise instruction that raises no flag. -/
theorem writesRow_finish {i : Instr} {n : Names} {s : State} {c : Ctx} (h : issuing i n s = some c) (d : BitVec 6)
    (hd : d.toNat < c.t.nregs c.f) (tag : Tag) (sh : Shape) (v : Nat → Word) (k : Ctx → Act) (hk : k c = c.finish d tag sh fun l => (v l, 0))
    (he : exec i s = issue i n s k) : WritesRow i s c d tag sh v := by
  obtain ⟨t, h1, h2⟩ := next_finish h d hd tag sh fun l => (v l, 0)
  refine ⟨t, by rw [he, issue_eq h, hk, h1], ?_⟩
  have : (Out.orFlags ((now c).write c d.toNat (fun l => ⟨v l, tag, false⟩) sh) c fun _ => 0) =
      (now c).write c d.toNat (fun l => ⟨v l, tag, false⟩) sh := by
    unfold Out.orFlags Out.onThreads
    simp
  rw [← this]
  exact h2

theorem elementwise1 {i : Instr} (late : Bool) {ty : ETy} {f : VF} {tag : Tag} {ta : Option Tag} {op : Nat → Nat × Fl} {P : Nat → Nat → Fl → Prop}
    (he : ∀ s, exec i s = issue i (vNames f true 1) s fun c =>
      if !permWidthOk f c.w then c.illegal 10
      else do
        let a := c.srcA f ty
        c.checkRows [(a, ta)]
        c.deliver late f.d tag (c.shapeOf .plain [a]) fun l => map1 ty op (a.val l))
    (hd : i.firstBad = none → f.d.toNat < 56) (hP : ∀ x, x < 2 ^ ty.bits → P x ((op x).1 % 2 ^ ty.bits) (op x).2) : Elementwise1 i ty f tag ta P late := by
  intro s c ⟨h, hp, hcl⟩
  refine byElement_deliver late h ty f.d (vDest h (hd (issuing_regs h).1)) tag _ (fun l => map1 ty op ((c.srcA f ty).val l)) _ ?_ (he s)
    (fun l q => (op (elA c f ty l q)).2) (fun l => (map1_elem ty op _).2) _ fun l q hq => ?_
  · simp only [hp, Bool.not_true, Bool.false_eq_true, if_false, checkRows_clean hcl]
    rfl
  · rw [(map1_elem ty op _).1 q hq]
    exact hP _ (elem_lt _ _ _)

theorem elementwise2 {i : Instr} (late : Bool) {ty : ETy} {f : VF} {tag : Tag} {ta tb : Option Tag} {rule : ShapeRule} {op : Nat → Nat → Nat × Fl}
    {P : Nat → Nat → Nat → Fl → Prop}
    (he : ∀ s, exec i s = issue i (vNames f true 2) s fun c =>
      if !permWidthOk f c.w then c.illegal 10
      else do
        let a := c.srcA f ty
        let b := c.srcB f ty
        c.checkRows [(a, ta), (b, tb)]
        c.deliver late f.d tag (c.shapeOf (if ty.bits == 64 then rule else .plain) [a, b]) fun l => map2 ty op (a.val l) (b.val l))
    (hd : i.firstBad = none → f.d.toNat < 56)
    (hP : ∀ x y, x < 2 ^ ty.bits → y < 2 ^ ty.bits → P x y ((op x y).1 % 2 ^ ty.bits) (op x y).2) : Elementwise2 i ty f tag ta tb rule P late := by
  intro s c ⟨h, hp, hcl⟩
  refine byElement_deliver late h ty f.d (vDest h (hd (issuing_regs h).1)) tag _
    (fun l => map2 ty op ((c.srcA f ty).val l) ((c.srcB f ty).val l)) _ ?_ (he s)
    (fun l q => (op (elA c f ty l q) (elB c f ty l q)).2) (fun l => (map2_elem ty op _ _).2) _ fun l q hq => ?_
  · simp only [hp, Bool.not_true, Bool.false_eq_true, if_false, checkRows_clean hcl, beq_iff_eq]
    rfl
  · rw [(map2_elem ty op _ _).1 q hq]
    exact hP _ _ (elem_lt _ _ _) (elem_lt _ _ _)

theorem elementwise3 {i : Instr} {ty : ETy} {f : VF} {tag : Tag} {ta : Option Tag} {op : Nat → Nat → Nat → Nat × Fl}
    {P : Nat → Nat → Nat → Nat → Fl → Prop}
    (he : ∀ s, exec i s = issue i (vNames f true 3) s fun c =>
      if !permWidthOk f c.w then c.illegal 10
      else do
        let a := c.srcA f ty
        let b := c.srcB f ty
        let e := c.srcC f ty
        c.checkRows [(a, ta), (b, ta), (e, ta)]
        c.finish f.d tag (c.shapeOf .plain [a, b, e]) fun l => map3 ty op (a.val l) (b.val l) (e.val l))
    (hd : i.firstBad = none → f.d.toNat < 56)
    (hP : ∀ x y z, x < 2 ^ ty.bits → y < 2 ^ ty.bits → z < 2 ^ ty.bits → P x y z ((op x y z).1 % 2 ^ ty.bits) (op x y z).2) :
    Elementwise3 i ty f tag ta P := by
  intro s c ⟨h, hp, hcl⟩
  refine byElement_deliver false h ty f.d (vDest h (hd (issuing_regs h).1)) tag _
    (fun l => map3 ty op ((c.srcA f ty).val l) ((c.srcB f ty).val l) ((c.srcC f ty).val l)) _ ?_ (he s)
    (fun l q => (op (elA c f ty l q) (elB c f ty l q) (elC c f ty l q)).2) (fun l => (map3_elem ty op _ _ _).2) _ fun l q hq => ?_
  · simp only [hp, Bool.not_true, Bool.false_eq_true, if_false, checkRows_clean hcl]
    rfl
  · rw [(map3_elem ty op _ _ _).1 q hq]
    exact hP _ _ _ (elem_lt _ _ _) (elem_lt _ _ _) (elem_lt _ _ _)

theorem rowwise2 {i : Instr} {ty : ETy} {f : VF} {g : Word → Word → Word} (he : ∀ s, exec i s = wordBin i ty f g s)
    (hd : i.firstBad = none → f.d.toNat < 56) : Rowwise2 i ty f g := by
  intro s c ⟨h, hp, hcl⟩
  refine writesRow_finish h f.d (vDest h (hd (issuing_regs h).1)) .raw _ _ _ ?_ (he s)
  simp only [hp, Bool.not_true, Bool.false_eq_true, if_false, checkRows_clean hcl]
  rfl

end Sys2Proof.Laws
end

