-- ==== Sys2Proof/Laws/Memory.lean ====
section
/-! SUPPORT. The laws of memory: what a write changes, that every memory operation keeps the canonical form, and that equal memories
are equal data. -/

namespace Sys2Proof.Laws

open Sys2Proof.Machine Sys2Proof.Safety

/-! ## The canonical form -/

theorem cellsFrom_mono {lo lo' : Nat} (h : lo' ≤ lo) : ∀ {m : List Host.Cell}, cellsFrom lo m = true → cellsFrom lo' m = true
  | [], _ => rfl
  | (k, v) :: m, hm => by
    simp only [cellsFrom, Bool.and_eq_true, decide_eq_true_eq] at hm ⊢
    exact ⟨⟨by omega, hm.1.2⟩, hm.2⟩

theorem cellGet_below : ∀ {lo : Nat} {m : List Host.Cell} {a : Nat}, cellsFrom lo m = true → a < lo → cellGet m a = 0
  | _, [], _, _, _ => rfl
  | lo, (k, v) :: m, a, hm, ha => by
    simp only [cellsFrom, Bool.and_eq_true, decide_eq_true_eq] at hm
    have : a < k := by omega
    simp [cellGet, this]

/-- A write keeps the canonical form. -/
theorem cellSet_from : ∀ {lo : Nat} {m : List Host.Cell} {a : Nat} {b : Byte}, cellsFrom lo m = true → lo ≤ a →
    cellsFrom lo (cellSet m a b) = true
  | lo, [], a, b, _, ha => by
    by_cases hb : b = 0#8 <;> simp [cellSet, cellsFrom, hb, ha]
  | lo, (k, v) :: m, a, b, hm, ha => by
    have hm' := hm
    simp only [cellsFrom, Bool.and_eq_true, decide_eq_true_eq] at hm
    obtain ⟨⟨hk, hv⟩, hr⟩ := hm
    simp only [cellSet]
    split
    · rename_i hak
      split
      · exact hm'
      · rename_i hb
        simp only [cellsFrom, Bool.and_eq_true, decide_eq_true_eq]
        exact ⟨⟨ha, by simpa using hb⟩, ⟨by omega, hv⟩, hr⟩
    · split
      · split
        · exact cellsFrom_mono (by omega) hr
        · rename_i hb
          simp only [cellsFrom, Bool.and_eq_true, decide_eq_true_eq]
          exact ⟨⟨hk, by simpa using hb⟩, hr⟩
      · rename_i h1 h2
        have h2' : a ≠ k := by simpa using h2
        simp only [cellsFrom, Bool.and_eq_true, decide_eq_true_eq]
        exact ⟨⟨hk, hv⟩, cellSet_from hr (by omega)⟩

theorem cellSet_wf {m : List Host.Cell} (h : Memory.wf m = true) (a : Nat) (b : Byte) : Memory.wf (cellSet m a b) = true :=
  cellSet_from h (Nat.zero_le a)

/-- A byte after a write: the byte written, or the byte that was there. -/
theorem cellGet_cellSet_from : ∀ {lo : Nat} {m : List Host.Cell} (_ : cellsFrom lo m = true) (a : Nat) (b : Byte) (x : Nat),
    cellGet (cellSet m a b) x = if x = a then b else cellGet m x
  | _, [], _, a, b, x => by
    by_cases hb : b = 0#8 <;> by_cases hx : x = a <;> simp [cellSet, cellGet, hb, hx]
  | lo, (k, v) :: m, hm, a, b, x => by
    simp only [cellsFrom, Bool.and_eq_true, decide_eq_true_eq] at hm
    have hr := hm.2
    simp only [cellSet]
    split
    · rename_i hak
      split
      · rename_i hb
        have hb' : b = 0 := by simpa using hb
        by_cases hx : x = a
        · simp [cellGet, hx, hak, hb']
        · simp [hx]
      · by_cases hx : x = a
        · simp [cellGet, hx]
        · by_cases hlt : x < a
          · have : x < k := by omega
            simp [cellGet, hx, hlt, this]
          · simp [cellGet, hx, hlt]
    · rename_i h1
      split
      · rename_i h2
        have h2' : a = k := by simpa using h2
        subst h2'
        split
        · rename_i hb
          have hb' : b = 0 := by simpa using hb
          by_cases hx : x = a
          · subst hx
            simp [hb', cellGet_below hr (Nat.lt_succ_self x)]
          · by_cases hlt : x < a
            · simp [cellGet, hx, hlt, cellGet_below hr (Nat.lt_succ_of_lt hlt)]
            · simp [cellGet, hx, hlt]
        · by_cases hx : x = a <;> simp [cellGet, hx]
      · rename_i h2
        have h2' : a ≠ k := by simpa using h2
        have ih := cellGet_cellSet_from hr a b x
        by_cases hlt : x < k
        · have : x ≠ a := by omega
          simp [cellGet, hlt, this]
        · by_cases hk : x = k
          · have : k ≠ a := fun h => h2' h.symm
            simp [cellGet, hk, this]
          · simp [cellGet, hlt, hk, ih]

theorem cellGet_cellSet {m : List Host.Cell} (h : Memory.wf m = true) (a : Nat) (b : Byte) (x : Nat) :
    cellGet (cellSet m a b) x = if x = a then b else cellGet m x :=
  cellGet_cellSet_from h a b x

theorem cellsSet_wf : ∀ (bs : List Byte) {m : List Host.Cell} (_ : Memory.wf m = true) (a : Nat), Memory.wf (cellsSet m a bs) = true
  | [], _, h, _ => h
  | _ :: bs, _, h, a => cellsSet_wf bs (cellSet_wf h a _) (a + 1)

/-- Bytes after a write of several. -/
theorem cellGet_cellsSet : ∀ (bs : List Byte) {m : List Host.Cell} (_ : Memory.wf m = true) (a x : Nat),
    cellGet (cellsSet m a bs) x = if a ≤ x ∧ x < a + bs.length then bs.getD (x - a) 0 else cellGet m x
  | [], _, _, a, x => by
    have : ¬(a ≤ x ∧ x < a + 0) := by omega
    rw [List.length_nil, if_neg this]; rfl
  | b :: bs, m, h, a, x => by
    simp only [cellsSet, cellGet_cellsSet bs (cellSet_wf h a b) (a + 1) x, cellGet_cellSet h, List.length_cons]
    by_cases hx : x = a
    · subst hx
      have h1 : ¬(x + 1 ≤ x ∧ x < x + 1 + bs.length) := by omega
      have h2 : x ≤ x ∧ x < x + (bs.length + 1) := by omega
      simp [h1, h2]
    · by_cases h1 : a + 1 ≤ x ∧ x < a + 1 + bs.length
      · have h2 : a ≤ x ∧ x < a + (bs.length + 1) := by omega
        have h3 : x - a = x - (a + 1) + 1 := by omega
        rw [if_pos h1, if_pos h2, h3, List.getD_cons_succ]
      · have h2 : ¬(a ≤ x ∧ x < a + (bs.length + 1)) := by omega
        rw [if_neg h1, if_neg h2, if_neg hx]

theorem cellsGet_getD : ∀ (m : List Host.Cell) (a n k : Nat), k < n → (cellsGet m a n).getD k 0 = cellGet m (a + k)
  | _, _, 0, _, h => absurd h (Nat.not_lt_zero _)
  | m, a, n + 1, 0, _ => rfl
  | m, a, n + 1, k + 1, h => by
    simp only [cellsGet, List.getD_cons_succ, cellsGet_getD m (a + 1) n k (by omega)]
    congr 1; omega

theorem cellsGet_length : ∀ (m : List Host.Cell) (a n : Nat), (cellsGet m a n).length = n
  | _, _, 0 => rfl
  | m, a, n + 1 => by simp [cellsGet, cellsGet_length m (a + 1) n]

/-! ## Selections and copies of cells -/

theorem filter_from (p : Host.Cell → Bool) : ∀ {lo : Nat} {m : List Host.Cell}, cellsFrom lo m = true → cellsFrom lo (m.filter p) = true
  | _, [], _ => rfl
  | lo, (k, v) :: m, hm => by
    simp only [cellsFrom, Bool.and_eq_true, decide_eq_true_eq] at hm
    rw [List.filter_cons]
    split
    · simp only [cellsFrom, Bool.and_eq_true, decide_eq_true_eq]
      exact ⟨hm.1, filter_from p hm.2⟩
    · exact cellsFrom_mono (by omega) (filter_from p hm.2)

theorem filter_wf (p : Host.Cell → Bool) {m : List Host.Cell} (h : Memory.wf m = true) : Memory.wf (m.filter p) = true := filter_from p h

/-- Cells, all below a bound, put before cells from that bound on. -/
theorem append_from : ∀ {lo mid : Nat} {xs ys : List Host.Cell}, cellsFrom lo xs = true → (∀ c ∈ xs, c.1 < mid) →
    cellsFrom mid ys = true → lo ≤ mid → cellsFrom lo (xs ++ ys) = true
  | _, _, [], _, _, _, hy, hl => cellsFrom_mono hl hy
  | lo, mid, (k, v) :: xs, ys, hx, hb, hy, _ => by
    simp only [cellsFrom, Bool.and_eq_true, decide_eq_true_eq, List.cons_append] at hx ⊢
    have hk := hb (k, v) (List.mem_cons_self ..)
    exact ⟨hx.1, append_from hx.2 (fun c hc => hb c (List.mem_cons_of_mem _ hc)) hy hk⟩

/-- Every cell from a bound on stands in canonical form above that bound. -/
theorem from_of_ge : ∀ {lo b : Nat} {m : List Host.Cell}, cellsFrom lo m = true → (∀ c ∈ m, b ≤ c.1) → cellsFrom b m = true
  | _, _, [], _, _ => rfl
  | lo, b, (k, v) :: m, hm, hb => by
    simp only [cellsFrom, Bool.and_eq_true, decide_eq_true_eq] at hm ⊢
    exact ⟨⟨hb (k, v) (List.mem_cons_self ..), hm.1.2⟩, hm.2⟩

theorem shift_from (start lo : Nat) : ∀ {b : Nat} {m : List Host.Cell}, cellsFrom b m = true → start ≤ b →
    cellsFrom (b - start + lo) (m.map fun c => (c.1 - start + lo, c.2)) = true
  | _, [], _, _ => rfl
  | b, (k, v) :: m, hm, hs => by
    simp only [cellsFrom, Bool.and_eq_true, decide_eq_true_eq, List.map_cons] at hm ⊢
    have h := shift_from start lo hm.2 (by omega)
    have e : k + 1 - start + lo = k - start + lo + 1 := by omega
    exact ⟨⟨by omega, hm.1.2⟩, e ▸ h⟩

/-- Copying a range of cells from another store keeps the canonical form. -/
theorem cellsSplice_wf {m src : List Host.Cell} (h : Memory.wf m = true) (hs : Memory.wf src = true) (lo n start : Nat) :
    Memory.wf (cellsSplice m lo n src start) = true := by
  unfold cellsSplice Memory.wf
  have h1 : cellsFrom 0 (m.filter fun c => decide (c.1 < lo)) = true := filter_wf _ h
  have h3 : cellsFrom (lo + n) (m.filter fun c => decide (lo + n ≤ c.1)) = true :=
    from_of_ge (filter_wf _ h) fun c hc => by simpa using (List.mem_filter.mp hc).2
  have h2 : cellsFrom lo ((src.filter fun c => decide (start ≤ c.1) && decide (c.1 < start + n)).map fun c => (c.1 - start + lo, c.2)) = true := by
    have hf : cellsFrom start (src.filter fun c => decide (start ≤ c.1) && decide (c.1 < start + n)) = true :=
      from_of_ge (filter_wf _ hs) fun c hc => by
        have := (List.mem_filter.mp hc).2
        simp at this; exact this.1
    simpa using shift_from start lo hf (Nat.le_refl _)
  rw [List.append_assoc]
  refine append_from (mid := lo) h1 (fun c hc => by simpa using (List.mem_filter.mp hc).2) ?_ (Nat.zero_le _)
  refine append_from (mid := lo + n) h2 (fun c hc => ?_) h3 (by omega)
  obtain ⟨d, hd, rfl⟩ := List.mem_map.mp hc
  have := (List.mem_filter.mp hd).2
  simp at this
  show d.1 - start + lo < lo + n
  omega

/-- Equal memories are equal data. -/
theorem cells_ext : ∀ {lo : Nat} {m m' : List Host.Cell}, cellsFrom lo m = true → cellsFrom lo m' = true →
    (∀ a, cellGet m a = cellGet m' a) → m = m'
  | _, [], [], _, _, _ => rfl
  | lo, [], (k, v) :: m', _, h', he => by
    simp only [cellsFrom, Bool.and_eq_true, decide_eq_true_eq] at h'
    have := he k
    simp [cellGet] at this
    simp [← this] at h'
  | lo, (k, v) :: m, [], h, _, he => by
    simp only [cellsFrom, Bool.and_eq_true, decide_eq_true_eq] at h
    have := he k
    simp [cellGet] at this
    simp [this] at h
  | lo, (k, v) :: m, (k', v') :: m', h, h', he => by
    simp only [cellsFrom, Bool.and_eq_true, decide_eq_true_eq] at h h'
    have hv : v ≠ 0 := by simpa using h.1.2
    have hv' : v' ≠ 0 := by simpa using h'.1.2
    have hk : k = k' := by
      rcases Nat.lt_trichotomy k k' with hlt | heq | hgt
      · have := he k; simp [cellGet, hlt] at this; exact absurd this hv
      · exact heq
      · have := he k'; simp [cellGet, hgt] at this; exact absurd this.symm hv'
    subst hk
    have hvv : v = v' := by have := he k; simpa [cellGet] using this
    subst hvv
    have hm : m = m' := cells_ext h.2 h'.2 fun a => by
      by_cases hlt : a < k + 1
      · rw [cellGet_below h.2 hlt, cellGet_below h'.2 hlt]
      · have h1 : ¬a < k := by omega
        have h2 : a ≠ k := by omega
        have := he a
        simpa [cellGet, h1, h2] using this
    rw [hm]

theorem memory_ext {m m' : List Host.Cell} (h : Memory.wf m = true) (h' : Memory.wf m' = true) (he : ∀ a, cellGet m a = cellGet m' a) : m = m' :=
  cells_ext h h' he

/-! ## Operations on the state -/

theorem reset_mem_wf : Memory.wf State.reset.mem = true := rfl

theorem bankWrite_wf {b : Bank} (h : Memory.wf b.data = true) (off : Nat) (bs : List Byte) (pois : Bool) :
    Memory.wf (bankWrite b off bs pois).data = true := cellsSet_wf bs h off

theorem homeFold_wf {m : List Host.Cell} (hm : Memory.wf m = true) (b : Nat) : ∀ (ks : List Nat) {h : List Host.Cell}, Memory.wf h = true →
    Memory.wf (ks.foldl (fun h k => if Config.wroteBack (b + k) then copySector h m k else h) h) = true
  | [], _, hh => hh
  | k :: ks, h, hh => by
    refine homeFold_wf hm b ks (h := if Config.wroteBack (b + k) then copySector h m k else h) ?_
    split
    · exact cellsSplice_wf hh hm _ _ _
    · exact hh

theorem ramWrite_home_wf {s : State} (hm : Memory.wf s.mem = true) (h : Memory.wf s.home = true) (la : Nat) (bs : List Byte) (pois : Bool) :
    Memory.wf (s.ramWrite la bs pois).home = true := by
  unfold State.ramWrite State.homeBefore
  exact homeFold_wf hm (s.tick * 2 ^ 64) _ h

theorem ramWrite_wf {s : State} (h : Memory.wf s.mem = true) (la : Nat) (bs : List Byte) (pois : Bool) :
    Memory.wf (s.ramWrite la bs pois).mem = true := by
  unfold State.ramWrite
  exact cellsSet_wf bs h la

theorem ramWrite_byte {s : State} (h : Memory.wf s.mem = true) (la : Nat) (bs : List Byte) (pois : Bool) (x : Nat) :
    cellGet (s.ramWrite la bs pois).mem x = if la ≤ x ∧ x < la + bs.length then bs.getD (x - la) 0 else cellGet s.mem x := by
  unfold State.ramWrite
  exact cellGet_cellsSet bs h la x

/-- A write at a place keeps every canonical form. -/
theorem writePlace_wf {s : State} (h : memWf s) (p : Place) (bs : List Byte) (pois : Bool) : memWf (s.writePlace p bs pois) := by
  obtain ⟨hm, hh, hc, hs⟩ := h
  cases p with
  | ram la => exact ⟨ramWrite_wf hm la bs pois, ramWrite_home_wf hm hh la bs pois, hc, hs⟩
  | far pa => exact ⟨hm, hh, hc, hs⟩
  | bank c k off =>
    refine ⟨hm, hh, fun co hco => ?_, hs⟩
    obtain ⟨n, hn, rfl⟩ := List.getElem_of_mem hco
    simp only [State.writePlace, State.modCore, List.length_modify] at hn
    simp only [State.writePlace, State.modCore, List.getElem_modify]
    have old := hc _ (List.getElem_mem hn)
    split
    · refine ⟨fun b hb => ?_, old.2⟩
      obtain ⟨j, hj, rfl⟩ := List.getElem_of_mem hb
      simp only [List.length_modify] at hj
      simp only [List.getElem_modify]
      have ob := old.1 _ (List.getElem_mem hj)
      split
      · exact bankWrite_wf ob off bs pois
      · exact ob
    · exact old

end Sys2Proof.Laws
end

