-- ==== Sys2Proof/Laws/Step.lean ====
section
/-! SUPPORT. What a step can do, said once, and what an exception at an instruction answers. -/

namespace Sys2Proof.Laws

open Sys2Proof.Machine Sys2Proof.Safety

/-! ## Steps -/

/-- A step that answers a next state ran the word of a bundle, a machine event, a command of the mailbox, the next input, or nothing; then
time passed. -/
theorem step_cases {s t : State} (h : step s = .next t) : ∃ u, t = u.advance ∧
    ((∃ r w, s.work = .instr r w ∧ s.runWord r w = .next u) ∨ (∃ i, s.work = .event i ∧ exec i s = .next u) ∨
      (∃ k, s.work = .command k ∧ runCommand k s = .next u) ∨ (∃ i, s.work = .input i ∧ exec i { s with inbox := s.inbox.drop 1 } = .next u) ∨
      (s.work = .idle ∧ u = s)) := by
  unfold step afterStep at h
  split at h <;> cases h
  rename_i u hu
  refine ⟨u, rfl, ?_⟩
  cases hw : s.work with
  | instr r w => rw [hw] at hu; exact .inl ⟨r, w, rfl, hu⟩
  | event i => rw [hw] at hu; exact .inr (.inl ⟨i, rfl, hu⟩)
  | command k => rw [hw] at hu; exact .inr (.inr (.inl ⟨k, rfl, hu⟩))
  | input i => rw [hw] at hu; exact .inr (.inr (.inr (.inl ⟨i, rfl, hu⟩)))
  | idle =>
    rw [hw] at hu
    injection hu with hu
    exact .inr (.inr (.inr (.inr ⟨rfl, hu.symm⟩)))

/-- A word runs as its instruction, or takes the illegal-instruction exception. -/
theorem runWord_cases (s : State) (r : FibreRef) (w : Word) :
    (∃ i, decodeWord w = .ok i ∧ s.runWord r w = exec i { s with cur := some r }) ∨
      ∃ e, decodeWord w = .error e ∧ s.runWord r w = .next (illegalWord s r e.bit) := by
  unfold State.runWord
  cases h : decodeWord w with
  | ok i => exact .inl ⟨i, rfl, rfl⟩
  | error e => exact .inr ⟨e, rfl, rfl⟩

theorem sendFlit_keeps (port : Nat) (s : State) (x : Flit) : ∃ g, s.sendFlit port x true = { s with fab := g } := by
  unfold State.sendFlit State.modPort State.setCredit State.modFab
  exact ⟨_, rfl⟩

theorem sendFlits_keeps (port : Nat) (s : State) (xs : List Flit) : ∃ g, s.sendFlits port xs = { s with fab := g } := by
  unfold State.sendFlits
  induction xs generalizing s with
  | nil => exact ⟨s.fab, rfl⟩
  | cons x xs ih =>
    obtain ⟨f, hf⟩ := sendFlit_keeps port s x
    obtain ⟨g, hg⟩ := ih (s.sendFlit port x true)
    exact ⟨g, by rw [List.foldl_cons, hg, hf]⟩

theorem trySend_keeps (s : State) (x : Outgoing) : ∃ g, s.trySend x = { s with fab := g } := by
  unfold State.trySend
  split
  · exact ⟨s.fab, rfl⟩
  · rename_i p k _
    obtain ⟨g, hg⟩ := sendFlits_keeps p (s.modFab fun f => { f with sendQ := f.sendQ.erase x }) (x.parts s.pkg.toNat k)
    exact ⟨g, hg⟩

/-- Sending changes the fabric's state alone. -/
theorem sendWaiting_keeps (s : State) : ∃ g, s.sendWaiting = { s with fab := g } := by
  unfold State.sendWaiting
  generalize s.fab.sendQ = xs
  induction xs generalizing s with
  | nil => exact ⟨s.fab, rfl⟩
  | cons x xs ih =>
    obtain ⟨g, hg⟩ := trySend_keeps s x
    obtain ⟨g', hg'⟩ := ih (s.trySend x)
    exact ⟨g', by rw [List.foldl_cons, hg', hg]⟩

theorem sendWaiting_same (s : State) : s.sendWaiting.mem = s.mem ∧ s.sendWaiting.cores = s.cores ∧ s.sendWaiting.teams = s.teams ∧
    s.sendWaiting.saved = s.saved ∧ s.sendWaiting.launches = s.launches := by
  obtain ⟨g, hg⟩ := sendWaiting_keeps s
  rw [hg]
  exact ⟨rfl, rfl, rfl, rfl, rfl⟩

/-- The passing of time changes no memory, core, team or launch. -/
theorem advance_same (s : State) : s.advance.mem = s.mem ∧ s.advance.cores = s.cores ∧ s.advance.teams = s.teams ∧ s.advance.saved = s.saved ∧
    s.advance.launches = s.launches := sendWaiting_same _

/-! ## Exceptions -/

/-- A meaning that answers an error takes that exception at the instruction (R328 to R332). -/
theorem outcome_error (i : Instr) (n : Names) (s : State) (c : Ctx) (e : Exc) :
    outcome i n s c (.error e) = .next ((s.setHolder c.r.team c.f0.slot c.r.fid).except c.r c.f0 c.is c.act i n.g.y e) := rfl

end Sys2Proof.Laws
end

