-- ==== Sys2Proof/Tests/Slice0.lean ====
section
/-! SUPPORT. Tests: words of the spec's encodings and what they decode to; an ill-formed term for each check; results that the spec's tables and
worked examples give; and, for each statement's hypotheses, a state and operands that meet them together. -/

open Sys2Proof Sys2Proof.Machine Sys2Proof.Safety

namespace Sys2Proof.Tests

set_option maxRecDepth 20000
-- One theorem after another: many at a time take more memory than the check allows.
set_option Elab.async false

/-! ## Small instructions and states -/

def g7 : Guard := ⟨false, false, 7⟩
/-- A guard that is false in every thread of a fresh fibre: p0. -/
def g0 : Guard := ⟨false, false, 0⟩
def vf (d a b c : Nat) (mods : Nat := 0) (g : Guard := g7) : VF :=
  ⟨BitVec.ofNat 6 d, BitVec.ofNat 6 a, BitVec.ofNat 6 b, BitVec.ofNat 6 c, BitVec.ofNat 6 mods, 0, 0, 0, 0, 0, g⟩
def sf (d a imm : Nat) (g : Guard := g7) : SF := ⟨BitVec.ofNat 6 d, BitVec.ofNat 6 a, BitVec.ofNat 20 imm, g⟩
def mf (d a b off : Nat) (g : Guard := g7) : MF := ⟨BitVec.ofNat 6 d, BitVec.ofNat 6 a, BitVec.ofNat 6 b, BitVec.ofNat 20 off, 0, false, 0, 15, g⟩
def xf (td ta tb v : Nat) (g : Guard := g7) : XF :=
  ⟨BitVec.ofNat 4 td, BitVec.ofNat 4 ta, BitVec.ofNat 4 tb, BitVec.ofNat 6 v, false, false, false, false, 0, 0, 0, g⟩

/-- One fibre of sixteen threads, all in the bundle that issues next; every register zero. -/
def base : State := State.reset.withFetchWord 64 0

/-- A register written in every lane. -/
def setReg (s : State) (n : Nat) (v : Nat → Word) (tag : Tag := .raw) : State := match s.cur with
  | some r => s.putReg r n ((List.range 16).map fun l => (l, ⟨v l, tag, false⟩)) .general
  | none => s

/-- A change of the fibre, and of its team. -/
def setFibre (s : State) (f : Fibre → Fibre) : State := match s.cur with | some r => s.modFibre r f | none => s
def setTeam (s : State) (f : Team → Team) : State := match s.cur with | some r => s.modTeam r.team f | none => s
def setThreads (s : State) (g : Nat → Thread → Thread) : State := setFibre s fun f => { f with threads := f.threads.zipIdx.map fun (t, l) => g l t }

/-- A page table of one table at address 0: virtual 1 GiB to 2 GiB is local address 0 to 1 GiB, writable and executable. -/
def mapped (s : State) : State := { s with mem := [(0, 1), (8, 0x1D)] }

/-- Base of the mapped range. -/
def vbase : Nat := 0x40000000

/-! ## Meeting hypotheses -/

/-- A state and a context that meet P. -/
def Met (i : Instr) (n : Names) (P : State → Ctx → Prop) : Prop := ∃ s c, issuing i n s = some c ∧ P s c

theorem meets {i : Instr} {n : Names} (s : State) {Q : State → Ctx → Prop} (p : Ctx → Bool) (hq : ∀ c, p c = true → Q s c)
    (h : (issuing i n s).any p = true) : Met i n Q := by
  cases hc : issuing i n s with
  | none => rw [hc] at h; exact absurd h (by simp)
  | some c => rw [hc] at h; exact ⟨s, c, hc, hq c (by simpa using h)⟩

theorem meetsD {i : Instr} {n : Names} (s : State) (P : Ctx → Prop) [DecidablePred P] {Q : State → Ctx → Prop} (hq : ∀ c, P c → Q s c)
    (h : (issuing i n s).any (fun c => decide (P c)) = true) : Met i n Q :=
  meets s (fun c => decide (P c)) (fun c hc => hq c (by simpa using hc)) h

/-- Rows that pass their checks. -/
def cleanB (c : Ctx) (xs : List (Src × Option Tag)) : Bool := c.act.all fun l => (laneRowErr xs l).isNone
theorem clean_of {c : Ctx} {xs : List (Src × Option Tag)} (h : cleanB c xs = true) : clean c xs := fun l hl => by
  simpa using (List.all_eq_true.mp h) l hl

/-- Format V: some state and context meet `ready`, with an active lane. -/
def Ready (i : Instr) (n : Names) (f : VF) (xs : Ctx → List (Src × Option Tag)) : Prop := ∃ s c, ready i n f s c (xs c) ∧ c.act ≠ []
theorem ready_of {i : Instr} {n : Names} {f : VF} {xs : Ctx → List (Src × Option Tag)} (s : State)
    (h : (issuing i n s).any (fun c => permWidthOk f c.w && cleanB c (xs c) && !c.act.isEmpty) = true) : Ready i n f xs := by
  cases hc : issuing i n s with
  | none => rw [hc] at h; exact absurd h (by simp)
  | some c =>
    rw [hc] at h
    simp only [Option.any_some, Bool.and_eq_true, Bool.not_eq_true', List.isEmpty_eq_false_iff] at h
    exact ⟨s, c, ⟨hc, h.1.1, clean_of h.1.2⟩, h.2⟩

/-- One, two and three sources of format V, as the element-wise statements take them. -/
def Ready1 (i : Instr) (ty : ETy) (f : VF) (t : Option Tag) : Prop := Ready i (vNames f true 1) f fun c => [(c.srcA f ty, t)]
def Ready2 (i : Instr) (ty : ETy) (f : VF) (t u : Option Tag) : Prop := Ready i (vNames f true 2) f fun c => [(c.srcA f ty, t), (c.srcB f ty, u)]
def Ready3 (i : Instr) (ty : ETy) (f : VF) (t : Option Tag) : Prop :=
  Ready i (vNames f true 3) f fun c => [(c.srcA f ty, t), (c.srcB f ty, t), (c.srcC f ty, t)]

/-! ## Hypotheses of the arithmetic statements -/

/-- Statements on integer and logic results: the register operands of the highest window register, and of d equal to a. -/
theorem test_meets_integer_results :
    Ready2 (.iadd .i64 (vf 55 1 2 0)) .i64 (vf 55 1 2 0) none none ∧ Ready2 (.isub .n8 (vf 1 1 63 0)) .n8 (vf 1 1 63 0) none none ∧
    Ready2 (.imul .i32 (vf 3 1 2 0)) .i32 (vf 3 1 2 0) none none ∧ Ready2 (.imul .i32 (vf 3 1 2 1)) .i32 (vf 3 1 2 1) none none ∧
    Ready2 (.imul .i32 (vf 3 1 2 2)) .i32 (vf 3 1 2 2) none none ∧ Ready3 (.imad .i32 (vf 3 1 2 3)) .i32 (vf 3 1 2 3) none ∧
    Ready2 (.idiv .i32 (vf 3 1 2 0)) .i32 (vf 3 1 2 0) none none ∧ Ready2 (.irem .n32 (vf 3 1 2 0)) .n32 (vf 3 1 2 0) none none ∧
    Ready2 (.imin .i8 (vf 3 1 2 0)) .i8 (vf 3 1 2 0) none none ∧ Ready2 (.imax .i8 (vf 3 1 2 0)) .i8 (vf 3 1 2 0) none none ∧
    Ready2 (.iabsd .i8 (vf 3 1 2 0)) .i8 (vf 3 1 2 0) none none :=
  ⟨ready_of base (by decide), ready_of base (by decide), ready_of base (by decide), ready_of base (by decide), ready_of base (by decide),
    ready_of base (by decide), ready_of base (by decide), ready_of base (by decide), ready_of base (by decide), ready_of base (by decide),
    ready_of base (by decide)⟩

theorem test_meets_shifts : Ready2 (.shl .b32 (vf 3 4 5 0)) .b32 (vf 3 4 5 0) none none ∧ Ready2 (.shr .b64 (vf 3 4 5 0)) .b64 (vf 3 4 5 0) none none ∧
    Ready2 (.sar .i64 (vf 3 4 5 0)) .i64 (vf 3 4 5 0) none none ∧ Ready2 (.rot .b32 (vf 3 4 5 0)) .b32 (vf 3 4 5 0) none none :=
  ⟨ready_of base (by decide), ready_of base (by decide), ready_of base (by decide), ready_of base (by decide)⟩

theorem test_meets_logic : Ready2 (.and .b64 (vf 3 4 5 0)) .b64 (vf 3 4 5 0) none none ∧ Ready2 (.or .b64 (vf 3 4 5 0)) .b64 (vf 3 4 5 0) none none ∧
    Ready2 (.xor .b64 (vf 3 4 5 0)) .b64 (vf 3 4 5 0) none none ∧ Ready2 (.bfx .i32 (vf 3 4 5 0)) .i32 (vf 3 4 5 0) none none ∧
    Ready3 (.bfi .b32 (vf 3 4 5 6)) .b32 (vf 3 4 5 6) none ∧ Ready1 (.popc .b32 (vf 3 4 0 0)) .b32 (vf 3 4 0 0) none ∧
    Ready1 (.clz .b64 (vf 3 4 0 0)) .b64 (vf 3 4 0 0) none ∧ Ready1 (.brev .b64 (vf 3 4 0 0)) .b64 (vf 3 4 0 0) none :=
  ⟨ready_of base (by decide), ready_of base (by decide), ready_of base (by decide), ready_of base (by decide), ready_of base (by decide),
    ready_of base (by decide), ready_of base (by decide), ready_of base (by decide)⟩

/-- `sel` on p0 and, at the end of the range, negated p7; `lea` by 7; `subx` in each mode; `mov` of kc. -/
theorem test_meets_moves : Ready2 (.sel (vf 3 4 5 0)) .b64 (vf 3 4 5 0) none none ∧ Ready2 (.sel (vf 3 4 5 15)) .b64 (vf 3 4 5 15) none none ∧
    Ready1 (.mov (vf 3 63 0 0)) .b64 (vf 3 63 0 0) none ∧ Ready2 (.lea .i64 (vf 3 4 5 7)) .i64 (vf 3 4 5 7) none none ∧
    Ready1 (.subx .i8 (vf 3 4 0 7)) .i8 (vf 3 4 0 7) none ∧ Ready2 (.subx .i8 (vf 3 4 5 23)) .i8 (vf 3 4 5 23) none none ∧
    Ready2 (.subx .i8 (vf 3 4 5 32)) .i8 (vf 3 4 5 32) none none :=
  ⟨ready_of base (by decide), ready_of base (by decide), ready_of base (by decide), ready_of base (by decide), ready_of base (by decide),
    ready_of base (by decide), ready_of base (by decide)⟩

def immf (d a imm : Nat) : IF := ⟨BitVec.ofNat 6 d, BitVec.ofNat 6 a, BitVec.ofNat 32 imm, g7⟩

theorem test_meets_immediates : Met (.movi (immf 3 0 5)) (iNames (immf 3 0 5) true false) (fun _ c => c.act ≠ []) ∧
    Met (.movhi (immf 3 0 5)) (iNames (immf 3 0 5) true false) (fun _ c => c.act ≠ []) ∧
    (∀ i ∈ [Instr.iaddi .i32 (immf 3 4 5), .andi (immf 3 4 5), .ori (immf 3 4 5), .xori (immf 3 4 5)],
      Met i (iNames (immf 3 4 5) true true) fun _ c => c.act ≠ [] ∧ clean c [(c.src 2 (immf 3 4 5).a 0 0, none)]) := by
  refine ⟨meetsD base (fun c => c.act ≠ []) (fun _ h => h) (by decide), meetsD base (fun c => c.act ≠ []) (fun _ h => h) (by decide), ?_⟩
  have k : ∀ i : Instr, (issuing i (iNames (immf 3 4 5) true true) base).any (fun c => decide (c.act ≠ [] ∧
      cleanB c [(c.src 2 (immf 3 4 5).a 0 0, none)] = true)) = true →
      Met i (iNames (immf 3 4 5) true true) fun _ c => c.act ≠ [] ∧ clean c [(c.src 2 (immf 3 4 5).a 0 0, none)] := fun i h =>
    meetsD base (fun c => c.act ≠ [] ∧ cleanB c [(c.src 2 (immf 3 4 5).a 0 0, none)] = true) (fun _ h => ⟨h.1, clean_of h.2⟩) h
  intro i hi
  simp only [List.mem_cons, List.not_mem_nil, or_false] at hi
  obtain rfl | rfl | rfl | rfl := hi <;> exact k _ (by decide)

theorem test_meets_compares :
    (Ready (.icmp .i32 (vf 1 4 5 5)) (vNames (vf 1 4 5 5) false 2) (vf 1 4 5 5) fun c => [(c.srcA (vf 1 4 5 5) .i32, none), (c.srcB (vf 1 4 5 5) .i32, none)]) ∧
    (Ready (.fcmp .f32 (vf 1 4 5 7)) (vNames (vf 1 4 5 7) false 2) (vf 1 4 5 7) fun c =>
      [(c.srcA (vf 1 4 5 7) .f32, some .f32), (c.srcB (vf 1 4 5 7) .f32, some .f32)]) ∧
    Met (.icmpi .n32 (immf 41 4 5)) (iNames (immf 41 4 5) false true) (fun _ c => c.act ≠ [] ∧ clean c [(c.src 2 (immf 41 4 5).a 0 0, none)]) :=
  ⟨ready_of base (by decide), ready_of base (by decide),
    meetsD base (fun c => c.act ≠ [] ∧ cleanB c [(c.src 2 (immf 41 4 5).a 0 0, none)] = true) (fun _ h => ⟨h.1, clean_of h.2⟩) (by decide)⟩

/-! ## Of the floating-point statements -/

/-- The rounding statement's numerals: an exact tie between two quanta, and the largest dither. -/
theorem test_meets_rounding : (∃ num den dith : Nat, 0 < den ∧ dith < 32 ∧ dith = 31 ∧ ¬den ∣ num ∧ 2 * num = 3 * den) ∧
    ∃ (l ex : Int) (num den : Nat), 0 < den ∧ l.natAbs ≤ 3000 ∧ den * pow2 (l - ex) ≤ num * pow2 (ex - l) ∧ num * pow2 (ex - l) < 2 * den * pow2 (l - ex) :=
  ⟨⟨3, 2, 31, by decide⟩, -3000, -3001, 5, 2, by decide +kernel⟩

theorem test_meets_float : Ready2 (.fadd .f32 (vf 3 4 5 0 0x20)) .f32 (vf 3 4 5 0 0x20) (some .f32) (some .f32) ∧
    Ready2 (.fmul .f32 (vf 3 4 5 0)) .f32 (vf 3 4 5 0) (some .f32) (some .f32) ∧
    Ready3 (.ffma .f32 (vf 3 4 5 6)) .f32 (vf 3 4 5 6) (some .f32) ∧
    Ready2 (.fmin .f32 (vf 3 4 5 0)) .f32 (vf 3 4 5 0) (some .f32) (some .f32) ∧
    Ready2 (.fmax .f16 (vf 3 4 5 0)) .f16 (vf 3 4 5 0) (some .f16) (some .f16) ∧
    Ready2 (.fdiv .f32 (vf 3 4 5 0)) .f32 (vf 3 4 5 0) (some .f32) (some .f32) ∧
    (∃ s c, ready (.fscale .f32 (vf 3 4 5 0 0x10)) (vNames (vf 3 4 5 0 0x10) true 2) (vf 3 4 5 0 0x10) s c
      [(c.srcA (vf 3 4 5 0 0x10) .f32, some .f32), (c.srcB (vf 3 4 5 0 0x10) (signedOf .f32), none)] ∧ c.act ≠ []) :=
  ⟨ready_of base (by decide), ready_of base (by decide), ready_of base (by decide), ready_of base (by decide),
    ready_of base (by decide), ready_of base (by decide),
    ready_of (xs := fun c => [(c.srcA (vf 3 4 5 0 0x10) .f32, some .f32), (c.srcB (vf 3 4 5 0 0x10) (signedOf .f32), none)]) base (by decide)⟩

theorem test_meets_dot_and_special :
    (∃ s c, ready (.fdot .f16 (vf 3 4 5 6)) (vNames (vf 3 4 5 6) true 3) (vf 3 4 5 6) s c
      [(c.srcA (vf 3 4 5 6) .f16, some .f16), (c.srcB (vf 3 4 5 6) .f16, some .f16), (c.srcC (vf 3 4 5 6) .f32, some .f32)] ∧ c.act ≠ []) ∧
    Ready1 (.fclass .e4m3 (vf 3 4 0 0)) .e4m3 (vf 3 4 0 0) (some .e4m3) ∧ Ready1 (.frcp .f32 (vf 3 4 0 0)) .f32 (vf 3 4 0 0) (some .f32) ∧
    Ready1 (.frsq .f32 (vf 3 4 0 0)) .f32 (vf 3 4 0 0) (some .f32) ∧ Ready1 (.fsqrt .f32 (vf 3 4 0 0)) .f32 (vf 3 4 0 0) (some .f32) ∧
    Ready1 (.fexp2 .f32 (vf 3 4 0 0)) .f32 (vf 3 4 0 0) (some .f32) ∧ Ready1 (.flog2 .f32 (vf 3 4 0 0)) .f32 (vf 3 4 0 0) (some .f32) ∧
    Ready1 (.fsin .f32 (vf 3 4 0 0)) .f32 (vf 3 4 0 0) (some .f32) ∧ Ready1 (.fcos .f32 (vf 3 4 0 0)) .f32 (vf 3 4 0 0) (some .f32) ∧
    Ready1 (.fround 4 (vf 3 4 0 10)) .f32 (vf 3 4 0 10) (some .f32) :=
  ⟨ready_of (xs := fun c => [(c.srcA (vf 3 4 5 6) .f16, some .f16), (c.srcB (vf 3 4 5 6) .f16, some .f16), (c.srcC (vf 3 4 5 6) .f32, some .f32)])
      base (by decide), ready_of base (by decide), ready_of base (by decide), ready_of base (by decide), ready_of base (by decide),
    ready_of base (by decide), ready_of base (by decide), ready_of base (by decide), ready_of base (by decide), ready_of base (by decide)⟩

/-- The source rows that a conversion checks: narrowing with a group, widening, and SD into eight bits. -/
def cvtRows (f : VF) (c : Ctx) : List (Src × Option Tag) :=
  (c.srcA f (cvtTy f.c), if (cvtTy f.c).isFloat then some (tagOf (cvtTy f.c)) else none) ::
    if (cvtTy f.c).count < (cvtTy f.b).count then [(c.plain 1 f.d.toNat, none)] else []

theorem test_meets_conversions :
    Ready (.fcvt 5 (vf 3 4 13 26)) (vNames (vf 3 4 13 26) true 1) (vf 3 4 13 26) (cvtRows (vf 3 4 13 26)) ∧
    Ready (.icvt 0 (vf 3 4 10 1)) (vNames (vf 3 4 10 1) true 1) (vf 3 4 10 1) (cvtRows (vf 3 4 10 1)) ∧
    Ready (.fcvti 1 (vf 3 4 0 26)) (vNames (vf 3 4 0 26) true 1) (vf 3 4 0 26) (cvtRows (vf 3 4 0 26)) :=
  ⟨ready_of base (by decide), ready_of base (by decide), ready_of base (by decide)⟩

theorem test_meets_block_conversions :
    Met (.bcvtScale 0 (vf 3 4 0 9)) (vNames (vf 3 4 0 9) true 1) (fun _ c => c.act ≠ [] ∧ permWidthOk (vf 3 4 0 9) c.w = true ∧
      ∀ l ∈ c.act, ∀ k ∈ c.live, k / 16 = l / 16 → laneRowErr [(c.srcA (vf 3 4 0 9) .f32, some .f32)] k = none) ∧
    Ready (.bcvtEnc 0 (vf 3 4 5 27)) (vNames (vf 3 4 5 27) true 2) (vf 3 4 5 27) (fun c =>
      [(c.srcA (vf 3 4 5 27) .f32, some .f32), (c.srcB (vf 3 4 5 27) .b64, some (scaleTag (blkTag (vf 3 4 5 27))))]) ∧
    Ready (.bcvtDec 0 (vf 3 4 5 41)) (vNames (vf 3 4 5 41) true 2) (vf 3 4 5 41) (fun c =>
      [(c.srcA (vf 3 4 5 41) .b64, some (tagOf (blkElem (blkTag (vf 3 4 5 41))))), (c.srcB (vf 3 4 5 41) .b64, some (scaleTag (blkTag (vf 3 4 5 41))))]) :=
  ⟨meetsD base (fun c => c.act ≠ [] ∧ permWidthOk (vf 3 4 0 9) c.w = true ∧
      ∀ l ∈ c.act, ∀ k ∈ c.live, k / 16 = l / 16 → laneRowErr [(c.srcA (vf 3 4 0 9) .f32, some .f32)] k = none) (fun _ h => h) (by decide),
    ready_of base (by decide), ready_of base (by decide)⟩

/-! ## Of the cross-lane, walker, shape and tag statements -/

theorem test_meets_shfl_and_vote :
    Met (.shfl 8 (vf 3 4 5 0)) (memberNames (vf 3 4 5 0) true 2) (fun _ c => c.act ≠ [] ∧ permWidthOk (vf 3 4 5 0) c.w = true ∧
      ∀ l ∈ c.act, shflPoison 8 c.w (c.srcA (vf 3 4 5 0) .b64) (c.srcB (vf 3 4 5 0) .b64) c.act.contains l = none) ∧
    (∀ i ∈ [Instr.voteAny (vf 1 15 0 0), .voteAll (vf 1 15 0 0)], Met i { memberNames (vf 1 15 0 0) false 0 with codes := [] } fun _ c => c.act ≠ []) ∧
    ∀ i ∈ [Instr.voteBallot (vf 3 15 0 0), .voteCount (vf 3 15 0 0)], Met i { memberNames (vf 3 15 0 0) true 0 with codes := [] } fun _ c => c.act ≠ [] := by
  refine ⟨meetsD base (fun c => c.act ≠ [] ∧ permWidthOk (vf 3 4 5 0) c.w = true ∧
      ∀ l ∈ c.act, shflPoison 8 c.w (c.srcA (vf 3 4 5 0) .b64) (c.srcB (vf 3 4 5 0) .b64) c.act.contains l = none) (fun _ h => h) (by decide), ?_, ?_⟩ <;>
    intro i hi <;> simp only [List.mem_cons, List.not_mem_nil, or_false] at hi <;> obtain rfl | rfl := hi <;>
    exact meetsD base (fun c => c.act ≠ []) (fun _ h => h) (by decide)

theorem test_meets_reductions :
    Ready1 (.cdetMask (vf 3 4 0 6)) .b64 (vf 3 4 0 6) none ∧ Ready2 (.cdetFadd (vf 3 4 5 7)) .b64 (vf 3 4 5 7) none (some .f32) ∧
    Ready2 (.cdetIadd (vf 3 4 5 0)) .b64 (vf 3 4 5 0) none none ∧ Ready1 (.lred 0 (vf 3 4 1 0)) .b64 (vf 3 4 1 0) none ∧
    Ready1 (.lscan 1 (vf 3 4 26 0)) .b64 (vf 3 4 26 0) (some .f32) :=
  ⟨ready_of base (by decide), ready_of base (by decide), ready_of base (by decide), ready_of base (by decide), ready_of base (by decide)⟩

/-- A bound walker of two by three elements, at its last element, with p0 and p1 as end predicates. -/
def walker23 : Walker := ⟨16, [2, 3, 1, 1], [8, 32, 0, 0], [0, 1, 0, 0], [1, 2, 0, 0], false, .b64, [some 0, some 1, none, none]⟩
def walking : State := setThreads base fun _ t => { t with walkers := List.replicate 7 (some walker23) }

theorem test_meets_walkers :
    (Ready (.wbind 6 (vf 0 4 5 6)) { vNames (vf 0 4 5 6) false 3 with codes := [] } (vf 0 4 5 6) fun c =>
      [(c.srcA (vf 0 4 5 6) .b64, none), (c.srcB (vf 0 4 5 6) .b64, none), (c.srcC (vf 0 4 5 6) .b64, none)]) ∧
    (∀ i ∈ [Instr.wctlEnds 6 (vf 0 4 0 0), .wctlVtype 6 (vf 0 4 0 1), .wctlShift 6 (vf 0 4 0 2), .wctlSkip 6 (vf 0 4 0 6)], ∃ n f s c,
      ready i n f s c [(c.srcA f .b64, none)] ∧ c.act ≠ [] ∧ (∀ l ∈ c.act, ((c.f.thread l).walkers.getD 6 none).isSome = true) ∧
      ∀ l ∈ c.act, ((c.srcA f .b64).val l).toNat = 9) ∧
    Met (.wctlRew 6 (vf 0 0 0 3)) (vNames (vf 0 0 0 3) false 0) (fun _ c => c.act ≠ [] ∧ permWidthOk (vf 0 0 0 3) c.w = true ∧
      ∀ l ∈ c.act, ((c.f.thread l).walkers.getD 6 none).isSome = true) ∧
    Met (.wctlUnbind 0 (vf 0 0 0 4)) (vNames (vf 0 0 0 4) false 0) (fun _ c => c.act ≠ []) ∧
    Met (.wctlTell 6 (vf 3 0 0 5)) (vNames (vf 3 0 0 5) true 0) (fun _ c => c.act ≠ [] ∧ ∀ l ∈ c.act, ((c.f.thread l).walkers.getD 6 none).isSome = true) := by
  refine ⟨ready_of base (by decide), ?_, meetsD walking (fun c => c.act ≠ [] ∧ permWidthOk (vf 0 0 0 3) c.w = true ∧
      ∀ l ∈ c.act, ((c.f.thread l).walkers.getD 6 none).isSome = true) (fun _ h => h) (by decide), meetsD base (fun c => c.act ≠ []) (fun _ h => h) (by decide),
    meetsD walking (fun c => c.act ≠ [] ∧ ∀ l ∈ c.act, ((c.f.thread l).walkers.getD 6 none).isSome = true) (fun _ h => h) (by decide)⟩
  have k : ∀ (i : Instr) (f : VF), (issuing i (vNames f false 1) (setReg walking 4 fun _ => 9)).any (fun c => decide (permWidthOk f c.w = true ∧
      cleanB c [(c.srcA f .b64, none)] = true ∧ c.act ≠ [] ∧ (∀ l ∈ c.act, ((c.f.thread l).walkers.getD 6 none).isSome = true) ∧
      ∀ l ∈ c.act, ((c.srcA f .b64).val l).toNat = 9)) = true → ∃ n f s c, ready i n f s c [(c.srcA f .b64, none)] ∧ c.act ≠ [] ∧
      (∀ l ∈ c.act, ((c.f.thread l).walkers.getD 6 none).isSome = true) ∧ ∀ l ∈ c.act, ((c.srcA f .b64).val l).toNat = 9 := by
    intro i f h
    obtain ⟨s, c, h1, h2, h3, h4⟩ := meetsD _ (fun c => permWidthOk f c.w = true ∧
      cleanB c [(c.srcA f .b64, none)] = true ∧ c.act ≠ [] ∧ (∀ l ∈ c.act, ((c.f.thread l).walkers.getD 6 none).isSome = true) ∧
      ∀ l ∈ c.act, ((c.srcA f .b64).val l).toNat = 9) (Q := fun _ c => permWidthOk f c.w = true ∧
      cleanB c [(c.srcA f .b64, none)] = true ∧ c.act ≠ [] ∧ (∀ l ∈ c.act, ((c.f.thread l).walkers.getD 6 none).isSome = true) ∧
      ∀ l ∈ c.act, ((c.srcA f .b64).val l).toNat = 9) (fun _ h => h) h
    exact ⟨_, f, s, c, ⟨h1, h2, clean_of h3⟩, h4⟩
  intro i hi
  simp only [List.mem_cons, List.not_mem_nil, or_false] at hi
  obtain rfl | rfl | rfl | rfl := hi
  · exact k _ (vf 0 4 0 0) (by decide)
  · exact k _ (vf 0 4 0 1) (by decide)
  · exact k _ (vf 0 4 0 2) (by decide)
  · exact k _ (vf 0 4 0 6) (by decide)

/-- The walker of the advance: its read wraps, and both end predicates become true. -/
theorem test_meets_walker_advance : ∃ (t : Thread) (k : Nat) (w : Walker), t.walker k = some w ∧ k < t.walkers.length ∧ w.extents.length = 4 ∧
    w.idx.length = 4 ∧ w.strides.length = 4 ∧ w.shifts.length = 4 ∧ w.ends.length = 4 ∧ (∀ j < 4, w.idx.getD j 0 < w.extents.getD j 0) ∧
    (∀ p : BitVec 3, p ≠ 7 → ∀ j < 4, ∀ i < 4, w.ends.getD j none = some p → w.ends.getD i none = some p → i = j) :=
  ⟨{ noThread with walkers := [some walker23] }, 0, walker23, rfl, by decide, rfl, rfl, rfl, rfl, rfl, by decide, by decide⟩

theorem test_meets_shape_and_tag : ∃ f : VF, f = vf 3 4 0 0 ∧
    Met (.shapeGet f) (vNames f true 1) (fun _ c => c.act ≠ [] ∧ permWidthOk f c.w = true) ∧ Ready1 (.shapeGen f) .b64 f none ∧
    Met (.shapeUni f) (vNames f true 1) (fun _ c => permWidthOk f c.w = true ∧ ¬c.isShared f.d.toNat ∧ c.act ≠ [] ∧ ((c.srcA f .b64).row c.low).poison = false) ∧
    Met (.shapeAff f) (vNames f true 2) (fun _ c => permWidthOk f c.w = true ∧ ¬c.isShared f.d.toNat ∧ c.act ≠ [] ∧ ((c.srcA f .b64).row c.low).poison = false ∧
      ((c.srcB f .b64).row c.low).poison = false) ∧
    Ready1 (.ftagGet f) .b64 f none ∧ Ready1 (.ftagSet (vf 3 4 0 8)) .b64 (vf 3 4 0 8) none ∧
    Met (.ftagTget (vf 3 15 0 0)) (vNames (vf 3 15 0 0) true 0) (fun _ c => c.act ≠ []) ∧
    Met (.ftagTset (vf 15 0 0 11)) (vNames (vf 15 0 0 11) false 0) (fun _ c => c.act ≠ []) :=
  ⟨_, rfl, meetsD base (fun c => c.act ≠ [] ∧ permWidthOk (vf 3 4 0 0) c.w = true) (fun _ h => h) (by decide), ready_of base (by decide),
    meetsD base (fun c => permWidthOk (vf 3 4 0 0) c.w = true ∧ ¬c.isShared (vf 3 4 0 0).d.toNat ∧ c.act ≠ [] ∧
      ((c.srcA (vf 3 4 0 0) .b64).row c.low).poison = false) (fun _ h => h) (by decide),
    meetsD base (fun c => permWidthOk (vf 3 4 0 0) c.w = true ∧ ¬c.isShared (vf 3 4 0 0).d.toNat ∧ c.act ≠ [] ∧
      ((c.srcA (vf 3 4 0 0) .b64).row c.low).poison = false ∧ ((c.srcB (vf 3 4 0 0) .b64).row c.low).poison = false) (fun _ h => h) (by decide),
    ready_of base (by decide), ready_of base (by decide), meetsD base (fun c => c.act ≠ []) (fun _ h => h) (by decide),
    meetsD base (fun c => c.act ≠ []) (fun _ h => h) (by decide)⟩

/-! ## Of the control-flow and barrier statements -/

/-- Half of the threads have p0 set. -/
def half : State := setThreads base fun l t => { t with preds := if l < 8 then 1 else 0 }

/-- Transfers to the last header of the code region. -/
theorem test_meets_transfers : (∀ (p : Instr × Names × Nat), p ∈ [(Instr.bra ⟨0, 510, g7⟩, bNames ⟨0, 510, g7⟩ false, 8), (.brx ⟨4, 511, g7⟩, bNames ⟨4, 511, g7⟩ true, 0),
      (.call ⟨4, 510, g7⟩, bNames ⟨4, 510, g7⟩ true, 8), (.callX ⟨4, 511, g7⟩, bNames ⟨4, 511, g7⟩ true, 0)] →
    Met p.1 p.2.1 fun _ c => c.act ≠ [] ∧ c.is.addr.toNat = 8 ∧ clean c [(c.plain 2 4, none)] ∧ (∀ l ∈ c.act, (c.plain 2 4).val l = 0) ∧
      ∀ l ∈ c.act, c.lr.code.toNat ≤ 4088 ∧ 4088 < c.lr.code.toNat + c.lr.codeSz) ∧
    Met (.ret ⟨4, 0, g7⟩) (bNames ⟨4, 0, g7⟩ true) fun _ c => c.act ≠ [] ∧ clean c [(c.plain 2 4, none)] ∧
      ∀ l ∈ c.act, (c.plain 2 4).val l = 0 ∧ c.lr.code.toNat = 0 ∧ 0 < c.lr.codeSz := by
  refine ⟨?_, meetsD base (fun c => c.act ≠ [] ∧ cleanB c [(c.plain 2 4, none)] = true ∧
      ∀ l ∈ c.act, (c.plain 2 4).val l = 0 ∧ c.lr.code.toNat = 0 ∧ 0 < c.lr.codeSz) (fun _ h => ⟨h.1, clean_of h.2.1, h.2.2⟩) (by decide)⟩
  have k : ∀ (i : Instr) (n : Names), (issuing i n base).any (fun c => decide (c.act ≠ [] ∧ c.is.addr.toNat = 8 ∧ cleanB c [(c.plain 2 4, none)] = true ∧
      (∀ l ∈ c.act, (c.plain 2 4).val l = 0) ∧ ∀ l ∈ c.act, c.lr.code.toNat ≤ 4088 ∧ 4088 < c.lr.code.toNat + c.lr.codeSz)) = true →
      Met i n fun _ c => c.act ≠ [] ∧ c.is.addr.toNat = 8 ∧ clean c [(c.plain 2 4, none)] ∧ (∀ l ∈ c.act, (c.plain 2 4).val l = 0) ∧
        ∀ l ∈ c.act, c.lr.code.toNat ≤ 4088 ∧ 4088 < c.lr.code.toNat + c.lr.codeSz := fun i n h =>
    meetsD base _ (fun _ h => ⟨h.1, h.2.1, clean_of h.2.2.1, h.2.2.2⟩) h
  intro p hp
  simp only [List.mem_cons, List.not_mem_nil, or_false] at hp
  obtain rfl | rfl | rfl | rfl := hp <;> exact k _ _ (by decide)

/-- `exit`: all threads, half of them, and none. -/
theorem test_meets_exit : Met (.exit (sf 0 0 0)) (sNames (sf 0 0 0) false false) (fun _ c => c.act ≠ [] ∧ c.live = c.act) ∧
    Met (.exit (sf 0 0 0 g0)) (sNames (sf 0 0 0 g0) false false) (fun _ c => c.act ≠ [] ∧ ∃ l ∈ c.live, l ∉ c.act) ∧
    Met (.exit (sf 0 0 0 g0)) (sNames (sf 0 0 0 g0) false false) (fun _ c => c.act = []) :=
  ⟨meetsD base (fun c => c.act ≠ [] ∧ c.live = c.act) (fun _ h => h) (by decide), meetsD half (fun c => c.act ≠ [] ∧ ∃ l ∈ c.live, l ∉ c.act) (fun _ h => h) (by decide),
    meetsD base (fun c => c.act = []) (fun _ h => h) (by decide)⟩

/-- An outstanding operation; all lanes wait at the end of its window. -/
def opOf (kind : OpKind) (ahead : Ahead) (writes : List HeldWrite) (done : Bool) : Op :=
  ⟨9, [.ld], kind, ahead, if ahead = .async then 0 else 0xFFFF, writes, [], [], 0, done⟩
def withOp (s : State) (o : Op) : State := setFibre s fun f => { f with ops := f.ops ++ [o] }

/-- The rendezvous: complete at once, Blocked, and held back by an open window; `join.m` with the member mask in v4. -/
theorem test_meets_join :
    Met (.join (sf 0 0 0)) (sNames (sf 0 0 0) false false) (fun s c => c.act ≠ [] ∧ c.arrivalOk = true ∧ c.f.handler = none ∧ c.live = c.act ∧ s.filedFrom c.r = []) ∧
    Met (.join (sf 0 0 0 g0)) (sNames (sf 0 0 0 g0) false false) (fun _ c => c.act ≠ [] ∧ c.arrivalOk = true ∧ (∀ l ∈ c.live, (c.f.thread l).atRendezvous = none) ∧
      ∃ l ∈ c.live, l ∉ c.act ∧ (maskOf (List.range c.w)).getLsbD l = true) ∧
    Met (.joinM (sf 0 4 0 g0)) (sNames (sf 0 4 0 g0) false true) (fun _ c => c.act ≠ [] ∧ c.arrivalOk = true ∧ ((c.plain 2 4).row c.low).poison = false ∧
      (∀ l ∈ c.live, (c.f.thread l).atRendezvous = none) ∧ ∃ l ∈ c.live, l ∉ c.act ∧ ((c.plain 2 4).val c.low &&& maskOf (List.range c.w)).getLsbD l = true) ∧
    Met (.join (sf 0 0 0)) (sNames (sf 0 0 0) false false) (fun _ c => c.act ≠ [] ∧ c.arrivalOk = false) ∧
    Met (.join (sf 0 0 0 g0)) (sNames (sf 0 0 0 g0) false false) (fun _ c => c.act = []) :=
  ⟨meetsD base (fun c => c.act ≠ [] ∧ c.arrivalOk = true ∧ c.f.handler = none ∧ c.live = c.act ∧ base.filedFrom c.r = []) (fun _ h => h) (by decide),
    meetsD half (fun c => c.act ≠ [] ∧ c.arrivalOk = true ∧ (∀ l ∈ c.live, (c.f.thread l).atRendezvous = none) ∧
      ∃ l ∈ c.live, l ∉ c.act ∧ (maskOf (List.range c.w)).getLsbD l = true) (fun _ h => h) (by decide),
    meetsD (setReg half 4 fun _ => 0x8001) (fun c => c.act ≠ [] ∧ c.arrivalOk = true ∧ ((c.plain 2 4).row c.low).poison = false ∧
      (∀ l ∈ c.live, (c.f.thread l).atRendezvous = none) ∧ ∃ l ∈ c.live, l ∉ c.act ∧ ((c.plain 2 4).val c.low &&& maskOf (List.range c.w)).getLsbD l = true)
      (fun _ h => h) (by decide),
    meetsD (withOp base (opOf .load (.window 0 2) [] false)) (fun c => c.act ≠ [] ∧ c.arrivalOk = false) (fun _ h => h) (by decide),
    meetsD base (fun c => c.act = []) (fun _ h => h) (by decide)⟩

theorem test_meets_reform :
    Met (.reform (sf 0 0 0)) (sNames (sf 0 0 0) false false) (fun s c => c.act ≠ [] ∧ c.f.handler = none ∧ c.f.writesOpen = false ∧ c.core < s.cores.length) ∧
    Met (.reformX (sf 0 4 0)) (sNames (sf 0 4 0) false true) (fun s c => c.act ≠ [] ∧ clean c [(c.plain 2 4, none)] ∧
      (∀ l ∈ c.act, targetOk c.lr ((c.plain 2 4).val l) = true) ∧ c.f.handler = none ∧ c.f.writesOpen = false ∧ c.core < s.cores.length) :=
  ⟨meetsD base (fun c => c.act ≠ [] ∧ c.f.handler = none ∧ c.f.writesOpen = false ∧ c.core < base.cores.length) (fun _ h => h) (by decide),
    meetsD (setReg base 4 fun _ => 4088) (fun c => c.act ≠ [] ∧ cleanB c [(c.plain 2 4, none)] = true ∧
      (∀ l ∈ c.act, targetOk c.lr ((c.plain 2 4).val l) = true) ∧ c.f.handler = none ∧ c.f.writesOpen = false ∧ c.core < (setReg base 4 fun _ => 4088).cores.length)
      (fun _ h => ⟨h.1, clean_of h.2.1, h.2.2⟩) (by decide)⟩

/-- A full bin of the placed team in core 0, whose fibre has no thread left; and one that has just reached its age limit. -/
def fullBin : Bin := ⟨1, 16, 0, false, (List.range 16).map fun l => ⟨noThread, [], some 0, l⟩⟩
def binned (b : Bin) : State :=
  (setFibre base fun f => { f with issue := none, threads := f.threads.map fun (t : Thread) => { t with st := .absent } }).modCore 0 fun c => { c with gallery := [some b] }

theorem test_meets_gallery :
    (∃ (s : State) (core bin : Nat) (b : Bin) (T : Team), s.drawDue core bin = true ∧ (s.core core).gallery.getD bin none = some b ∧ s.team? b.team = some T) ∧
    ∃ (s : State) (core bin : Nat) (b : Bin) (T : Team), (s.core core).gallery.getD bin none = some b ∧ s.team? b.team = some T ∧ b.aged = false ∧ b.opened + (s.recOf T).rage ≤ s.clock :=
  ⟨⟨binned fullBin, 0, 0, fullBin, (binned fullBin).teams.headD (fetchTeam 1 0 0), by decide, rfl, rfl⟩,
    ⟨{ binned fullBin with clock := 2048 }, 0, 0, fullBin, (binned fullBin).teams.headD (fetchTeam 1 0 0), rfl, rfl, rfl, by decide⟩⟩

theorem test_meets_yield_and_fibre_barriers :
    Met (.nop (sf 0 0 0)) (sNames (sf 0 0 0) false false) (fun _ c => c.act ≠ []) ∧
    Met (.yield (sf 0 0 0)) (sNames (sf 0 0 0) false false) (fun _ c => c.act ≠ [] ∧ c.f.slot < c.t.slots.length) ∧
    (∀ n ∈ [0, 1], Met (.fbarArrive (sf 0 0 (3 + 4 * n))) (sNames (sf 0 0 (3 + 4 * n)) false false) fun _ c => n ≤ c.slot.count ∧ c.act ≠ [] ∧
      (c.f.slot < c.t.slots.length ∧ 3 < c.slot.bars.length ∧ c.pos < (c.bar 3).arrivals.length ∧ c.pos < (c.bar 3).waits.length) ∧ c.arrivalOk = true ∧
      (c.bar 3).arrivals.getD c.pos 0 ≤ (c.bar 3).phases) ∧
    Met (.fbarWait (sf 0 0 3)) (sNames (sf 0 0 3) false false) (fun _ c => c.act ≠ [] ∧
      c.f.slot < c.t.slots.length ∧ 3 < c.slot.bars.length ∧ c.pos < (c.bar 3).arrivals.length ∧ c.pos < (c.bar 3).waits.length) ∧
    Met (.fbarArrive (sf 0 0 3 g0)) (sNames (sf 0 0 3 g0) false false) (fun _ c => 0 ≤ c.slot.count ∧ c.act = []) ∧
    Met (.fbarWait (sf 0 0 3 g0)) (sNames (sf 0 0 3 g0) false false) (fun _ c => c.act = []) := by
  refine ⟨meetsD base (fun c => c.act ≠ []) (fun _ h => h) (by decide), meetsD base (fun c => c.act ≠ [] ∧ c.f.slot < c.t.slots.length) (fun _ h => h) (by decide), ?_,
    meetsD base (fun c => c.act ≠ [] ∧ c.f.slot < c.t.slots.length ∧ 3 < c.slot.bars.length ∧ c.pos < (c.bar 3).arrivals.length ∧ c.pos < (c.bar 3).waits.length)
      (fun _ h => h) (by decide),
    meetsD base (fun c => 0 ≤ c.slot.count ∧ c.act = []) (fun _ h => h) (by decide), meetsD base (fun c => c.act = []) (fun _ h => h) (by decide)⟩
  intro n hn
  simp only [List.mem_cons, List.not_mem_nil, or_false] at hn
  obtain rfl | rfl := hn
  · exact meetsD base (fun c => 0 ≤ c.slot.count ∧ c.act ≠ [] ∧ (c.f.slot < c.t.slots.length ∧ 3 < c.slot.bars.length ∧ c.pos < (c.bar 3).arrivals.length ∧
      c.pos < (c.bar 3).waits.length) ∧ c.arrivalOk = true ∧ (c.bar 3).arrivals.getD c.pos 0 ≤ (c.bar 3).phases) (fun _ h => h) (by decide)
  · exact meetsD base (fun c => 1 ≤ c.slot.count ∧ c.act ≠ [] ∧ (c.f.slot < c.t.slots.length ∧ 3 < c.slot.bars.length ∧ c.pos < (c.bar 3).arrivals.length ∧
      c.pos < (c.bar 3).waits.length) ∧ c.arrivalOk = true ∧ (c.bar 3).arrivals.getD c.pos 0 ≤ (c.bar 3).phases) (fun _ h => h) (by decide)

theorem test_meets_team_barriers : ∀ p ∈ [(Instr.tbar (sf 0 0 15), sNames (sf 0 0 15) false false), (.tbarArrive (sf 0 0 15), sNames (sf 0 0 15) false false)],
    Met p.1 p.2 fun s c => s.team? c.r.team = some (fetchTeam 1 0 0) ∧ ((fetchTeam 1 0 0).fibres.map (·.fid)).Nodup ∧ c.act ≠ [] ∧ c.arrivalOk = true ∧
      ∀ l ∈ c.act, hasArrived 15 (c.f.thread l) = false := by
  intro p hp
  simp only [List.mem_cons, List.not_mem_nil, or_false] at hp
  obtain rfl | rfl := hp <;>
    exact meetsD base (fun c => c.r.team = 1 ∧ c.act ≠ [] ∧ c.arrivalOk = true ∧ ∀ l ∈ c.act, hasArrived 15 (c.f.thread l) = false)
      (fun c h => ⟨by rw [h.1]; rfl, by decide, h.2⟩) (by decide)

/-! ## Of the memory statements -/

def accessB (c : Ctx) (q : LaneReq) (n : Nat) (pa : Nat → Nat) : Bool := c.act.all fun l =>
  (match c.checkLane q l with | .ok x => x == pa l | .error _ => false) && pkgOf (pa l) == c.s.pkg.toNat &&
    ((List.range n).all fun k => pkgOf (pa l + k) == c.s.pkg.toNat) && ((c.s.place (pa l)).granules n).all fun g => !c.s.engineOwned g

theorem checked_of {c : Ctx} {q : LaneReq} {l x : Nat} (h : (match c.checkLane q l with | .ok y => y == x | .error _ => false) = true) :
    c.checkLane q l = .ok x := by
  cases hc : c.checkLane q l with
  | error e => rw [hc] at h; exact absurd h (by simp)
  | ok y => rw [hc] at h; have : y = x := by simpa using h
            rw [this]

theorem accessOk_of {c : Ctx} {q : LaneReq} {n : Nat} {pa : Nat → Nat} (h : accessB c q n pa = true) : accessOk c q n pa := by
  intro l hl
  have h := List.all_eq_true.mp h l hl
  simp only [Bool.and_eq_true, beq_iff_eq] at h
  refine ⟨checked_of h.1.1.1, h.1.1.2, fun k hk => ?_, fun g hg => ?_⟩
  · simpa using (List.all_eq_true.mp h.1.2) k (List.mem_range.mpr hk)
  · simpa using (List.all_eq_true.mp h.2) g hg

theorem memWf_of (cells : List Host.Cell) (h : Memory.wf cells = true) (s : State) (hm : s.mem = cells) (hc : s.cores = State.reset.cores) (hs : s.saved = [])
    (hh : s.home = [] := by rfl) : memWf s := by
  refine ⟨hm ▸ h, by rw [hh]; rfl, ?_, by rw [hs]; intro x hx; cases hx⟩
  rw [hc]
  intro c hc
  have : c = Core.reset := (List.mem_replicate.mp hc).2
  subst this
  decide

/-- Sixteen rows of 128 bytes from virtual vbase + 4096, with a negative byte in the last. -/
def dataState : State := { setReg (setReg (setReg base 4 fun l => BitVec.ofNat 64 (vbase + 4096 + 128 * l)) 8 fun l => BitVec.ofNat 64 l) 9 fun _ => 1 with
  mem := [(0, 1), (8, 0x1D), (4096 + 128 * 15 + 3, 0x80)] }
theorem dataState_wf : memWf dataState := memWf_of [(0, 1), (8, 0x1D), (4096 + 128 * 15 + 3, 0x80)] (by decide) _ rfl rfl rfl
def rowPa (l : Nat) : Nat := 4096 + 128 * l

def loadReq (c : Ctx) (f : MF) (n : Nat) : LaneReq := ⟨[c.src 2 f.a 0 0], [], addrOf (c.src 2 f.a 0 0) none (off20 f), .read, n, 2⟩

theorem test_meets_loads : ∀ p ∈ [(Instr.ld .b64 (mf 3 4 63 0), 1, 8), (.ld .i32 (mf 3 4 63 0), 1, 4), (.ld2 .f32 (mf 3 4 63 0), 2, 16), (.ldn (mf 3 4 63 0), 16, 128)],
    Met p.1 (mNames (mf 3 4 63 0) p.2.1 true 0) fun _ c => inOrder c false ∧ c.act ≠ [] ∧ c.index (mf 3 4 63 0) = none ∧
      accessOk c (loadReq c (mf 3 4 63 0) p.2.2) p.2.2 rowPa := by
  have k : ∀ (i : Instr) (m n : Nat), (issuing i (mNames (mf 3 4 63 0) m true 0) dataState).any (fun c => decide (c.f.acquiring = false ∧ c.act ≠ [] ∧
      accessB c (loadReq c (mf 3 4 63 0) n) n rowPa = true)) = true → Met i (mNames (mf 3 4 63 0) m true 0) fun _ c => inOrder c false ∧ c.act ≠ [] ∧
      c.index (mf 3 4 63 0) = none ∧ accessOk c (loadReq c (mf 3 4 63 0) n) n rowPa := fun i m n h =>
    meetsD dataState _ (fun _ h => ⟨⟨h.1, fun h => by cases h⟩, h.2.1, rfl, accessOk_of h.2.2⟩) h
  intro p hp
  simp only [List.mem_cons, List.not_mem_nil, or_false] at hp
  obtain rfl | rfl | rfl | rfl := hp <;> exact k _ _ _ (by decide)

def storeReq (c : Ctx) (f : MF) (data : List (Src × Option Tag)) (n : Nat) : LaneReq := ⟨[c.src 2 f.a 0 0], data, addrOf (c.src 2 f.a 0 0) none (off20 f), .write, n, 2⟩

theorem test_meets_stores : ∀ p ∈ [(Instr.st .f32 (mf 0 4 8 0), 1, 8, some Tag.f32), (.st2 .b64 (mf 0 4 8 0), 2, 16, none), (.stn (mf 0 4 8 0), 16, 128, none)],
    Met p.1 (mNames (mf 0 4 8 0) 0 false p.2.1) fun s c => memWf s ∧ inOrder c (mfReleases (mf 0 4 8 0)) ∧ c.act ≠ [] ∧
      accessOk c (storeReq c (mf 0 4 8 0) ((List.range p.2.1).map fun j => (if p.2.1 = 1 then c.src 3 (mf 0 4 8 0).b 0 0 else c.plain 3 (8 + j), p.2.2.2)) p.2.2.1) p.2.2.1 rowPa := by
  have k : ∀ (i : Instr) (m n : Nat) (t : Option Tag), (issuing i (mNames (mf 0 4 8 0) 0 false m) dataState).any (fun c => decide (c.f.acquiring = false ∧
      c.f.ops.any Op.accesses = false ∧ c.act ≠ [] ∧ accessB c (storeReq c (mf 0 4 8 0) ((List.range m).map fun j =>
        (if m = 1 then c.src 3 (mf 0 4 8 0).b 0 0 else c.plain 3 (8 + j), t)) n) n rowPa = true)) = true →
      Met i (mNames (mf 0 4 8 0) 0 false m) fun s c => memWf s ∧ inOrder c (mfReleases (mf 0 4 8 0)) ∧ c.act ≠ [] ∧
      accessOk c (storeReq c (mf 0 4 8 0) ((List.range m).map fun j => (if m = 1 then c.src 3 (mf 0 4 8 0).b 0 0 else c.plain 3 (8 + j), t)) n) n rowPa := fun i m n t h =>
    meetsD dataState _ (fun _ h => ⟨dataState_wf, ⟨h.1, fun _ => h.2.1⟩, h.2.2.1, accessOk_of h.2.2.2⟩) h
  intro p hp
  simp only [List.mem_cons, List.not_mem_nil, or_false] at hp
  obtain rfl | rfl | rfl := hp <;> exact k _ _ _ _ (by decide)

/-- Type code 0x1 and no offset; all lanes at one word, or each at its own. -/
def atomf (d : Nat) : MF := mf d 4 8 0x10000
def oneWord : State := setReg dataState 4 fun _ => BitVec.ofNat 64 (vbase + 4096)

def atomReq (c : Ctx) (f : MF) : LaneReq := ⟨[c.src 2 f.a 0 0], [(c.src 3 f.b 0 0, none)], addrOf (c.src 2 f.a 0 0) none (off16 f), .atomic, 4, 2⟩

theorem test_meets_atomics :
    Met (.atom 0 (atomf 3)) (mNames (atomf 3) 1 false 1) (fun s c => memWf s ∧ inOrder c (mfReleases (atomf 3)) ∧ c.act ≠ [] ∧
      accessOk c (atomReq c (atomf 3)) 4 rowPa ∧ ∀ l ∈ c.act, ∀ m ∈ c.act, rowPa l = rowPa m ∨
        ∀ j < 4, ∀ k < 4, (c.s.place (rowPa l)).add j ≠ (c.s.place (rowPa m)).add k) ∧
    Met (.red 2 (atomf 0)) (mNames (atomf 0) 0 false 1) (fun s c => memWf s ∧ inOrder c (mfReleases (atomf 0)) ∧ c.act ≠ [] ∧
      accessOk c (atomReq c (atomf 0)) 4 (fun _ => 4096)) :=
  ⟨meetsD dataState (fun c => c.f.acquiring = false ∧ c.f.ops.any Op.accesses = false ∧ c.act ≠ [] ∧ accessB c (atomReq c (atomf 3)) 4 rowPa = true ∧
      ∀ l ∈ c.act, ∀ m ∈ c.act, rowPa l = rowPa m ∨ ∀ j < 4, ∀ k < 4, (c.s.place (rowPa l)).add j ≠ (c.s.place (rowPa m)).add k)
      (fun _ h => ⟨dataState_wf, ⟨h.1, fun _ => h.2.1⟩, h.2.2.1, accessOk_of h.2.2.2.1, h.2.2.2.2⟩) (by decide),
    meetsD oneWord (fun c => c.f.acquiring = false ∧ c.f.ops.any Op.accesses = false ∧ c.act ≠ [] ∧ accessB c (atomReq c (atomf 0)) 4 (fun _ => 4096) = true)
      (fun _ h => ⟨memWf_of [(0, 1), (8, 0x1D), (4096 + 128 * 15 + 3, 0x80)] (by decide) _ rfl rfl rfl, ⟨h.1, fun _ => h.2.1⟩, h.2.2.1, accessOk_of h.2.2.2⟩) (by decide)⟩

theorem test_meets_fences :
    (∀ i ∈ [Instr.fence (sf 0 0 0), .fenceDom (sf 0 0 0)], Met i (sNames (sf 0 0 0) false false) (fun _ c => c.act ≠ [] ∧ c.f.ops.any Op.fenced = false) ∧
      Met i (sNames (sf 0 0 0) false false) fun _ c => c.act ≠ [] ∧ c.f.ops.any Op.fenced = true) ∧
    Met (.prefetch 2 { mf 0 4 63 0 with la := 0 }) (mNames { mf 0 4 63 0 with la := 0 } 0 true 0) (fun _ c => c.act ≠ []) := by
  refine ⟨fun i hi => ?_, meetsD base (fun c => c.act ≠ []) (fun _ h => h) (by decide)⟩
  simp only [List.mem_cons, List.not_mem_nil, or_false] at hi
  obtain rfl | rfl := hi <;> exact ⟨meetsD base (fun c => c.act ≠ [] ∧ c.f.ops.any Op.fenced = false) (fun _ h => h) (by decide),
    meetsD (withOp base (opOf .store .async [] false)) (fun c => c.act ≠ [] ∧ c.f.ops.any Op.fenced = true) (fun _ h => h) (by decide)⟩

/-- `wait` for a doubleword to be greater or equal: of sixteen lanes the last finds a negative word. -/
def waitf : MF := { mf 3 4 5 0x50000 with la := 0 }
theorem test_meets_wait : Met (.wait .i32 waitf) (mNames waitf 1 false 1) fun _ c => inOrder c false ∧ c.f0.walkerBytes (.wait .i32 waitf) = [] ∧ c.act ≠ [] ∧
    accessOk c ⟨[c.src 2 waitf.a 0 0], [(c.src 3 waitf.b 0 0, none)], addrOf (c.src 2 waitf.a 0 0) none (off16 waitf), .read, 4, 2⟩ 4 rowPa ∧
    intOf .i32 (numAt c.s (rowPa 14) 4) = 0 ∧ intOf .i32 (numAt c.s (rowPa 15) 4) < 0 :=
  meetsD dataState (fun c => c.f.acquiring = false ∧ c.f0.walkerBytes (.wait .i32 waitf) = [] ∧ c.act ≠ [] ∧
    accessB c ⟨[c.src 2 waitf.a 0 0], [(c.src 3 waitf.b 0 0, none)], addrOf (c.src 2 waitf.a 0 0) none (off16 waitf), .read, 4, 2⟩ 4 rowPa = true ∧
    intOf .i32 (numAt c.s (rowPa 14) 4) = 0 ∧ intOf .i32 (numAt c.s (rowPa 15) 4) < 0)
    (fun _ h => ⟨⟨h.1, fun h => by cases h⟩, h.2.1, h.2.2.1, accessOk_of h.2.2.2.1, h.2.2.2.2⟩) (by decide)

/-- A thread parked by that `wait`, whose timed test is due now. -/
def waiting : State := { setThreads dataState fun l t => if l = 0 then { t with st := .parked (.wait (BitVec.ofNat 64 (vbase + 4096)) 0 64000) (.wait .i32 waitf) 0 } else t with time := 64000 }
def ok? (e : Except LaneErr Nat) (x : Nat) : Bool := match e with | .ok y => y == x | .error _ => false
theorem ok_of {e : Except LaneErr Nat} {x : Nat} (h : ok? e x = true) : e = .ok x := by
  cases e with
  | error e => exact absurd h (by simp [ok?])
  | ok y => have : y = x := by simpa [ok?] using h
            rw [this]
def team1 (s : State) : Team := s.teams.headD (fetchTeam 1 0 0)
def fibre1 (s : State) : Fibre := (team1 s).fibres.headD (fetchFibre 0)
theorem test_meets_wait_retest : ∃ (s : State) (r : FibreRef) (T : Team) (F : Fibre) (addr y nextTest since : Word) (pa : Nat), s.team? r.team = some T ∧
    T.fibre? r.fid = some F ∧ (F.thread 0).st = .parked (.wait addr y nextTest) (.wait .i32 waitf) since ∧ ETy.i32.waitTy = true ∧ chkWaitCond ETy.i32.code waitf = true ∧
    waitf.d.toNat < T.nregs F ∧ F.frozen 0 = false ∧ F.pending = [] ∧ nextTest ≤ s.time ∧ s.check ⟨T.ctx, T.coreOf r.fid, T.uid⟩ .read addr.toNat = .ok pa ∧
    pkgOf pa = s.pkg.toNat ∧ ∀ x ∈ (s.place pa).granules 4, s.engineOwned x = false :=
  ⟨waiting, ⟨1, 0⟩, team1 waiting, fibre1 waiting, BitVec.ofNat 64 (vbase + 4096), 0, 64000, 0, 4096, rfl, rfl, rfl, rfl, rfl, by decide, by decide, rfl, by decide,
    ok_of (by decide), rfl, by decide⟩

/-- A scratchpad bank of the team at virtual vbase + 64 KiB, whose first granule an operation owns. -/
def scratchy (owned : Bool) : State :=
  let s := setFibre (setReg base 4 fun l => BitVec.ofNat 64 (vbase + 0x10000 + 4096 * (l % 2))) fun f =>
    { f with ops := if owned then [{ opOf (.tile []) .async [] false with granules := [0] }] else [] }
  { s with
    mem := [(0, 1), (8, 0x1D)]
    launches := s.launches.map fun (x : Launch) => { x with lrec := { x.lrec with sb := BitVec.ofNat 64 (vbase + 0x10000), ss := 32768 } }
    cores := s.cores.modify 0 fun c => { c with banks := c.banks.set 0 ⟨.scratch 1 0 32768, [], []⟩ } }

def lockReq (c : Ctx) (f : MF) : LaneReq := ⟨[c.src 2 f.a 0 0], [], addrOf (c.src 2 f.a 0 0) none (off20 f), .lockQuery, 1, 2⟩
def lockf (d : Nat) : MF := { mf d 4 63 0 with la := 0 }
theorem test_meets_locks : ∀ p ∈ [(Instr.lockTest (lockf 3), 3), (.lockWait (lockf 0), 0)], Met p.1 (mNames (lockf p.2) (if p.2 = 3 then 1 else 0) true 0) fun _ c => c.act ≠ [] ∧
    c.index (lockf p.2) = none ∧ (∀ l ∈ c.act, c.checkLane (lockReq c (lockf p.2)) l = .ok (0x10000 + 4096 * (l % 2))) ∧
    c.s.place 0x10000 = .bank c.core 0 0 ∧ c.s.engineOwned (granuleId c.core 0 0) = true ∧ c.s.engineOwned (granuleId c.core 0 4096) = false := by
  have k : ∀ (i : Instr) (d m : Nat), (issuing i (mNames (lockf d) m true 0) (scratchy true)).any (fun c => decide (c.act ≠ [] ∧
      (∀ l ∈ c.act, (match c.checkLane (lockReq c (lockf d)) l with | .ok y => y == 0x10000 + 4096 * (l % 2) | .error _ => false) = true) ∧
      c.s.place 0x10000 = .bank c.core 0 0 ∧ c.s.engineOwned (granuleId c.core 0 0) = true ∧ c.s.engineOwned (granuleId c.core 0 4096) = false)) = true →
      Met i (mNames (lockf d) m true 0) fun _ c => c.act ≠ [] ∧ c.index (lockf d) = none ∧ (∀ l ∈ c.act, c.checkLane (lockReq c (lockf d)) l = .ok (0x10000 + 4096 * (l % 2))) ∧
      c.s.place 0x10000 = .bank c.core 0 0 ∧ c.s.engineOwned (granuleId c.core 0 0) = true ∧ c.s.engineOwned (granuleId c.core 0 4096) = false := fun i d m h =>
    meetsD (scratchy true) _ (fun _ h => ⟨h.1, rfl, fun l hl => checked_of (h.2.1 l hl), h.2.2⟩) h
  intro p hp
  simp only [List.mem_cons, List.not_mem_nil, or_false] at hp
  obtain rfl | rfl := hp <;> exact k _ _ _ (by decide)

/-- A parked thread whose granule has returned. -/
theorem test_meets_parked_resume : ∃ (s : State) (r : FibreRef) (F : Fibre), s.fibre? r = some F ∧
    ∃ l gs i since, (F.thread l).st = .parked (.granule gs) i since ∧ gs ≠ [] ∧ ∀ g ∈ gs, s.engineOwned g = false :=
  ⟨setThreads (scratchy false) fun l t => if l = 0 then { t with st := .parked (.granule [0]) (.st .b64 (mf 0 4 8 0)) 0 } else t, ⟨1, 0⟩, _, rfl, 0, [0], .st .b64 (mf 0 4 8 0), 0, rfl,
    by decide, by decide⟩

def notScratch (b : Bank) : Bool := match b.role with | .scratch _ _ _ => false | _ => true
theorem notScratch_ne {b : Bank} (h : notScratch b = true) (u j len : Nat) : b.role ≠ .scratch u j len := fun e => by
  unfold notScratch at h
  rw [e] at h
  exact absurd h (by simp)

/-- A team of one scratchpad bank per core, none placed yet. -/
def noScratch : State := { base with launches := base.launches.map fun (x : Launch) => { x with lrec := { x.lrec with ss := 32768 } } }

def freeBank (n : Nat) (c : Ctx) : Bool := !c.s.inFlight c.core n && !c.act.isEmpty && decide (c.core < base.cores.length) &&
  decide (n < (c.s.core c.core).banks.length) && decide (((c.s.core c.core).banks.getD n ⟨.free, [], []⟩).role = .free) &&
  ((List.range 8).all fun k => !c.s.engineOwned ((c.core * 48 + n) * 8 + k)) && decide ((c.s.core c.core).banks.countP (fun b => b.role.isL1) < 16) &&
  decide ((c.s.core c.core).banks.countP (fun b => b.role.isFifo) < 8)

/-- `bmode` on a free bank, the first free and the last bank number; on no active thread; and on a bank in its mode already. -/
theorem test_meets_bank_modes :
    (∀ p ∈ [(Instr.bmodeL1 (sf 0 0 47), 47), (.bmodeFifo (sf 0 0 8), 8)], Met p.1 (sNames (sf 0 0 p.2) false false) fun s c => c.s.inFlight c.core p.2 = false ∧ c.act ≠ [] ∧ c.core < s.cores.length ∧
      p.2 < (c.s.core c.core).banks.length ∧ ((c.s.core c.core).banks.getD p.2 ⟨.free, [], []⟩).role = .free ∧
      (∀ k < 8, c.s.engineOwned ((c.core * 48 + p.2) * 8 + k) = false) ∧ (c.s.core c.core).banks.countP (fun b => b.role.isL1) < 16 ∧
      (c.s.core c.core).banks.countP (fun b => b.role.isFifo) < 8) ∧
    Met (.bmodeScr (sf 0 0 8)) (sNames (sf 0 0 8) false false) (fun s c => c.s.inFlight c.core 8 = false ∧ c.act ≠ [] ∧ c.core < s.cores.length ∧ 8 < (c.s.core c.core).banks.length ∧
      ((c.s.core c.core).banks.getD 8 ⟨.free, [], []⟩).role = .free ∧ (∀ k < 8, c.s.engineOwned ((c.core * 48 + 8) * 8 + k) = false) ∧ c.lr.pair = false ∧
      0 < c.lr.ss / 32768 ∧ ∀ b ∈ (c.s.core c.core).banks, ∀ len, b.role ≠ .scratch c.t.uid 0 len) ∧
    Met (.bmodeL1 (sf 0 0 47 g0)) (sNames (sf 0 0 47 g0) false false) (fun _ c => c.act = []) ∧
    Met (.bmodeL1 (sf 0 0 0)) (sNames (sf 0 0 0) false false) (fun _ c => ((c.s.core c.core).banks.getD 0 ⟨.free, [], []⟩).role = .l1) ∧
    Met (.bmodeScr (sf 0 0 0)) (sNames (sf 0 0 0) false false) (fun _ c => ((c.s.core c.core).banks.getD 0 ⟨.free, [], []⟩).role = .scratch c.t.uid 0 32768) := by
  refine ⟨?_, meetsD noScratch (fun c => c.s.inFlight c.core 8 = false ∧ c.act ≠ [] ∧ c.core < noScratch.cores.length ∧ 8 < (c.s.core c.core).banks.length ∧
      ((c.s.core c.core).banks.getD 8 ⟨.free, [], []⟩).role = .free ∧ (∀ k < 8, c.s.engineOwned ((c.core * 48 + 8) * 8 + k) = false) ∧ c.lr.pair = false ∧
      0 < c.lr.ss / 32768 ∧ (c.s.core c.core).banks.all notScratch = true)
      (fun _ h => ⟨h.1, h.2.1, h.2.2.1, h.2.2.2.1, h.2.2.2.2.1, h.2.2.2.2.2.1, h.2.2.2.2.2.2.1, h.2.2.2.2.2.2.2.1,
        fun b hb len => notScratch_ne (List.all_eq_true.mp h.2.2.2.2.2.2.2.2 b hb) _ _ len⟩)
      (by decide),
    meetsD base (fun c => c.act = []) (fun _ h => h) (by decide), meetsD base (fun c => ((c.s.core c.core).banks.getD 0 ⟨.free, [], []⟩).role = .l1) (fun _ h => h) (by decide),
    meetsD (scratchy false) (fun c => ((c.s.core c.core).banks.getD 0 ⟨.free, [], []⟩).role = .scratch c.t.uid 0 32768) (fun _ h => h) (by decide)⟩
  have k : ∀ (i : Instr) (n : Nat), (issuing i (sNames (sf 0 0 n) false false) base).any (freeBank n) = true → Met i (sNames (sf 0 0 n) false false) fun s c => c.s.inFlight c.core n = false ∧ c.act ≠ [] ∧
      c.core < s.cores.length ∧ n < (c.s.core c.core).banks.length ∧ ((c.s.core c.core).banks.getD n ⟨.free, [], []⟩).role = .free ∧
      (∀ k < 8, c.s.engineOwned ((c.core * 48 + n) * 8 + k) = false) ∧ (c.s.core c.core).banks.countP (fun b => b.role.isL1) < 16 ∧
      (c.s.core c.core).banks.countP (fun b => b.role.isFifo) < 8 := fun i n h => meets base (freeBank n) (fun c hc => by
    simp only [freeBank, Bool.and_eq_true, decide_eq_true_eq, Bool.not_eq_true', List.isEmpty_eq_false_iff] at hc
    obtain ⟨⟨⟨⟨⟨⟨⟨h0, h1⟩, h2⟩, h3⟩, h4⟩, h5⟩, h6⟩, h7⟩ := hc
    exact ⟨h0, h1, h2, h3, h4, fun k hk => by simpa using List.all_eq_true.mp h5 k (List.mem_range.mpr hk), h6, h7⟩) h
  intro p hp
  simp only [List.mem_cons, List.not_mem_nil, or_false] at hp
  obtain rfl | rfl := hp <;> exact k _ _ (by decide)

/-- Only lane 15 has p0 set. -/
def one : State := setThreads base fun l t => { t with preds := if l = 15 then 1 else 0 }

/-- A format page of FP8 rows at virtual and local 64 KiB. -/
def formatted : State := { setReg one 4 fun _ => 0x10100 with
  mem := (0, 1) :: ((List.range 16).flatMap fun k => [(128 + 8 * k, 0xA5), (130 + 8 * k, 1)]) ++ [(0x10000 + 19, 4)] }

def fpgf : MF := mf 3 4 63 0 g0
def fpgReq (c : Ctx) (f : MF) (acc : Acc) : LaneReq := ⟨[c.src 2 f.a 0 0], [], addrOf (c.src 2 f.a 0 0) none (off20 f), acc, 1, 2⟩
theorem formatted_wf : memWf formatted := memWf_of ((0, 1) :: ((List.range 16).flatMap fun k => [(128 + 8 * k, 0xA5), (130 + 8 * k, 1)]) ++ [(0x10000 + 19, 4)]) (by decide) _ rfl rfl rfl

theorem test_meets_format_pages : ∀ p ∈ [(Instr.fpgQuery fpgf, Acc.fpgQuery), (.fpgPin fpgf, .fpgWrite), (.fpgUnpin fpgf, .fpgWrite),
      (.fpgForce fpgf, .fpgWrite)], Met p.1 (mNames fpgf 1 true 0) fun s c => memWf s ∧ inOrder c false ∧ c.act ≠ [] ∧ c.index fpgf = none ∧
    (∀ l ∈ c.act, c.checkLane (fpgReq c fpgf p.2) l = .ok 0x10100) ∧
    ∀ l ∈ c.act, c.s.fmtBase c.t.ctx (addrOf (c.src 2 fpgf.a 0 0) none (off20 fpgf) l) = some 0x10000 := by
  have k : ∀ (i : Instr) (a : Acc), (issuing i (mNames fpgf 1 true 0) formatted).any (fun c => decide (c.f.acquiring = false ∧ c.act ≠ [] ∧
      (∀ l ∈ c.act, (match c.checkLane (fpgReq c fpgf a) l with | .ok y => y == 0x10100 | .error _ => false) = true) ∧
      ∀ l ∈ c.act, c.s.fmtBase c.t.ctx (addrOf (c.src 2 fpgf.a 0 0) none (off20 fpgf) l) = some 0x10000)) = true →
      Met i (mNames fpgf 1 true 0) fun s c => memWf s ∧ inOrder c false ∧ c.act ≠ [] ∧ c.index fpgf = none ∧
      (∀ l ∈ c.act, c.checkLane (fpgReq c fpgf a) l = .ok 0x10100) ∧
      ∀ l ∈ c.act, c.s.fmtBase c.t.ctx (addrOf (c.src 2 fpgf.a 0 0) none (off20 fpgf) l) = some 0x10000 := fun i a h =>
    meetsD formatted _ (fun _ h => ⟨formatted_wf, ⟨h.1, fun h => by cases h⟩, h.2.1, rfl, fun l hl => checked_of (h.2.2.1 l hl), h.2.2.2⟩) h
  intro p hp
  simp only [List.mem_cons, List.not_mem_nil, or_false] at hp
  obtain rfl | rfl | rfl | rfl := hp <;> exact k _ _ (by decide +kernel)

/-! ## Of the tile and matrix statements -/

def tileD (kind tag acc base rows cols stride : Nat) : List Word :=
  [BitVec.ofNat 64 (kind * 2 ^ 52 + tag * 2 ^ 48 + acc * 2 ^ 46 + base), BitVec.ofNat 64 (rows * 2 ^ 48 + cols * 2 ^ 32 + stride), 0, 0, 0, 0, 0, 0]

/-- A team with scratchpad bank 0 and accumulator bank 0. Tile 1 is 64 by 64 f32 accumulators; in the
scratchpad tiles 2 (64 by 32) and 3 (32 by 64) are f16, and tiles 4 (64 by 64) and 5 (2 by 2) f32. -/
def someTiles : List (List Word) := [nullDescriptor, tileD 1 1 1 0 64 64 256, finishTile (tileD 1 2 0 0 64 32 64), finishTile (tileD 1 2 0 4096 32 64 128),
  finishTile (tileD 1 1 0 8192 64 64 256), finishTile (tileD 1 1 0 24576 2 2 16), tileD 1 0 1 0 64 16 64] ++ List.replicate 9 nullDescriptor
def tiled : State :=
  let s := setTeam (setFibre (scratchy false) fun f => { f with tiles := someTiles }) fun t => { t with accs := [0] }
  { s with cores := s.cores.modify 0 fun x => { x with acc := x.acc.set 0 ⟨some 1, [], []⟩ } }

def okU (e : Except Exc Unit) : Bool := match e with | .ok _ => true | .error _ => false
theorem okU_of {e : Except Exc Unit} (h : okU e = true) : e = .ok () := by
  cases e with
  | error e => exact absurd h (by simp [okU])
  | ok y => rfl

/-- `tdesc` of a valid descriptor in v8 to v15, `tget`, and the descriptor itself. -/
theorem test_meets_tile_descriptors :
    Met (.tdesc { xf 15 0 0 8 with la := 0 }) (xNames (xf 15 0 0 8) 8) (fun _ c => c.act ≠ [] ∧
      tileBad ((List.range 8).map fun j => (c.plain 8 (8 + j)).val c.low) = false ∧ ∀ j < 8, ((c.plain 8 (8 + j)).row c.low).poison = false) ∧
    Met (.tget { xf 0 15 0 8 with la := 0 }) (xNames (xf 0 15 0 8) 8) (fun _ c => c.act ≠ []) ∧
    ∃ d : List Word, d.length = 8 ∧ tileBad d = false ∧ (tileOf d).kind ≠ 0 ∧ (tileOf d).acc = false ∧
      (tileOf d).highest / 4096 - (tileOf d).lowest / 4096 + 1 = 2 ∧ (tileOf d).lowest / 4096 = 0 :=
  ⟨meetsD (setReg (setReg base 8 fun _ => 0x0012000000000000) 9 fun _ => 0x0041002000000040) (fun c => c.act ≠ [] ∧
      tileBad ((List.range 8).map fun j => (c.plain 8 (8 + j)).val c.low) = false ∧ ∀ j < 8, ((c.plain 8 (8 + j)).row c.low).poison = false) (fun _ h => h) (by decide),
    meetsD base (fun c => c.act ≠ []) (fun _ h => h) (by decide), tileD 1 2 0 0 65 32 64, rfl, by decide, by decide, by decide, by decide, by decide⟩

/-- Bytes of the team's scratchpad bank 0, the last byte among them. -/
theorem test_meets_tile_bytes : ∃ (s : State) (T : Team) (core x : Nat) (bs : List (Byte × Bool)), bs ≠ [] ∧ core < s.cores.length ∧
    (∀ k < bs.length, s.tileBank T core false (x + k) ≠ none) ∧ (∀ b ∈ s.scratchBanks T.uid core, b.2.2 % 8 = 0) ∧ x + bs.length = 32768 :=
  ⟨tiled, team1 tiled, 0, 32760, List.replicate 8 (1, false), by decide, by decide, by decide, by decide, rfl⟩

def moving : State := setReg (setReg tiled 8 fun _ => BitVec.ofNat 64 (vbase + 4096)) 9 fun _ => 64
theorem test_meets_tile_transfers :
    (∃ tl ps, Met (.ldt 0 (xf 5 0 0 8)) (xNames (xf 5 0 0 8) 2) fun _ c => inOrder c false ∧ c.act ≠ [] ∧ c.tileMove false (xf 5 0 0 8) (c.tile 5) 5 48 .tileRead = .ok (tl, ps) ∧
      missingPieces (c.s.reader []) ps = [] ∧ c.s.badPages ps = [] ∧ ps.length = 2) ∧
    ∃ tl ps, Met (.stt 0 (xf 0 5 0 8)) (xNames (xf 0 5 0 8) 2) fun _ c => inOrder c false ∧ c.act ≠ [] ∧ c.tileMove true (xf 0 5 0 8) (c.tile 5) 6 44 .write = .ok (tl, ps) ∧
      (∀ p ∈ ps, c.s.isFar p.pa = false) ∧ (∀ p ∈ ps, p.row < (tl.view false).1) ∧ ps.length = 2 := by
  have k : ∀ (e : Except Exc (Tile × List Piece)) (x : Tile × List Piece), (match e with | .ok y => decide (y = x) | .error _ => false) = true → e = .ok (x.1, x.2) := by
    intro e x h
    cases e with
    | error e => exact absurd h (by simp)
    | ok y => simp at h; rw [h]
  refine ⟨⟨tileOf (finishTile (tileD 1 1 0 24576 2 2 16)), [⟨0, 0, 4096, 8, 32, none⟩, ⟨1, 0, 4160, 8, 32, none⟩], meetsD moving (fun c => c.f.acquiring = false ∧ c.act ≠ [] ∧
      (match c.tileMove false (xf 5 0 0 8) (c.tile 5) 5 48 .tileRead with
        | .ok y => decide (y = (tileOf (finishTile (tileD 1 1 0 24576 2 2 16)), [⟨0, 0, 4096, 8, 32, none⟩, ⟨1, 0, 4160, 8, 32, none⟩])) | .error _ => false) = true ∧
      missingPieces (c.s.reader []) [⟨0, 0, 4096, 8, 32, none⟩, ⟨1, 0, 4160, 8, 32, none⟩] = [])
      (fun c h => ⟨⟨h.1, fun h => by cases h⟩, h.2.1, k _ _ h.2.2.1, h.2.2.2, rfl, rfl⟩) (by decide +kernel)⟩,
    ⟨tileOf (finishTile (tileD 1 1 0 24576 2 2 16)), [⟨0, 0, 4096, 8, 32, none⟩, ⟨1, 0, 4160, 8, 32, none⟩], meetsD moving (fun c => c.f.acquiring = false ∧ c.act ≠ [] ∧
      (match c.tileMove true (xf 0 5 0 8) (c.tile 5) 6 44 .write with
        | .ok y => decide (y = (tileOf (finishTile (tileD 1 1 0 24576 2 2 16)), [⟨0, 0, 4096, 8, 32, none⟩, ⟨1, 0, 4160, 8, 32, none⟩])) | .error _ => false) = true ∧
      (∀ p ∈ ([⟨0, 0, 4096, 8, 32, none⟩, ⟨1, 0, 4160, 8, 32, none⟩] : List Piece), c.s.isFar p.pa = false))
      (fun c h => ⟨⟨h.1, fun h => by cases h⟩, h.2.1, k _ _ h.2.2.1, h.2.2.2, by decide, rfl⟩) (by decide +kernel)⟩⟩

def xk (td ta tb v k : Nat) (fields : Nat := 0) : XF := { xf td ta tb v with k := BitVec.ofNat 6 k, fields := BitVec.ofNat 15 fields }
def matChecks (i : Instr) (c : Ctx) : Except Exc Unit := match i with
  | .mma _ f => c.useTiles c.core [⟨5, 48, c.tile f.td, [1], [true], [0, 1]⟩, ⟨6, 44, c.tile f.ta, kindsA f, [false], floatTags⟩,
      ⟨7, 40, c.tile f.tb, [1, 2], [false], floatTags⟩] (mmaShape f f.pr (tileOf (c.tile f.td)) (tileOf (c.tile f.ta)) (tileOf (c.tile f.tb)))
  | .mdist f => c.useTiles c.core [⟨5, 48, c.tile f.td, [1], [true], [0]⟩, ⟨6, 44, c.tile f.ta, kindsA f, [false], floatTags⟩,
      ⟨7, 40, c.tile f.tb, [1, 2], [false], floatTags⟩] (mdistShape f (tileOf (c.tile f.td)) (tileOf (c.tile f.ta)) (tileOf (c.tile f.tb)))
  | .mzero f => c.useTiles c.core [⟨5, 48, c.tile f.td, [1], [true], List.range 12⟩] none
  | .mld _ f => c.useTiles c.core [⟨5, 48, c.tile f.td, [1], [true], [1]⟩, ⟨6, 44, c.tile f.ta, [1], [false], floatTags⟩]
      (if (tileOf (c.tile f.td)).rows = (tileOf (c.tile f.ta)).rows ∧ (tileOf (c.tile f.td)).cols = (tileOf (c.tile f.ta)).cols then none else some (6, 44))
  | .mst _ f => c.useTiles c.core [⟨5, 48, c.tile f.td, [1], [false], floatTags⟩, ⟨6, 44, c.tile f.ta, [1], [true], [1]⟩]
      (if (tileOf (c.tile f.td)).rows = (tileOf (c.tile f.ta)).rows ∧ (tileOf (c.tile f.td)).cols = (tileOf (c.tile f.ta)).cols then none else some (6, 44))
  | _ => .ok ()

theorem test_meets_matrix : ∀ i ∈ [Instr.mma 0 (xf 1 2 3 0), .mdist (xk 6 2 3 63 8), .mzero (xf 1 0 0 0), .mld 0 (xf 1 4 0 0), .mst 0 (xf 4 1 0 0)],
    Met i ⟨[], [], g7⟩ fun _ c => c.act ≠ [] ∧ matChecks i c = .ok () ∧ (c.s.core c.core).array.length < 8 := by
  have k : ∀ i : Instr, (issuing i ⟨[], [], g7⟩ tiled).any (fun c => decide (c.act ≠ [] ∧ okU (matChecks i c) = true ∧ (c.s.core c.core).array.length < 8)) = true →
      Met i ⟨[], [], g7⟩ fun _ c => c.act ≠ [] ∧ matChecks i c = .ok () ∧ (c.s.core c.core).array.length < 8 := fun i h =>
    meetsD tiled _ (fun _ h => ⟨h.1, okU_of h.2.1, h.2.2⟩) h
  intro i hi
  simp only [List.mem_cons, List.not_mem_nil, or_false] at hi
  obtain rfl | rfl | rfl | rfl | rfl := hi <;> exact k _ (by decide +kernel)

/-- A queued `mzero`, ready to have its effects. -/
def arrayOp : ArrayOp := ⟨9, ⟨1, 0⟩, .mzero (xf 1 0 0 0), tileD 1 1 1 0 64 64 256, nullDescriptor, nullDescriptor, 0, 0⟩
def queuedArray : State := tiled.modCore 0 fun x => { x with array := [arrayOp] }
theorem test_meets_array_complete : ∃ (s : State) (core : Nat) (o : ArrayOp) (rest : List ArrayOp) (T : Team), (s.core core).array = o :: rest ∧
    s.arrayDue core o = true ∧ s.team? o.owner.team = some T ∧ (s.ctx T.ctx).dying = false :=
  ⟨queuedArray, 0, arrayOp, [], team1 queuedArray, rfl, by decide, rfl, rfl⟩

/-- Lists of one block, and of one block before another of the longest; candidates at equal distances. -/
theorem test_meets_accumulation : (∃ a b a' : List FV, a.length = 32 ∧ b.length = 32 ∧ a'.length = 992) ∧
    ∃ l : List Cand, l.length = 2 ∧ ∀ x ∈ l, ∀ y ∈ l, x.2.1 = y.2.1 → x = y :=
  ⟨⟨List.replicate 32 .nan, List.replicate 32 .nan, List.replicate 992 .nan, rfl, rfl, rfl⟩, [(5, 0, true), (5, 1, false)], rfl, by decide⟩

/-- Gradient requests: an accumulating one, and one that scatters rows to the launch's target range. -/
def gradable : State := setReg (setReg { tiled with launches := tiled.launches.map fun (x : Launch) => { x with lrec := { x.lrec with
  ranges := [(BitVec.ofNat 64 (vbase + 0x100000), 0x100000)] } } } 8 fun _ => BitVec.ofNat 64 (vbase + 0x100000)) 9 fun _ => 256
def gm : XF := { xf 1 2 3 0 with la := 15 }
def gmScat : XF := { xk 0 2 3 8 0 0x4000 with la := 15 }
def gradReq (st : GState) : GReq := ⟨9, ⟨1, 0⟩, 0, 0, 3, st, gm, tileD 1 1 1 0 64 64 256, finishTile (tileD 1 2 0 0 64 32 64),
  finishTile (tileD 1 2 0 4096 32 64 128), none, false, false, none⟩
def requested (st : GState) : State := gradable.modCluster 0 fun k => { k with table := [gradReq st] }
def mcan (team : Bool) : Instr := if team then .mcancelTeam { xf 0 0 0 5 with la := 0 } else .mcancel { xf 0 0 0 5 with la := 0 }

theorem test_meets_gradient :
    Met (.gmma gm) ⟨[], [], g7⟩ (fun _ c => c.act ≠ [] ∧ gm.bit23 = false ∧ ((c.s.cluster (c.core / 4)).table.length < 32 ∧ (c.s.reqsOf c.core).length < 16) ∧
      c.useTiles c.core [⟨5, 48, c.tile gm.td, [1], [true], [0, 1]⟩, ⟨6, 44, c.tile gm.ta, kindsA gm, [false], floatTags⟩, ⟨7, 40, c.tile gm.tb, [1, 2], [false], floatTags⟩]
        (mmaShape gm false (tileOf (c.tile gm.td)) (tileOf (c.tile gm.ta)) (tileOf (c.tile gm.tb))) = .ok ()) ∧
    Met (.gmma gmScat) (xNames gmScat 2) (fun _ c => c.act ≠ [] ∧ gmScat.bit23 = true ∧ ((c.s.cluster (c.core / 4)).table.length < 32 ∧ (c.s.reqsOf c.core).length < 16) ∧
      c.scatRows ((c.plain 8 8).row c.low).val ((c.plain 8 9).row c.low).val 64 64 = [] ∧ ((c.plain 8 8).row c.low).poison = false ∧
      ((c.plain 8 8).row c.low).val.toNat % 4 = 0 ∧ c.useTiles c.core [⟨6, 44, c.tile gmScat.ta, kindsA gmScat, [false], floatTags⟩,
        ⟨7, 40, c.tile gmScat.tb, [1, 2], [false], floatTags⟩] (viewsBad gmScat (tileOf (c.tile gmScat.ta)) (tileOf (c.tile gmScat.tb))) = .ok ()) ∧
    (∀ t ∈ [true, false], Met (mcan t) (xNames (xf 0 0 0 5) 1) fun _ c => c.act ≠ [] ∧ ((c.s.cluster (c.core / 4)).table.map (·.id)).Nodup ∧
      (c.s.cluster (c.core / 4)).table ≠ []) ∧
    ((∃ g ∈ ((requested .queued).cluster 0).table, g.state = .queued) ∧ (((requested .queued).cluster 0).table.map (·.id)).Nodup ∧
      ∀ g ∈ ((requested .queued).cluster 0).table, (requested .queued).engineFree g = true) ∧
    ∃ g ∈ ((requested .started).cluster 0).table, (requested .started).requestDue g = true := by
  refine ⟨meetsD gradable (fun c => c.act ≠ [] ∧ gm.bit23 = false ∧ ((c.s.cluster (c.core / 4)).table.length < 32 ∧ (c.s.reqsOf c.core).length < 16) ∧
      okU (c.useTiles c.core [⟨5, 48, c.tile gm.td, [1], [true], [0, 1]⟩, ⟨6, 44, c.tile gm.ta, kindsA gm, [false], floatTags⟩, ⟨7, 40, c.tile gm.tb, [1, 2], [false], floatTags⟩]
        (mmaShape gm false (tileOf (c.tile gm.td)) (tileOf (c.tile gm.ta)) (tileOf (c.tile gm.tb)))) = true)
      (fun _ h => ⟨h.1, h.2.1, h.2.2.1, okU_of h.2.2.2⟩) (by decide +kernel),
    meetsD gradable (fun c => c.act ≠ [] ∧ gmScat.bit23 = true ∧ ((c.s.cluster (c.core / 4)).table.length < 32 ∧ (c.s.reqsOf c.core).length < 16) ∧
      (c.scatRows ((c.plain 8 8).row c.low).val ((c.plain 8 9).row c.low).val 64 64).isEmpty = true ∧ ((c.plain 8 8).row c.low).poison = false ∧
      ((c.plain 8 8).row c.low).val.toNat % 4 = 0 ∧ okU (c.useTiles c.core [⟨6, 44, c.tile gmScat.ta, kindsA gmScat, [false], floatTags⟩,
        ⟨7, 40, c.tile gmScat.tb, [1, 2], [false], floatTags⟩] (viewsBad gmScat (tileOf (c.tile gmScat.ta)) (tileOf (c.tile gmScat.tb)))) = true)
      (fun _ h => ⟨h.1, h.2.1, h.2.2.1, List.isEmpty_iff.mp h.2.2.2.1, h.2.2.2.2.1, h.2.2.2.2.2.1, okU_of h.2.2.2.2.2.2⟩) (by decide +kernel),
    fun t _ => ?_, ⟨by decide, by decide, by decide +kernel⟩, by decide +kernel⟩
  cases t <;> exact meetsD (requested .queued) (fun c => c.act ≠ [] ∧ ((c.s.cluster (c.core / 4)).table.map (·.id)).Nodup ∧
    (c.s.cluster (c.core / 4)).table ≠ []) (fun _ h => h) (by decide)

/-- A launch whose teams acquire accumulator banks dynamically; its team holding one; a request of eight banks at the head of the list. -/
def dynamic (got : Bool) : State := setTeam { tiled with launches := tiled.launches.map fun (x : Launch) => { x with lrec := { x.lrec with accDyn := true } } } fun t =>
  if got then { t with accDyn := true } else { t with accs := [] }
def freeAccsState : State := (dynamic false).modCore 0 fun x => { x with acc := List.replicate 8 .reset, accWait := [⟨1, 8, ⟨1, 0⟩⟩] }
theorem test_meets_accumulator_banks :
    Met (.acqa { xk 0 0 0 0 8 with la := 0 }) ⟨[], [], g7⟩ (fun s c => c.core < s.cores.length ∧ c.lr.accDyn = true ∧ c.act ≠ [] ∧ c.t.accDyn = false ∧
      ∀ k ∈ [c.t.core], k < s.cores.length ∧ 8 + c.s.staticBanks k ≤ 8 ∧ ∀ q ∈ (c.s.core k).accWait, q.team ≠ c.t.uid) ∧
    Met (.rela { xf 0 0 0 0 with la := 0 }) ⟨[], [], g7⟩ (fun s c => c.core < s.cores.length ∧ c.lr.accDyn = true ∧ c.act ≠ [] ∧ c.t.accDyn = true ∧ c.s.accsBusy c.t = false) ∧
    ∃ (s : State) (core : Nat) (q : AccReq) (T : Team), (s.core core).accWait.head? = some q ∧ s.team? q.team = some T ∧ T.core = core ∧
      ∀ k ∈ T.cores (s.recOf T), k < s.cores.length ∧ (s.core k).accWait.head? = some q ∧ q.n ≤ (freeAccs (s.core k)).length :=
  ⟨meetsD (dynamic false) (fun c => c.core < (dynamic false).cores.length ∧ c.lr.accDyn = true ∧ c.act ≠ [] ∧ c.t.accDyn = false ∧
      ∀ k ∈ [c.t.core], k < (dynamic false).cores.length ∧ 8 + c.s.staticBanks k ≤ 8 ∧ ∀ q ∈ (c.s.core k).accWait, q.team ≠ c.t.uid) (fun _ h => h) (by decide),
    meetsD (dynamic true) (fun c => c.core < (dynamic true).cores.length ∧ c.lr.accDyn = true ∧ c.act ≠ [] ∧ c.t.accDyn = true ∧ c.s.accsBusy c.t = false) (fun _ h => h) (by decide),
    freeAccsState, 0, ⟨1, 8, ⟨1, 0⟩⟩, team1 freeAccsState, rfl, rfl, rfl, by decide⟩

/-! ## Of the tape and scatter statements -/

/-- A launch with a tape area in mode m; the area holds the same spans for each of the sixteen threads. -/
def taped (m quota : Nat) (spans : List Span) (charges : List Charge) : State := { setReg base 4 fun _ => 0x0100000000000003 with
  mem := [(0, 1), (8, 0x1D)]
  launches := base.launches.map fun (x : Launch) => { x with lrec := { x.lrec with tbase := BitVec.ofNat 64 vbase, tquota := 4096, tmode := m, ringB := 1 } }
  areas := [⟨0, BitVec.ofNat 64 vbase, quota, false, 1, 16, charges, (List.range 16).map fun l => ⟨0, BitVec.ofNat 32 l, spans, false, [], false⟩⟩] }
def taped0 : State := taped 2 4096 [] []
def ckptRec : TapeRec := ⟨7, 1, [(0, ⟨5, .raw, false⟩, false)], [(0, true)]⟩
/-- A span recorded from a checkpoint; a recompute span; a record. -/
def spanRec : Span := ⟨false, 0, 0, some ckptRec, none, true, []⟩
def spanRc : Span := ⟨true, 64, 0, some ckptRec, none, false, []⟩
def spanOne : Span := ⟨false, 0, 0, none, none, false, [ckptRec]⟩
def areaOf (s : State) : TapeArea := s.areas.headD ⟨0, 0, 0, false, 0, 0, [], []⟩

def tapeUsual (a : TapeArea) (src : Bool) (c : Ctx) : Prop := c.s.area? c.lr = some a ∧ c.act ≠ [] ∧ c.recForbidden a = false ∧
  (c.act.map fun l => (c.f.thread l).tid).Nodup ∧ (src = true → ((c.plain 2 4).row c.low).poison = false ∧ c.regsPending (c.maskRegs ((c.plain 2 4).val c.low)) = false)

theorem test_meets_tape_recording :
    Met (.trec (sf 0 4 0)) (sNames (sf 0 4 0) false true) (fun _ c => tapeUsual (areaOf taped0) true c ∧ (∀ l ∈ c.act, (c.tapeOf (areaOf taped0) l).isRc = false) ∧
      let size := c.entryCharge c.act (c.maskRegs ((c.plain 2 4).val c.low)) (maskPreds ((c.plain 2 4).val c.low)) false
      (areaOf taped0).used + size ≤ (areaOf taped0).quota ∧ c.ringFull (areaOf taped0) size = false) ∧
    Met (.trec (sf 0 4 0)) (sNames (sf 0 4 0) false true) (fun _ c => tapeUsual (areaOf (taped 2 48 [spanRec] [])) true c ∧
      (∀ l ∈ c.act, (c.tapeOf (areaOf (taped 2 48 [spanRec] [])) l).isRc = false ∧ (c.tapeOf (areaOf (taped 2 48 [spanRec] [])) l).replay = false ∧
        (c.tapeOf (areaOf (taped 2 48 [spanRec] [])) l).isImplicit = false) ∧ c.lr.tpolFault = false ∧
      (areaOf (taped 2 48 [spanRec] [])).quota < (areaOf (taped 2 48 [spanRec] [])).used + c.entryCharge c.act (c.maskRegs ((c.plain 2 4).val c.low))
        (maskPreds ((c.plain 2 4).val c.low)) false) ∧
    (∀ rc ∈ [true, false], Met (if rc then .tmarkRc (sf 0 4 510) else .tmarkRec (sf 0 4 510)) (sNames (sf 0 4 510) false true) (fun _ c => tapeUsual (areaOf taped0) true c ∧
      (∀ l ∈ c.act, (c.tapeOf (areaOf taped0) l).replay = false) ∧ targetOk c.lr (c.is.addr + 8 * (BitVec.ofNat 20 510).signExtend 64) = true ∧
      let size := c.entryCharge c.act (c.maskRegs ((c.plain 2 4).val c.low)) (maskPreds ((c.plain 2 4).val c.low)) true
      (c.eachTape (areaOf taped0) c.act Tape.close).used + size ≤ (areaOf taped0).quota ∧ c.ringFull (areaOf taped0) size = false ∧ 16 ≤ size)) ∧
    Met (.tend (sf 0 0 0)) (sNames (sf 0 0 0) false false) (fun _ c => tapeUsual (areaOf taped0) false c) ∧
    Met (.tend (sf 0 0 0 g0)) (sNames (sf 0 0 0 g0) false false) (fun _ c => c.s.area? c.lr = some (areaOf taped0) ∧ c.act = []) ∧ spanRec.isOpen = true := by
  refine ⟨?_, ?_, ?_, ?_, ?_, rfl⟩
  · exact meetsD taped0 (fun c => (c.s.area? c.lr = some (areaOf taped0) ∧ c.act ≠ [] ∧ c.recForbidden (areaOf taped0) = false ∧
      (c.act.map fun l => (c.f.thread l).tid).Nodup ∧ (true = true → ((c.plain 2 4).row c.low).poison = false ∧ c.regsPending (c.maskRegs ((c.plain 2 4).val c.low)) = false)) ∧
      (∀ l ∈ c.act, (c.tapeOf (areaOf taped0) l).isRc = false) ∧
      (areaOf taped0).used + c.entryCharge c.act (c.maskRegs ((c.plain 2 4).val c.low)) (maskPreds ((c.plain 2 4).val c.low)) false ≤ (areaOf taped0).quota ∧
      c.ringFull (areaOf taped0) (c.entryCharge c.act (c.maskRegs ((c.plain 2 4).val c.low)) (maskPreds ((c.plain 2 4).val c.low)) false) = false) (fun _ h => h) (by decide)
  · exact meetsD (taped 2 48 [spanRec] []) (fun c => (c.s.area? c.lr = some (areaOf (taped 2 48 [spanRec] [])) ∧ c.act ≠ [] ∧ c.recForbidden (areaOf (taped 2 48 [spanRec] [])) = false ∧
      (c.act.map fun l => (c.f.thread l).tid).Nodup ∧ (true = true → ((c.plain 2 4).row c.low).poison = false ∧ c.regsPending (c.maskRegs ((c.plain 2 4).val c.low)) = false)) ∧
      (∀ l ∈ c.act, (c.tapeOf (areaOf (taped 2 48 [spanRec] [])) l).isRc = false ∧ (c.tapeOf (areaOf (taped 2 48 [spanRec] [])) l).replay = false ∧
        (c.tapeOf (areaOf (taped 2 48 [spanRec] [])) l).isImplicit = false) ∧ c.lr.tpolFault = false ∧
      (areaOf (taped 2 48 [spanRec] [])).quota < (areaOf (taped 2 48 [spanRec] [])).used + c.entryCharge c.act (c.maskRegs ((c.plain 2 4).val c.low))
        (maskPreds ((c.plain 2 4).val c.low)) false) (fun _ h => h) (by decide +kernel)
  · intro rc _
    cases rc <;>
      exact meetsD taped0 (fun c => (c.s.area? c.lr = some (areaOf taped0) ∧ c.act ≠ [] ∧ c.recForbidden (areaOf taped0) = false ∧
      (c.act.map fun l => (c.f.thread l).tid).Nodup ∧ (true = true → ((c.plain 2 4).row c.low).poison = false ∧ c.regsPending (c.maskRegs ((c.plain 2 4).val c.low)) = false)) ∧
      (∀ l ∈ c.act, (c.tapeOf (areaOf taped0) l).replay = false) ∧ targetOk c.lr (c.is.addr + 8 * (BitVec.ofNat 20 510).signExtend 64) = true ∧
      (c.eachTape (areaOf taped0) c.act Tape.close).used + c.entryCharge c.act (c.maskRegs ((c.plain 2 4).val c.low)) (maskPreds ((c.plain 2 4).val c.low)) true ≤ (areaOf taped0).quota ∧
      c.ringFull (areaOf taped0) (c.entryCharge c.act (c.maskRegs ((c.plain 2 4).val c.low)) (maskPreds ((c.plain 2 4).val c.low)) true) = false ∧
      16 ≤ c.entryCharge c.act (c.maskRegs ((c.plain 2 4).val c.low)) (maskPreds ((c.plain 2 4).val c.low)) true) (fun _ h => h) (by decide)
  · exact meetsD taped0 (fun c => c.s.area? c.lr = some (areaOf taped0) ∧ c.act ≠ [] ∧ c.recForbidden (areaOf taped0) = false ∧
      (c.act.map fun l => (c.f.thread l).tid).Nodup) (fun _ h => ⟨h.1, h.2.1, h.2.2.1, h.2.2.2, fun h => by cases h⟩) (by decide)
  · exact meetsD taped0 (fun c => c.s.area? c.lr = some (areaOf taped0) ∧ c.act = []) (fun _ h => h) (by decide)

/-- Pops of a record, of a recompute checkpoint, and of nothing. -/
def popping (sp : List Span) : State := setTeam (taped 1 4096 sp [⟨7, 64, 16⟩]) fun t => { t with ring := [⟨7, 64⟩] }
theorem test_meets_tape_popping :
    (∀ sp ∈ [[spanOne, spanRec], [spanRc], []], Met (.tpop (sf 2 0 0)) (sNames (sf 2 0 0) false false) fun _ c => c.lr.tmode ≠ 0 ∧ c.s.area? c.lr = some (areaOf (popping sp)) ∧
      c.act ≠ [] ∧ (c.act.map fun l => (c.f.thread l).tid).Nodup ∧ ∀ l ∈ c.act, ∀ x, ((areaOf (popping sp)).tape c.t.index (c.f.thread l).tid).pop.2.1 = some x →
        c.t.inRing x.1.entry = true ∧ c.regsPending ((x.1.regs.map (·.1)).filter (· < c.t.nregs c.f)) = false) ∧
    Met (.tpop (sf 2 0 0 g0)) (sNames (sf 2 0 0 g0) false false) (fun _ c => c.lr.tmode ≠ 0 ∧ c.s.area? c.lr = some (areaOf (popping [])) ∧ c.act = []) ∧
    spanRec.recs = [] ∧ spanRec.rc = false ∧ spanRc.recs = [] ∧ spanRc.rc = true ∧ spanRc.ckpt = some ckptRec := by
  refine ⟨?_, meetsD (popping []) (fun c => c.lr.tmode ≠ 0 ∧ c.s.area? c.lr = some (areaOf (popping [])) ∧ c.act = []) (fun _ h => h) (by decide), rfl, rfl, rfl, rfl, rfl⟩
  have k : ∀ sp : List Span, (issuing (.tpop (sf 2 0 0)) (sNames (sf 2 0 0) false false) (popping sp)).any (fun c => decide (c.lr.tmode ≠ 0 ∧
      c.s.area? c.lr = some (areaOf (popping sp)) ∧ c.act ≠ [] ∧ (c.act.map fun l => (c.f.thread l).tid).Nodup ∧
      ∀ l ∈ c.act, (((areaOf (popping sp)).tape c.t.index (c.f.thread l).tid).pop.2.1.all fun x =>
        c.t.inRing x.1.entry && !c.regsPending ((x.1.regs.map (·.1)).filter (· < c.t.nregs c.f))) = true)) = true →
      Met (.tpop (sf 2 0 0)) (sNames (sf 2 0 0) false false) fun _ c => c.lr.tmode ≠ 0 ∧ c.s.area? c.lr = some (areaOf (popping sp)) ∧
      c.act ≠ [] ∧ (c.act.map fun l => (c.f.thread l).tid).Nodup ∧ ∀ l ∈ c.act, ∀ x, ((areaOf (popping sp)).tape c.t.index (c.f.thread l).tid).pop.2.1 = some x →
        c.t.inRing x.1.entry = true ∧ c.regsPending ((x.1.regs.map (·.1)).filter (· < c.t.nregs c.f)) = false := fun sp h =>
    meetsD (popping sp) _ (fun _ h => ⟨h.1, h.2.1, h.2.2.1, h.2.2.2.1, fun l hl x hx => by
      have h := h.2.2.2.2 l hl
      rw [hx] at h
      simpa using h⟩) h
  intro sp hsp
  simp only [List.mem_cons, List.not_mem_nil, or_false] at hsp
  obtain rfl | rfl | rfl := hsp <;> exact k _ (by decide +kernel)

def ringed : State := setTeam (withOp taped0 (opOf (.tapeEntry 7) .async [] false)) fun t => { t with ring := [⟨1, 4095⟩, ⟨2, 1⟩] }
def refilling : State := withOp taped0 (opOf (.tapeRefill 7) .async [] false)
theorem test_meets_tape_ring :
    (∀ i ∈ [Instr.tqueryNext (sf 3 0 0), .tqueryUsed (sf 3 0 0), .tqueryQuota (sf 3 0 0)], Met i (sNames (sf 3 0 0) true false) fun _ c =>
      c.s.area? c.lr = some (areaOf taped0)) ∧
    (∀ s ∈ [ringed, refilling], s.team? 1 = some (team1 s) ∧ (team1 s).fibre? 0 = some (fibre1 s) ∧ ((fibre1 s).op? 9).any (fun o => !o.done) = true) ∧
    ringed.team? 1 = some (team1 ringed) ∧ 4096 ≤ ((team1 ringed).ring.map (·.bytes)).sum := by
  refine ⟨?_, ?_, rfl, by decide⟩
  · intro i hi
    simp only [List.mem_cons, List.not_mem_nil, or_false] at hi
    obtain rfl | rfl | rfl := hi <;> exact meetsD taped0 (fun c => c.s.area? c.lr = some (areaOf taped0)) (fun _ h => h) (by decide)
  · intro s hs
    simp only [List.mem_cons, List.not_mem_nil, or_false] at hs
    obtain rfl | rfl := hs <;> exact ⟨rfl, rfl, by decide⟩

/-- Sixteen words of the launch's target range, the last one included; a value in v8. -/
def scattered : State := setReg (setReg gradable 4 fun l => BitVec.ofNat 64 (vbase + 0x200000 - 128 + 8 * l)) 8 (fun _ => 0x3F800000BF800000) .f32
def added (n : Nat) : State := { scattered with
  adds := [⟨0, 0, 0x100004, 0x3F800000, false, none⟩]
  accs := if n = 0 then [] else [(ScatAcc.fresh 0 0x100004).add 0xBF800000 false] }
theorem test_meets_scatter :
    (∀ p ∈ [((0 : BitVec 4), 4, 0xFFFFC), (1, 8, 0)], Met (.gscat p.1 (mf 0 4 8 0)) (mNames (mf 0 4 8 0) 0 false 1) fun _ c => inOrder c false ∧ c.act ≠ [] ∧
      ∀ l ∈ c.act, c.scatLane (c.src 2 4 0 0) [(c.src 3 8 0 0, some .f32)] (addrOf (c.src 2 4 0 0) none (off20 (mf 0 4 8 0)) l) p.2.1 2 l = .ok (0x200000 - 128 + 8 * l)) ∧
    Met (.gscat 0 (mf 0 4 8 0 g0)) (mNames (mf 0 4 8 0 g0) 0 false 1) (fun _ c => inOrder c false ∧ c.act = []) ∧
    ((added 1).adds[0]? ≠ none ∧ ((added 1).accs.find? fun x => x.launch == 0 && x.target == 0x100004) ≠ none) ∧
    ((added 0).adds[0]? ≠ none ∧ ((added 0).accs.find? fun x => x.launch == 0 && x.target == 0x100004) = none ∧
      ((added 0).accs.countP fun x => unitOf x.target == unitOf 0x100004) < 4096) := by
  refine ⟨?_, meetsD scattered (fun c => c.f.acquiring = false ∧ c.act = []) (fun _ h => ⟨⟨h.1, fun h => by cases h⟩, h.2⟩) (by decide), by decide, by decide⟩
  have k : ∀ (sub : BitVec 4) (n : Nat), (issuing (.gscat sub (mf 0 4 8 0)) (mNames (mf 0 4 8 0) 0 false 1) scattered).any (fun c => decide (c.f.acquiring = false ∧ c.act ≠ [] ∧
      ∀ l ∈ c.act, (match c.scatLane (c.src 2 4 0 0) [(c.src 3 8 0 0, some .f32)] (addrOf (c.src 2 4 0 0) none (off20 (mf 0 4 8 0)) l) n 2 l with
        | .ok y => y == 0x200000 - 128 + 8 * l | .error _ => false) = true)) = true →
      Met (.gscat sub (mf 0 4 8 0)) (mNames (mf 0 4 8 0) 0 false 1) fun _ c => inOrder c false ∧ c.act ≠ [] ∧
      ∀ l ∈ c.act, c.scatLane (c.src 2 4 0 0) [(c.src 3 8 0 0, some .f32)] (addrOf (c.src 2 4 0 0) none (off20 (mf 0 4 8 0)) l) n 2 l = .ok (0x200000 - 128 + 8 * l) := fun sub n h =>
    meetsD scattered _ (fun _ h => ⟨⟨h.1, fun h => by cases h⟩, h.2.1, fun l hl => by
      have h := h.2.2 l hl
      split at h
      · rename_i y hy; rw [hy]; rw [show y = _ from by simpa using h]
      · cases h⟩) h
  intro p hp
  simp only [List.mem_cons, List.not_mem_nil, or_false] at hp
  obtain rfl | rfl := hp <;> exact k _ _ (by decide +kernel)

/-- A target of the launch inside the range of v8 and v9. -/
def flushing (n : Nat) : State := { setReg (setReg gradable 8 fun _ => BitVec.ofNat 64 (vbase + 0x100000)) 9 fun _ => 8 with
  accs := if n = 0 then [] else [(ScatAcc.fresh 0 0x100004).add 0xBF800000 false] }
theorem test_meets_finalisation : ∀ all ∈ [true, false], ∀ n ∈ [0, 1],
    Met (if all then .gflushAll (sf 0 0 0) else .gflush (sf 0 8 0)) (if all then sNames (sf 0 0 0) false false else ⟨group 40 8 2, [], g7⟩) fun s c => c.act ≠ [] ∧
      ((c.plain 2 8).row c.low).poison = false ∧ ((c.plain 2 9).row c.low).poison = false ∧ c.scattering = false ∧ c.s.canPost = true ∧
      ((s.launch? c.t.launch).map (·.spills)) = some [] ∧ (s.ctx c.t.ctx).dying = false ∧
      (s.accs.filter fun y => y.launch == c.t.launch && (all || (c.s.physRange c.t.ctx ((c.plain 2 8).val c.low).toNat ((c.plain 2 9).val c.low).toNat).any fun (q, k) =>
        q ≤ y.target && y.target < q + k)).length = n ∧ s.mem = [(0, 1), (8, 0x1D)] := by
  intro all _ n hn
  simp only [List.mem_cons, List.not_mem_nil, or_false] at hn
  cases all <;> obtain rfl | rfl := hn
  all_goals first
    | exact meetsD (flushing 0) (fun c => c.act ≠ [] ∧ ((c.plain 2 8).row c.low).poison = false ∧ ((c.plain 2 9).row c.low).poison = false ∧ c.scattering = false ∧ c.s.canPost = true ∧
        (((flushing 0).launch? c.t.launch).map (·.spills)) = some [] ∧ ((flushing 0).ctx c.t.ctx).dying = false ∧ True ∧ True)
        (fun _ h => ⟨h.1, h.2.1, h.2.2.1, h.2.2.2.1, h.2.2.2.2.1, h.2.2.2.2.2.1, h.2.2.2.2.2.2.1, rfl, rfl⟩) (by decide)
    | exact meetsD (flushing 1) (fun c => c.act ≠ [] ∧ ((c.plain 2 8).row c.low).poison = false ∧ ((c.plain 2 9).row c.low).poison = false ∧ c.scattering = false ∧ c.s.canPost = true ∧
        (((flushing 1).launch? c.t.launch).map (·.spills)) = some [] ∧ ((flushing 1).ctx c.t.ctx).dying = false ∧
        ((flushing 1).accs.filter fun y => y.launch == c.t.launch && (false || (c.s.physRange c.t.ctx ((c.plain 2 8).val c.low).toNat ((c.plain 2 9).val c.low).toNat).any fun (q, k) =>
        q ≤ y.target && y.target < q + k)).length = 1) (fun _ h => ⟨h.1, h.2.1, h.2.2.1, h.2.2.2.1, h.2.2.2.2.1, h.2.2.2.2.2.1, h.2.2.2.2.2.2.1, h.2.2.2.2.2.2.2, rfl⟩) (by decide +kernel)
    | exact meetsD (flushing 1) (fun c => c.act ≠ [] ∧ ((c.plain 2 8).row c.low).poison = false ∧ ((c.plain 2 9).row c.low).poison = false ∧ c.scattering = false ∧ c.s.canPost = true ∧
        (((flushing 1).launch? c.t.launch).map (·.spills)) = some [] ∧ ((flushing 1).ctx c.t.ctx).dying = false ∧
        ((flushing 1).accs.filter fun y => y.launch == c.t.launch).length = 1) (fun _ h => ⟨h.1, h.2.1, h.2.2.1, h.2.2.2.1, h.2.2.2.2.1, h.2.2.2.2.2.1, h.2.2.2.2.2.2.1,
        by simpa using h.2.2.2.2.2.2.2, rfl⟩) (by decide)

/-! ## Of the rendering statements -/

/-- The nonzero bytes of doublewords that stand one after another. -/
def dws (a : Nat) (l : List Nat) : List Host.Cell :=
  l.zipIdx.flatMap fun (v, k) => (List.range 8).filterMap fun j => let b := v / 2 ^ (8 * j) % 256; if b = 0 then none else some (a + 8 * k + j, BitVec.ofNat 8 b)
def pages : List Host.Cell := [(0, 1), (8, 0x1D)]

def testf : VF := vf 16 4 8 12
theorem test_meets_ray_tests : ∀ p ∈ [(Instr.boxt testf, 8, 128), (.trit 2 testf, 3, 64)], Met p.1 (rNames testf p.2.1 1 3 1) fun _ c => inOrder c false ∧ c.act ≠ [] ∧
    accessOk c ⟨[c.plain 2 4], asF32 (c.grp 3 8 3 ++ c.grp 4 12 1), addrOf (c.plain 2 4) none 0, .read, p.2.2, 2⟩ p.2.2 rowPa := by
  have k : ∀ (i : Instr) (m n : Nat), (issuing i (rNames testf m 1 3 1) dataState).any (fun c => decide (c.f.acquiring = false ∧ c.act ≠ [] ∧
      accessB c ⟨[c.plain 2 4], asF32 (c.grp 3 8 3 ++ c.grp 4 12 1), addrOf (c.plain 2 4) none 0, .read, n, 2⟩ n rowPa = true)) = true →
      Met i (rNames testf m 1 3 1) fun _ c => inOrder c false ∧ c.act ≠ [] ∧
        accessOk c ⟨[c.plain 2 4], asF32 (c.grp 3 8 3 ++ c.grp 4 12 1), addrOf (c.plain 2 4) none 0, .read, n, 2⟩ n rowPa := fun i m n h =>
    meetsD dataState _ (fun _ h => ⟨⟨h.1, fun h => by cases h⟩, h.2.1, accessOk_of h.2.2⟩) h
  intro p hp
  simp only [List.mem_cons, List.not_mem_nil, or_false] at hp
  obtain rfl | rfl := hp <;> exact k _ _ _ (by decide +kernel)

/-- A finite ray, and a finite record. -/
theorem test_meets_exact_rays : (∃ (ray : List FV) (r : List Frac), fracs? ray = some r ∧ r.length = 8 ∧ ∀ x ∈ r, 0 < x.den) ∧
    ∃ (rc : List Byte) (p : List Frac), fracs? ((List.range 9).map fun k => fmtF32.value (leNat ((rc.drop (4 * k)).take 4))) = some p ∧ ∀ x ∈ p, 0 < x.den :=
  ⟨⟨List.replicate 8 (.fin true 3 (-1)), List.replicate 8 ((FV.frac? (.fin true 3 (-1))).getD ⟨0, 1⟩), rfl, rfl, by decide⟩,
    List.replicate 64 0, List.replicate 9 ((FV.frac? (fmtF32.value 0)).getD ⟨0, 1⟩), by decide, by decide⟩

/-- A launch with traversal stacks in its team's scratchpad; depths 0 and 31. -/
def stacked (deep : Bool) : State :=
  let s := setThreads (scratchy false) fun l t => { t with depth := if deep && l % 2 == 1 then 31 else 0 }
  { s with launches := s.launches.map fun (x : Launch) => { x with lrec := { x.lrec with stkOff := 256 } } }
def stackAt (d : Nat) (l : Nat) : Nat := 0x10000 + 256 + 256 * l + 8 * (if l % 2 = 1 then 31 - d else 0)
theorem test_meets_traversal_stacks :
    Met (.spush (vf 0 4 0 0)) (rNames (vf 0 4 0 0) 0 1 0 0) (fun _ c => c.lr.stkOff ≠ 0 ∧ inOrder c false ∧ clean c [(c.plain 2 4, none)] ∧ (∀ l ∈ c.act, c.depth l < 32) ∧ c.act ≠ [] ∧
      accessOk c ⟨[], [], fun l => c.stackVa l (c.depth l), .write, 8, 0⟩ 8 (stackAt 0)) ∧
    Met (.spop (vf 3 0 0 2)) (rNames (vf 3 0 0 2) 1 0 0 0) (fun _ c => c.lr.stkOff ≠ 0 ∧ inOrder c false ∧ (c.act.filter fun l => c.depth l != 0) ≠ [] ∧
      accessOk { c with act := c.act.filter fun l => c.depth l != 0 } ⟨[], [], fun l => c.stackVa l (c.depth l - 1), .read, 8, 0⟩ 8 (stackAt 1)) ∧
    Met (.spop (vf 3 0 0 2)) (rNames (vf 3 0 0 2) 1 0 0 0) (fun _ c => c.lr.stkOff ≠ 0 ∧ inOrder c false ∧ (c.act.filter fun l => c.depth l != 0) = []) ∧
    Met (.spopDepth (vf 3 0 0 0)) (rNames (vf 3 0 0 0) 1 0 0 0) (fun _ c => c.lr.stkOff ≠ 0) ∧ Met (.spopClear (vf 0 0 0 0)) (rNames (vf 0 0 0 0) 0 0 0 0) (fun _ c => c.lr.stkOff ≠ 0) :=
  ⟨meetsD (stacked true) (fun c => c.lr.stkOff ≠ 0 ∧ c.f.acquiring = false ∧ cleanB c [(c.plain 2 4, none)] = true ∧ (∀ l ∈ c.act, c.depth l < 32) ∧ c.act ≠ [] ∧
      accessB c ⟨[], [], fun l => c.stackVa l (c.depth l), .write, 8, 0⟩ 8 (stackAt 0) = true)
      (fun _ h => ⟨h.1, ⟨h.2.1, fun h => by cases h⟩, clean_of h.2.2.1, h.2.2.2.1, h.2.2.2.2.1, accessOk_of h.2.2.2.2.2⟩) (by decide +kernel),
    meetsD (stacked true) (fun c => c.lr.stkOff ≠ 0 ∧ c.f.acquiring = false ∧ (c.act.filter fun l => c.depth l != 0) ≠ [] ∧
      accessB { c with act := c.act.filter fun l => c.depth l != 0 } ⟨[], [], fun l => c.stackVa l (c.depth l - 1), .read, 8, 0⟩ 8 (stackAt 1) = true)
      (fun _ h => ⟨h.1, ⟨h.2.1, fun h => by cases h⟩, h.2.2.1, accessOk_of h.2.2.2⟩) (by decide +kernel),
    meetsD (stacked false) (fun c => c.lr.stkOff ≠ 0 ∧ c.f.acquiring = false ∧ (c.act.filter fun l => c.depth l != 0) = [])
      (fun _ h => ⟨h.1, ⟨h.2.1, fun h => by cases h⟩, h.2.2⟩) (by decide),
    meetsD (stacked false) (fun c => c.lr.stkOff ≠ 0) (fun _ h => h) (by decide), meetsD (stacked false) (fun c => c.lr.stkOff ≠ 0) (fun _ h => h) (by decide)⟩

theorem test_meets_cull : Met (.cull (vf 3 8 4 1)) (rNames (vf 3 8 4 1) 1 6 1 0) (fun _ c => clean c (asF32 (c.grp 2 8 6) ++ untagged [c.plain 3 4]) ∧ c.act ≠ []) ∧
    ∃ (vs : List FV) (l : List Frac), vs.length = 12 ∧ fracs? vs = some l ∧ (∀ x ∈ l, 0 < x.den) ∧ ∃ j < 3, rat (l.getD (4 * j + 3) ⟨0, 1⟩) ≤ 0 :=
  ⟨meetsD base (fun c => cleanB c (asF32 (c.grp 2 8 6) ++ untagged [c.plain 3 4]) = true ∧ c.act ≠ []) (fun _ h => ⟨clean_of h.1, h.2⟩) (by decide),
    List.replicate 12 (.fin false 0 0), List.replicate 12 ((FV.frac? (.fin false 0 0)).getD ⟨0, 1⟩), rfl, rfl, by decide, 0, by decide, by decide +kernel⟩

/-- A 2 by 2 texture of FP32 texels with its descriptor, filtered linearly, and a gradient texture in the launch's target range. -/
def textured : State := setReg { gradable with mem := pages ++ dws 0x21000 [vbase + 0x22000, 2 + 2 * 2 ^ 16 + 2 ^ 32 + 2 * 2 ^ 36 + 2 ^ 40, 0, 0] } 4 fun _ => BitVec.ofNat 64 (vbase + 0x21000)
def texPa (d : TexDesc) (ts : List Tap) : List Nat := ts.map fun t => 0x22000 + d.texelOff t.level t.i t.j
def texOf (c : Ctx) : TexDesc := let ds := (c.s.readPlace (c.s.place 0x21000) 32).1; texDesc (leNat (ds.take 8)) (leNat ((ds.drop 8).take 8))
def foundB (c : Ctx) (n : Nat) (tag : Option Tag) : Bool := accessB c ⟨[c.plain 2 4], (c.grp 3 8 n).map fun x => (x, tag), addrOf (c.plain 2 4) none 0, .read, 32, 2⟩ 32 (fun _ => 0x21000) &&
  !poisAt c.s 0x21000 32 && texDescOk (c.s.readPlace (c.s.place 0x21000) 32).1 && (texOf c).base % 256 == 0 && c.f0.ops.all (fun o => o.kind.answers == [])
def tapsOf (c : Ctx) (g : Bool) (n l : Nat) : List Tap := ((texTaps g (texOf c) (valsAt (c.grp 3 8 n) l)).getD [])
def texelB (c : Ctx) (ts : List Tap) : Bool := (List.zip ts (texPa (texOf c) ts)).all fun (t, x) =>
  (match c.s.check c.who .read ((texOf c).base + (texOf c).texelOff t.level t.i t.j) with | .ok y => y == x | .error _ => false) &&
    (List.range 16).all (fun k => pkgOf (x + k) == c.s.pkg.toNat) && ((c.s.place x).granules (texelSize (texOf c).fmt)).all fun z => !c.s.engineOwned z

theorem test_meets_textures :
    (∀ p ∈ [(Instr.texLod (vf 20 4 8 0), false, 2), (.texGrad (vf 20 4 8 0), true, 3)], Met p.1 (rNames (vf 20 4 8 0) 2 1 p.2.2 0) fun _ c => inOrder c false ∧ c.act ≠ [] ∧
      foundB c p.2.2 (some .f32) = true ∧ ∀ l ∈ c.act, texelB c ((tapsOf c p.2.1 p.2.2 l).filter fun t => t.wt.num != 0) = true) ∧
    ∀ p ∈ [(Instr.texqSize (vf 20 4 8 0), 1, (none : Option Tag)), (.texqLod (vf 20 4 8 0), 3, some .f32)], Met p.1 (rNames (vf 20 4 8 0) 1 1 p.2.1 0) fun _ c =>
      inOrder c false ∧ c.act ≠ [] ∧ foundB c p.2.1 p.2.2 = true := by
  constructor
  · have k : ∀ (i : Instr) (g : Bool) (n : Nat), (issuing i (rNames (vf 20 4 8 0) 2 1 n 0) textured).any (fun c => decide (c.f.acquiring = false ∧ c.act ≠ [] ∧
      foundB c n (some .f32) = true ∧ ∀ l ∈ c.act, texelB c ((tapsOf c g n l).filter fun t => t.wt.num != 0) = true)) = true → Met i (rNames (vf 20 4 8 0) 2 1 n 0) fun _ c =>
      inOrder c false ∧ c.act ≠ [] ∧ foundB c n (some .f32) = true ∧ ∀ l ∈ c.act, texelB c ((tapsOf c g n l).filter fun t => t.wt.num != 0) = true := fun i g n h =>
      meetsD textured _ (fun _ h => ⟨⟨h.1, fun h => by cases h⟩, h.2⟩) h
    intro p hp
    simp only [List.mem_cons, List.not_mem_nil, or_false] at hp
    obtain rfl | rfl := hp <;> exact k _ _ _ (by decide +kernel)
  · have k : ∀ (i : Instr) (n : Nat) (t : Option Tag), (issuing i (rNames (vf 20 4 8 0) 1 1 n 0) textured).any (fun c => decide (c.f.acquiring = false ∧ c.act ≠ [] ∧
      foundB c n t = true)) = true → Met i (rNames (vf 20 4 8 0) 1 1 n 0) fun _ c => inOrder c false ∧ c.act ≠ [] ∧ foundB c n t = true := fun i n t h =>
      meetsD textured _ (fun _ h => ⟨⟨h.1, fun h => by cases h⟩, h.2⟩) h
    intro p hp
    simp only [List.mem_cons, List.not_mem_nil, or_false] at hp
    obtain rfl | rfl := hp <;> exact k _ _ _ (by decide +kernel)

theorem test_meets_texels : ∃ (d : TexDesc) (ts : List Tap), 1 ≤ d.w ∧ 1 ≤ d.h ∧ d.levels = 15 ∧ d.filter < 3 ∧ d.addrU < 3 ∧ d.addrV < 3 ∧ texTaps false d [0, 0] = some ts ∧
    ts.length = 4 ∧ (0 < d.wl 14 ∧ 0 < d.hl 14) ∧ (1, 0) ≠ ((0, 0) : Nat × Nat) ∧ 1 < d.wl 0 :=
  ⟨⟨0, 16384, 16384, 15, 2, 1, 0, 0⟩, (texTaps false ⟨0, 16384, 16384, 15, 2, 1, 0, 0⟩ [0, 0]).getD [], by decide, by decide, rfl, by decide, by decide, by decide,
    by decide +kernel, by decide +kernel, by decide, by decide, by decide⟩

theorem test_meets_triadj : Met (.triadj (vf 40 4 8 16)) (rNames (vf 40 4 8 16) 8 3 5 2) (fun _ c => clean c (asF32 (c.grp 2 4 3 ++ c.grp 3 8 5 ++ c.grp 4 16 2)) ∧ c.act ≠ []) ∧
    (∃ vs : List FV, fracs? (vs.take 9) = none) ∧
    ∃ (ray vs gs : List FV) (r p g : List Frac), fracs? ray = some r ∧ fracs? (vs.take 9) = some p ∧ fracs? (gs.take 3) = some g ∧
      (meet (v3At r 0) (v3At r 3) (v3At p 0) (v3At p 3) (v3At p 6)).det.num ≠ 0 := by
  refine ⟨meetsD base (fun c => cleanB c (asF32 (c.grp 2 4 3 ++ c.grp 3 8 5 ++ c.grp 4 16 2)) = true ∧ c.act ≠ []) (fun _ h => ⟨clean_of h.1, h.2⟩) (by decide),
    ⟨[.nan], rfl⟩, [0, 0, 1, 0, 0, 1].map (fun x => .fin true x 0), [0, 0, 0, 1, 0, 0, 0, 1, 0].map (fun x => .fin false x 0), List.replicate 3 (.fin false 1 0),
    [0, 0, 1, 0, 0, 1].map (fun x => ((FV.frac? (.fin true x 0)).getD ⟨0, 1⟩)), [0, 0, 0, 1, 0, 0, 0, 1, 0].map (fun x => ((FV.frac? (.fin false x 0)).getD ⟨0, 1⟩)),
    List.replicate 3 ((FV.frac? (.fin false 1 0)).getD ⟨0, 1⟩), rfl, rfl, rfl, by decide⟩

/-- An edge queue of 64 records with `n` records in it. -/
def edged (n : Nat) : State := { setReg base 4 fun _ => BitVec.ofNat 64 (vbase + 0x21000) with
  mem := pages ++ dws 0x21000 [vbase + 0x22000, 64 + 3 * 2 ^ 32 + 2 ^ 40, 60, 60 + n, 60 + n] }
def edgePa (c : Ctx) (k : Nat) : Nat := match c.edgeQueue (c.plain 2 4) with | .ok (_, q) => 0x22000 + (q.head + k) % q.cap * 64 | .error _ => 0
def edgeB (c : Ctx) (n : Nat) : Bool := match c.edgeQueue (c.plain 2 4) with
  | .error _ => false
  | .ok (pa, q) => min (q.commit - q.head) c.act.length == n &&
    ((c.act.take n).zipIdx.all fun (l, k) => (match c.s.check c.who .read (q.base + (q.head + k) % q.cap * 64) with | .ok y => y == edgePa c l | .error _ => false) &&
      (List.range 64).all fun j => pkgOf (edgePa c l + j) == c.s.pkg.toNat) &&
    ((pa :: (c.act.take n).map (edgePa c)).all fun x => ((c.s.place x).granules 64).all fun g => !c.s.engineOwned g)
/-- `edgeq` with no record, with fewer than there are lanes, past the end of the ring, and with as many. -/
theorem test_meets_edges : ∀ n ∈ [0, 5, 16], Met (.edgeq (vf 40 4 0 2)) (rNames (vf 40 4 0 2) 8 1 0 0) fun _ c => inOrder c false ∧ c.act ≠ [] ∧
    ((c.plain 2 4).row c.low).poison = false ∧ edgeB c n = true := by
  have k : ∀ n, (issuing (.edgeq (vf 40 4 0 2)) (rNames (vf 40 4 0 2) 8 1 0 0) (edged n)).any (fun c => decide (c.f.acquiring = false ∧ c.act ≠ [] ∧
    ((c.plain 2 4).row c.low).poison = false ∧ edgeB c n = true)) = true → Met (.edgeq (vf 40 4 0 2)) (rNames (vf 40 4 0 2) 8 1 0 0) fun _ c => inOrder c false ∧ c.act ≠ [] ∧
    ((c.plain 2 4).row c.low).poison = false ∧ edgeB c n = true := fun n h => meetsD (edged n) _ (fun _ h => ⟨⟨h.1, fun h => by cases h⟩, h.2⟩) h
  intro n hn
  simp only [List.mem_cons, List.not_mem_nil, or_false] at hn
  obtain rfl | rfl | rfl := hn <;> exact k _ (by decide +kernel)

/-- `texadj` of lane 15 alone: its texels are read, and the words of its gradient texture are in the target range. -/
def adjoined : State := setThreads (setReg textured 5 fun _ => BitVec.ofNat 64 (vbase + 0x100000)) fun l t => { t with preds := if l = 15 then 1 else 0 }
def adjB (c : Ctx) (g : Bool) (n l : Nat) : Bool :=
  let ts := tapsOf c g n l
  foundB c n (some .f32) && texelB c ts && cleanB c ((c.plain 2 5, none) :: asF32 (c.grp 3 8 n ++ c.grp 4 16 2)) &&
    (texadjScatter (texOf c) ((c.plain 2 5).val l) (f32s (valsAt (c.grp 4 16 2) l)) ts).all fun y =>
      y.1 % 4 == 0 && (match c.s.scatCheck c.who c.lr y.1 4 with | .ok _ => true | .error _ => false)
theorem test_meets_texture_adjoint : ∀ g ∈ [false, true], Met (if g then .texadjGrad (vf 20 4 8 16 0 g0) else .texadjLod (vf 20 4 8 16 0 g0))
    (rNames (vf 20 4 8 16 0 g0) 1 2 (if g then 3 else 2) 2) fun _ c => inOrder c false ∧ c.act = [15] ∧ adjB c g (if g then 3 else 2) 15 = true := by
  intro g _
  cases g <;> exact meetsD adjoined (fun c => c.f.acquiring = false ∧ c.act = [15] ∧ adjB c _ _ 15 = true) (fun _ h => ⟨⟨h.1, fun h => by cases h⟩, h.2⟩) (by decide +kernel)

/-! ## Of the statements on the rasteriser, queues and messages -/

/-- A pixel queue, an edge queue and a viewport block for all lanes. -/
def rastering : State := { setReg base 4 fun _ => BitVec.ofNat 64 (vbase + 0x21000) with
  mem := pages ++ dws 0x21000 [vbase + 0x22000, vbase + 0x22100, 16 + 9 * 2 ^ 16] ++ dws 0x22000 [vbase + 0x30000, 64 + 2 * 2 ^ 32] ++
    dws 0x22100 [vbase + 0x40000, 64 + 3 * 2 ^ 32 + 2 ^ 40] }
def okL (e : Except LaneFail Unit) : Bool := match e with | .ok _ => true | .error _ => false
def rasterOk (c : Ctx) : Bool :=
  let ranges := c.act.flatMap fun l => c.s.pieces c.t.ctx ((c.plain 4 4).val l).toNat 32
  (c.act.all fun l => okL (c.blockLane (asF32 (c.grp 2 8 6) ++ untagged [c.plain 3 14]) (c.plain 4 4) l)) && okU (c.granuleCheck (ranges.map fun x => (c.s.place x.1, x.2))) &&
    (match c.needNow (.exptri (vf 0 8 14 4)) ranges with
      | .ok rd => c.act.all fun l => (match c.triLane rd (c.grp 2 8 6) (c.plain 3 14) (c.plain 4 4) l with | .ok t => t.vpw == 16 && t.vph == 9 | .error _ => false)
      | .error _ => false)
def aTri : Tri := ⟨0, 0, List.replicate 6 0, 0, 0, 0, 16, 9⟩
def buffered : State := (base.modCore 0 fun x => { x with rasterWait := [⟨⟨1, 0⟩, 9, [aTri, aTri]⟩], rasterIn := List.replicate 15 aTri })
def turned : State := { buffered.modCluster 0 fun x => { x with rasterNext := 3 } with cores := (buffered.modCore 3 fun x => { x with rasterIn := [] }).cores }
theorem test_meets_rasteriser :
    Met (.exptri (vf 0 8 14 4)) (rNames (vf 0 8 14 4) 0 6 1 1) (fun s c => inOrder c false ∧ c.act ≠ [] ∧ (c.s.core c.core).rasterIn.length < 16 ∧ c.core < s.cores.length ∧
      (c.s.core c.core).rasterWait = [] ∧ rasterOk c = true) ∧
    (∃ b : TriBatch, (buffered.core 0).rasterWait = [b] ∧ b.tris = [aTri, aTri] ∧ (buffered.core 0).rasterIn.length < 16) ∧
    ((turned.cluster 0).raster = [] ∧ (turned.core 0).rasterIn ≠ [] ∧ 0 < turned.clusters.length ∧
      ∀ i < 4, ((turned.cluster 0).rasterNext + i) % 4 = 0 → ∀ i' < i, (turned.core (4 * 0 + ((turned.cluster 0).rasterNext + i') % 4)).rasterIn = []) :=
  ⟨meetsD rastering (fun c => c.f.acquiring = false ∧ c.act ≠ [] ∧ (c.s.core c.core).rasterIn.length < 16 ∧ c.core < rastering.cores.length ∧
      (c.s.core c.core).rasterWait.isEmpty = true ∧ rasterOk c = true)
      (fun _ h => ⟨⟨h.1, fun h => by cases h⟩, h.2.1, h.2.2.1, h.2.2.2.1, List.isEmpty_iff.mp h.2.2.2.2.1, h.2.2.2.2.2⟩) (by decide +kernel),
    ⟨⟨⟨1, 0⟩, 9, [aTri, aTri]⟩, rfl, rfl, by decide⟩, by decide⟩

theorem test_meets_coverage : aTri.vpw ≤ 16384 ∧ aTri.vph ≤ 16384 ∧
    polyArea [⟨(0, 0), none, none⟩, ⟨(512, 0), none, none⟩, ⟨(0, 512), none, none⟩] ≠ 0 ∧
    ∀ g ∈ segments [⟨(0, 0), none, none⟩, ⟨(512, 0), none, none⟩, ⟨(0, 512), none, none⟩], onSeg g (128, 128) = false := by decide

/-- A queue of 64 items of one doubleword with `n` items in it. -/
def queued (n : Nat) : State := { setReg base 4 fun _ => BitVec.ofNat 64 (vbase + 0x21000) with mem := pages ++ dws 0x21000 [vbase + 0x22000, 64, 0, n, n] }
def qpf : MF := { mf 0 4 8 0 with la := 15 }
def qpB (c : Ctx) (sub : BitVec 4) (has : Bool) : Bool := cleanB c (untagged (c.grp 3 8 (2 ^ sub.toNat))) &&
  match c.s.queueCheck c.who ((c.src 2 4 0 0).val c.low).toNat 0 sub.toNat with
  | .error _ => false
  | .ok (pa, q) => ((c.s.place pa).granules 64).all (fun g => !c.s.engineOwned g) && decide (has = true ↔ c.act.length ≤ q.cap - (q.tail - q.head)) &&
    (!has || ((((c.s.newId.2.cacheAll c.t.ctx [((c.src 2 4 0 0).val c.low).toNat]).addOp c.r [.st] (.queue c.s.fresh) qpf.la.toNat [] [] []).2).reserve c.t.ctx c.core pa q
      (c.act.map (itemOf (c.grp 3 8 (2 ^ sub.toNat)))) (some (c.r, c.s.fresh + 1))).isSome)
/-- A reservation due, and a group of all lanes parked at a `qpush`. -/
def reserved : State := { queued 0 with reservs := [⟨5, 0x21000, 0, 1, none⟩] }
def parkedPush : State := withOp (setThreads (queued 48) fun _ t => { t with st := .parked (.queue (BitVec.ofNat 64 (vbase + 0x21000)) 8) (.qpush 0 qpf) 0 })
  (opOf (.queue 8) .async [] false)
/-- Sixteen items into sixteen free places, and into fifteen; a reservation at COMMIT; a parked group; and the queries. -/
theorem test_meets_queues :
    (∀ p ∈ [(48, true), (49, false)], Met (.qpush 0 qpf) (qpushNames 0 qpf) fun _ c => inOrder c false ∧ c.act ≠ [] ∧ ((c.src 2 4 0 0).row c.low).poison = false ∧ qpB c 0 p.2 = true) ∧
    ((reserved.qdesc 0x21000).commit = 0 ∧ reserved.itemsWritten ⟨5, 0x21000, 0, 1, none⟩ = true ∧ memWf reserved ∧ ∀ j < 64, pkgOf (0x21000 + j) = reserved.pkg.toNat) ∧
    (∃ g ∈ (fibre1 parkedPush).parkGroups, parkedPush.unparkQpush ⟨1, 0⟩ (team1 parkedPush) (fibre1 parkedPush) g ≠ none) ∧
    ((queued 0).newId.2.setQ 0x21000 3 1).isFar (((queued 0).newId.2.setQ 0x21000 3 1).pa 0 (vbase + 0x22000)) = false ∧
    (∀ i ∈ [Instr.qinfoFill (sf 3 4 0), .qinfoSpace (sf 3 4 0)], Met i (sNames (sf 3 4 0) true true) fun _ c => inOrder c false ∧
      (∀ l ∈ c.act, ∀ j < 64, pkgOf (0x21000 + j) = c.s.pkg.toNat) ∧ c.f0.ops.all (fun o => o.kind.answers == []) = true ∧
      accessOk c ⟨[c.plain 2 4], [], addrOf (c.plain 2 4) none 0, .read, 64, 2⟩ 64 fun _ => 0x21000) ∧
    Met (.qinfoRange (sf 6 0 0)) ⟨group 46 6 2, [], g7⟩ fun _ c => c.act ≠ [] := by
  refine ⟨?_, ⟨by decide +kernel, rfl, memWf_of (pages ++ dws 0x21000 [vbase + 0x22000, 64, 0, 0, 0]) (by decide +kernel) _ rfl rfl rfl, by decide⟩, ?_, by decide +kernel, ?_,
    meetsD base (fun c => c.act ≠ []) (fun _ h => h) (by decide)⟩
  · have k : ∀ n b, (issuing (.qpush 0 qpf) (qpushNames 0 qpf) (queued n)).any (fun c => decide (c.f.acquiring = false ∧ c.act ≠ [] ∧ ((c.src 2 4 0 0).row c.low).poison = false ∧
      qpB c 0 b = true)) = true → Met (.qpush 0 qpf) (qpushNames 0 qpf) fun _ c => inOrder c false ∧ c.act ≠ [] ∧ ((c.src 2 4 0 0).row c.low).poison = false ∧ qpB c 0 b = true :=
      fun n b h => meetsD (queued n) _ (fun _ h => ⟨⟨h.1, fun h => by cases h⟩, h.2⟩) h
    intro p hp
    simp only [List.mem_cons, List.not_mem_nil, or_false] at hp
    obtain rfl | rfl := hp
    · exact k 48 true (by decide +kernel)
    · exact k 49 false (by decide +kernel)
  · have k : ((fibre1 parkedPush).parkGroups.any fun g => (parkedPush.unparkQpush ⟨1, 0⟩ (team1 parkedPush) (fibre1 parkedPush) g).isSome) = true := by decide +kernel
    obtain ⟨g, hg, h⟩ := List.any_eq_true.mp k
    exact ⟨g, hg, by intro h0; rw [h0] at h; cases h⟩
  · intro i hi
    simp only [List.mem_cons, List.not_mem_nil, or_false] at hi
    obtain rfl | rfl := hi <;> exact meetsD (queued 5) (fun c => c.f.acquiring = false ∧ (∀ l ∈ c.act, ∀ j < 64, pkgOf (0x21000 + j) = c.s.pkg.toNat) ∧
      c.f0.ops.all (fun o => o.kind.answers == []) = true ∧ accessB c ⟨[c.plain 2 4], [], addrOf (c.plain 2 4) none 0, .read, 64, 2⟩ 64 (fun _ => 0x21000) = true)
      (fun _ h => ⟨⟨h.1, fun h => by cases h⟩, h.2.1, h.2.2.1, accessOk_of h.2.2.2⟩) (by decide +kernel)

/-- A launch that may use queue 15, holding n messages. -/
def aMsg : Msg := ⟨0, 0, 7, 16, 16, List.replicate 16 (some (.zero)), false⟩
def messaged (n : Nat) : State := { base.modCluster 0 fun x => { x with queues := x.queues.modify 15 fun q => { q with msgs := List.replicate n aMsg } } with
  launches := base.launches.map fun (x : Launch) => { x with lrec := { x.lrec with qmask := 0x8000 } } }
def msgf (c : Nat) : VF := vf 0 4 8 c
def mrf (c : Nat) : VF := vf 6 0 0 c
def parkedMsg (n : Nat) (i : Instr) : State := withOp (setThreads (messaged n) fun _ t => { t with st := .parked (.message 8) i 0 }) (opOf (.message 8) .async [] false)
def msgOk (s : State) (c : Ctx) : Prop := c.lr.qmask.getLsbD 15 = true ∧ c.core / 4 < s.clusters.length ∧ 15 < (c.s.cluster (c.core / 4)).queues.length ∧ c.act ≠ []
/-- Sends into a queue with room and a full one, receipts from an empty queue and one with a message, by the `.nb` forms and the others. -/
theorem test_meets_messages :
    (∀ nb ∈ [0, 10], ∀ n ∈ [7, 8], Met (.msnd 15 (msgf nb)) (rNames (msgf nb) 0 1 1 0) fun s c => msgOk s c ∧ ((c.plain 3 8).row c.low).poison = false ∧
      (c.s.msgQueue (c.core / 4) 15).msgs.length = n) ∧
    (∀ nb ∈ [2, 10], ∀ n ∈ [0, 1], Met (.mrcv 15 (mrf nb)) ⟨group 46 6 2, [], g7⟩ fun s c => msgOk s c ∧ (c.s.msgQueue (c.core / 4) 15).msgs.length = n) ∧
    (∃ g v, (fibre1 (parkedMsg 7 (.msnd 15 (msgf 0)))).senders.filter (fun x => ((parkedMsg 7 (.msnd 15 (msgf 0))).msgQueue 0 x.2.1).msgs.length < 8) = [(g, 15, v)]) ∧
    (parkedMsg 7 (.msnd 15 (msgf 0))).portTurn 0 = true ∧
    (∃ g v, (fibre1 (parkedMsg 1 (.mrcv 15 (mrf 2)))).receivers.filter (fun y => !((parkedMsg 1 (.mrcv 15 (mrf 2))).msgQueue 0 y.2.1).msgs.isEmpty) = [(g, 15, v)]) ∧
    ((parkedMsg 1 (.mrcv 15 (mrf 2))).msgQueue 0 15).msgs = [aMsg] := by
  refine ⟨?_, ?_, ⟨⟨8, 0, List.range 16, .msnd 15 (msgf 0)⟩, msgf 0, ?_⟩, by decide +kernel, ⟨⟨8, 0, List.range 16, .mrcv 15 (mrf 2)⟩, mrf 2, ?_⟩, rfl⟩
  · intro nb hb n hn
    simp only [List.mem_cons, List.not_mem_nil, or_false] at hb hn
    obtain rfl | rfl := hn
    · obtain rfl | rfl := hb <;> exact meetsD (messaged 7) (fun c => (c.lr.qmask.getLsbD 15 = true ∧ c.core / 4 < (messaged 7).clusters.length ∧
        15 < (c.s.cluster (c.core / 4)).queues.length ∧ c.act ≠ []) ∧ ((c.plain 3 8).row c.low).poison = false ∧ (c.s.msgQueue (c.core / 4) 15).msgs.length = 7) (fun _ h => h) (by decide)
    · obtain rfl | rfl := hb <;> exact meetsD (messaged 8) (fun c => (c.lr.qmask.getLsbD 15 = true ∧ c.core / 4 < (messaged 8).clusters.length ∧
        15 < (c.s.cluster (c.core / 4)).queues.length ∧ c.act ≠ []) ∧ ((c.plain 3 8).row c.low).poison = false ∧ (c.s.msgQueue (c.core / 4) 15).msgs.length = 8) (fun _ h => h) (by decide)
  · intro nb hb n hn
    simp only [List.mem_cons, List.not_mem_nil, or_false] at hb hn
    obtain rfl | rfl := hn
    · obtain rfl | rfl := hb <;> exact meetsD (messaged 0) (fun c => (c.lr.qmask.getLsbD 15 = true ∧ c.core / 4 < (messaged 0).clusters.length ∧
        15 < (c.s.cluster (c.core / 4)).queues.length ∧ c.act ≠ []) ∧ (c.s.msgQueue (c.core / 4) 15).msgs.length = 0) (fun _ h => h) (by decide)
    · obtain rfl | rfl := hb <;> exact meetsD (messaged 1) (fun c => (c.lr.qmask.getLsbD 15 = true ∧ c.core / 4 < (messaged 1).clusters.length ∧
        15 < (c.s.cluster (c.core / 4)).queues.length ∧ c.act ≠ []) ∧ (c.s.msgQueue (c.core / 4) 15).msgs.length = 1) (fun _ h => h) (by decide)
  · exact rfl
  · exact rfl

/-! ## Of the system, clause and landing statements -/

def inHandler : State := setFibre (setThreads base fun l t => { t with preds := if l < 8 then 1 else 0 }) fun f => { f with
  handler := some ⟨0, 0xFFFF⟩, tpc := 8, tmask := 0x8001 }
def untrapped (c : Ctx) : Prop := c.f0.handler = none ∧ targetOk c.lr c.f0.tvec = true ∧ c.f0.ops.any Op.isWindow = false
theorem test_meets_special_registers :
    (∀ n ∈ [0, 0x13], Met (.sget (sf 3 0 n)) (sNames (sf 3 0 n) true false) fun _ c => c.act ≠ []) ∧
    (∀ n ∈ [0x0C, 0x0D, 0x0E], Met (.sset (sf 0 4 n)) (sNames (sf 0 4 n) false true) fun _ c => c.act ≠ [] ∧ ((c.plain 2 4).row c.low).poison = false ∧
      clean c [(c.plain 2 4, none)]) ∧
    (∀ n ∈ [0x10, 0x11], Met (.sset (sf 0 4 n)) (sNames (sf 0 4 n) false true) fun _ c => c.act ≠ [] ∧ ((c.plain 2 4).row c.low).poison = false ∧ c.f.handler.isSome = true) ∧
    (∀ n ∈ [0x10, 0x0F], Met (.sset (sf 0 4 n)) (sNames (sf 0 4 n) false true) fun _ c => untrapped c ∧ c.f.handler = none) := by
  refine ⟨?_, ?_, ?_, ?_⟩ <;> intro n hn <;> simp only [List.mem_cons, List.not_mem_nil, or_false] at hn
  · obtain rfl | rfl := hn <;> exact meetsD base (fun c => c.act ≠ []) (fun _ h => h) (by decide)
  · obtain rfl | rfl | rfl := hn <;> exact meetsD base (fun c => c.act ≠ [] ∧ ((c.plain 2 4).row c.low).poison = false ∧ cleanB c [(c.plain 2 4, none)] = true)
      (fun _ h => ⟨h.1, h.2.1, clean_of h.2.2⟩) (by decide)
  · obtain rfl | rfl := hn <;> exact meetsD inHandler (fun c => c.act ≠ [] ∧ ((c.plain 2 4).row c.low).poison = false ∧ c.f.handler.isSome = true) (fun _ h => h) (by decide)
  · obtain rfl | rfl := hn <;> exact meetsD base (fun c => (c.f0.handler = none ∧ targetOk c.lr c.f0.tvec = true ∧ c.f0.ops.any Op.isWindow = false) ∧ c.f.handler = none)
      (fun _ h => h) (by decide)

/-- `trap` and `brk` that enter the handler, terminate the context, and do nothing. -/
theorem test_meets_trap_and_break : ∀ i ∈ [Instr.trap (sf 0 0 0xFFFFF), .brk (sf 0 0 0xFFFFF)],
    Met i (sNames (sf 0 0 0xFFFFF) false false) (fun _ c => c.act ≠ [] ∧ untrapped c) ∧
    Met i (sNames (sf 0 0 0xFFFFF) false false) (fun s c => c.act ≠ [] ∧ c.f0.handler.isSome = true ∧ c.f0.mustWait = false ∧ s.canPost = true ∧ (s.ctx c.t.ctx).dying = false ∧
      c.t.ctx < s.ctxs.length) := by
  intro i hi
  simp only [List.mem_cons, List.not_mem_nil, or_false] at hi
  obtain rfl | rfl := hi <;>
    exact ⟨meetsD base (fun c => c.act ≠ [] ∧ (c.f0.handler = none ∧ targetOk c.lr c.f0.tvec = true ∧ c.f0.ops.any Op.isWindow = false)) (fun _ h => h) (by decide),
      meetsD inHandler (fun c => c.act ≠ [] ∧ c.f0.handler.isSome = true ∧ c.f0.mustWait = false ∧ inHandler.canPost = true ∧ (inHandler.ctx c.t.ctx).dying = false ∧
      c.t.ctx < inHandler.ctxs.length) (fun _ h => h) (by decide)⟩

def systemCtx : State := { base with ctxs := base.ctxs.modify 0 fun x => { x with sys := true } }
theorem test_meets_system :
    Met (.tinv (sf 3 0 3)) (sNames (sf 3 0 3) true false) (fun _ c => c.act ≠ []) ∧
    Met (.copInv (sf 0 4 0)) (sNames (sf 0 4 0) false true) (fun s c => c.act ≠ [] ∧ (s.ctx c.t.ctx).sys = true ∧ ((c.plain 2 4).row c.low).poison = false) ∧
    Met (.copInvall (sf 0 0 0)) (sNames (sf 0 0 0) false false) (fun s c => c.act ≠ [] ∧ (s.ctx c.t.ctx).sys = true) ∧
    Met (.copInv (sf 0 4 0)) (sNames (sf 0 4 0) false true) (fun s c => c.act ≠ [] ∧ (s.ctx c.t.ctx).sys = false ∧ untrapped c) ∧
    Met (.copInvall (sf 0 0 0)) (sNames (sf 0 0 0) false false) (fun s c => c.act ≠ [] ∧ (s.ctx c.t.ctx).sys = false ∧ untrapped c) ∧
    Met (.halt (sf 0 4 0)) (sNames (sf 0 4 0) false true) (fun s c => c.act ≠ [] ∧ ((c.plain 2 4).row c.low).poison = false ∧ s.canPost = true ∧ (s.ctx c.t.ctx).dying = false ∧
      c.t.ctx < s.ctxs.length) :=
  ⟨meetsD base (fun c => c.act ≠ []) (fun _ h => h) (by decide),
    meetsD systemCtx (fun c => c.act ≠ [] ∧ (systemCtx.ctx c.t.ctx).sys = true ∧ ((c.plain 2 4).row c.low).poison = false) (fun _ h => h) (by decide),
    meetsD systemCtx (fun c => c.act ≠ [] ∧ (systemCtx.ctx c.t.ctx).sys = true) (fun _ h => h) (by decide),
    meetsD base (fun c => c.act ≠ [] ∧ (base.ctx c.t.ctx).sys = false ∧ (c.f0.handler = none ∧ targetOk c.lr c.f0.tvec = true ∧ c.f0.ops.any Op.isWindow = false)) (fun _ h => h) (by decide),
    meetsD base (fun c => c.act ≠ [] ∧ (base.ctx c.t.ctx).sys = false ∧ (c.f0.handler = none ∧ targetOk c.lr c.f0.tvec = true ∧ c.f0.ops.any Op.isWindow = false)) (fun _ h => h) (by decide),
    meetsD base (fun c => c.act ≠ [] ∧ ((c.plain 2 4).row c.low).poison = false ∧ base.canPost = true ∧ (base.ctx c.t.ctx).dying = false ∧ c.t.ctx < base.ctxs.length)
      (fun _ h => h) (by decide)⟩

/-- `tret` of the whole path into the stopped clause, and of half of it; and outside the handler. -/
theorem test_meets_handler_returns :
    Met (.tret (sf 0 0 0)) (sNames (sf 0 0 0) false false) (fun s c => c.act ≠ [] ∧ c.f.handler = some ⟨0, 0xFFFF⟩ ∧ s.canPost = true ∧ (∀ l ∈ c.bundle, (0xFFFF : Word).getLsbD l = true) ∧
      s.filedFrom c.r = [] ∧ (∀ l ∈ c.live, l ∈ c.act) ∧ c.f.tpc.toNat % 8 = 0 ∧ 0 < c.f.tpc.toNat ∧ c.f.tpc.toNat ≤ 8) ∧
    Met (.tret (sf 0 0 0 g0)) (sNames (sf 0 0 0 g0) false false) (fun s c => c.act ≠ [] ∧ c.f.handler = some ⟨0, 0xFFFF⟩ ∧ s.canPost = true ∧ (∀ l ∈ c.bundle, (0xFFFF : Word).getLsbD l = true) ∧
      s.filedFrom c.r = [] ∧ (∀ l ∈ c.live, l ∉ c.act → (c.f.thread l).atRendezvous = none) ∧ ∃ l ∈ c.live, (0xFFFF : Word).getLsbD l = true ∧ l ∉ c.act) ∧
    Met (.tret (sf 0 0 0)) (sNames (sf 0 0 0) false false) (fun _ c => c.act ≠ [] ∧ c.f.handler = none ∧ untrapped c) :=
  ⟨meetsD inHandler (fun c => c.act ≠ [] ∧ c.f.handler = some ⟨0, 0xFFFF⟩ ∧ inHandler.canPost = true ∧ (∀ l ∈ c.bundle, (0xFFFF : Word).getLsbD l = true) ∧
      (inHandler.filedFrom c.r).isEmpty = true ∧ (∀ l ∈ c.live, l ∈ c.act) ∧ c.f.tpc.toNat % 8 = 0 ∧ 0 < c.f.tpc.toNat ∧ c.f.tpc.toNat ≤ 8)
      (fun _ h => ⟨h.1, h.2.1, h.2.2.1, h.2.2.2.1, List.isEmpty_iff.mp h.2.2.2.2.1, h.2.2.2.2.2⟩) (by decide +kernel),
    meetsD inHandler (fun c => c.act ≠ [] ∧ c.f.handler = some ⟨0, 0xFFFF⟩ ∧ inHandler.canPost = true ∧ (∀ l ∈ c.bundle, (0xFFFF : Word).getLsbD l = true) ∧
      (inHandler.filedFrom c.r).isEmpty = true ∧ (∀ l ∈ c.live, l ∉ c.act → (c.f.thread l).atRendezvous = none) ∧ ∃ l ∈ c.live, (0xFFFF : Word).getLsbD l = true ∧ l ∉ c.act)
      (fun _ h => ⟨h.1, h.2.1, h.2.2.1, h.2.2.2.1, List.isEmpty_iff.mp h.2.2.2.2.1, h.2.2.2.2.2⟩) (by decide +kernel),
    meetsD base (fun c => c.act ≠ [] ∧ c.f.handler = none ∧ (c.f0.handler = none ∧ targetOk c.lr c.f0.tvec = true ∧ c.f0.ops.any Op.isWindow = false)) (fun _ h => h) (by decide)⟩

/-- A fibre whose sixteen threads stand at a clause of the header given, fetched, after n issues; with a load outstanding. -/
def standing (hdr n : Nat) (fetched : Bool) : State :=
  let s := setFibre base fun f => { f with
    issue := none, fetched := fetched, issues := n, tvec := BitVec.ofNat 64 (vbase + 0x1000), ops := [opOf .load .async [] false]
    threads := f.threads.map fun t => { t with st := .waiting, pc := BitVec.ofNat 64 (vbase + 0x1000), clause := none } }
  { s with
    mem := pages ++ dws 0x1000 [hdr, 0x7A00000000000007]
    launches := s.launches.map fun (x : Launch) => { x with lrec := { x.lrec with code := BitVec.ofNat 64 (vbase + 0x1000), tvec := BitVec.ofNat 64 (vbase + 0x1000) } } }
def served (hdr n : Nat) (h : Nat) : Bool :=
  let s := standing hdr n true
  let T := team1 s
  let F := fibre1 s
  (match F.select with | some p => p == (BitVec.ofNat 64 (vbase + 0x1000), none) | none => false) && s.serveDue T F && F.pending.isEmpty &&
    (match s.fetchClause ⟨T.ctx, T.coreOf 0, T.uid⟩ (vbase + 0x1000) with | .ok (x, ws) => x == h && ws == [0x7A00000000000007#64] | .error _ => false)
/-- A clause that issues by its turn and by age, one that waits for class LD, and one with a reserved bit. -/
theorem test_meets_clauses :
    (∀ n ∈ [5, 64], served (15 * 2 ^ 60) n (15 * 2 ^ 60) = true ∧ headerCheck (15 * 2 ^ 60) [0x7A00000000000007] = none ∧ (fibre1 (standing (15 * 2 ^ 60) n true)).ageing = decide (n = 64) ∧
      (fibre1 (standing (15 * 2 ^ 60) n true)).slot < (team1 (standing (15 * 2 ^ 60) n true)).slots.length) ∧
    (served (15 * 2 ^ 60 + 2 ^ 48) 5 (15 * 2 ^ 60 + 2 ^ 48) = true ∧ headerCheck (15 * 2 ^ 60 + 2 ^ 48) [0x7A00000000000007] = none ∧
      ∃ o ∈ (fibre1 (standing 0 5 true)).ops, o.done = false ∧ ∃ k ∈ o.classes, ((15 * 2 ^ 60 + 2 ^ 48) / 2 ^ 48 % 256).testBit k.bit = true) ∧
    (served (15 * 2 ^ 60 + 2 ^ 46) 5 (15 * 2 ^ 60 + 2 ^ 46) = true ∧ headerCheck (15 * 2 ^ 60 + 2 ^ 46) [0x7A00000000000007] = some 2 ∧
      targetOk ((standing 0 5 true).recOf (team1 (standing 0 5 true))) (fibre1 (standing 0 5 true)).tvec = true) ∧
    (fibre1 (standing 0 5 false)).issue = none ∧ (fibre1 (standing 0 5 false)).fetched = false ∧ (fibre1 (standing 0 5 false)).select ≠ none := by
  refine ⟨?_, by decide +kernel, by decide +kernel, rfl, rfl, by decide⟩
  intro n hn
  simp only [List.mem_cons, List.not_mem_nil, or_false] at hn
  obtain rfl | rfl := hn <;> decide +kernel

/-- An operation with a row for the last lane and register and a predicate, complete or not. -/
def heldOp (kind : OpKind) (a : Ahead) (done : Bool) : Op := { opOf kind a [⟨55, [(15, ⟨1, .raw, true⟩)], .general⟩] done with preds := [⟨15, 6, true⟩] }
def holding (kind : OpKind) (a : Ahead) (done : Bool) : State := withOp base (heldOp kind a done)
theorem test_meets_landing :
    (∀ a ∈ [Ahead.window 0 0, .async], ((fibre1 (holding .load a true)).ops.find? (fun x => x.id == 9) = some (heldOp .load a true)) ∧
      ((heldOp .load a true).writes.map (·.reg)).Nodup ∧ (∀ h ∈ (heldOp .load a true).writes, h.reg < (team1 base).nregs (fibre1 base) ∧ (h.rows.map (·.1)).Nodup) ∧
      (fibre1 (holding .load a true)).ops = [heldOp .load a true] ∧ ((fibre1 base).thread 15).live = true) ∧
    ∀ k ∈ [OpKind.load, .store, .tile []], (fibre1 (holding k .async false)).ops = [heldOp k .async false] := by
  constructor <;> intro x hx <;> simp only [List.mem_cons, List.not_mem_nil, or_false] at hx
  · obtain rfl | rfl := hx <;> exact ⟨rfl, by decide, by decide, rfl, rfl⟩
  · obtain rfl | rfl | rfl := hx <;> rfl

/-! ## Of the statements on transfers, counters and collectives -/

/-- Sixteen threads with a destination, a source, a count of n bytes and a counter with its threshold in v4 to v7. -/
def xferring (n : Nat) : State := { setReg (setReg (setReg (setReg base 4 fun _ => BitVec.ofNat 64 (vbase + 0x20000)) 5 fun _ => BitVec.ofNat 64 (vbase + 0x30040)) 6
  fun _ => BitVec.ofNat 64 n) 7 (fun _ => 0x00FF000000000001) with mem := pages }
def xm (off : Nat) (scope : Bool) (la : Nat) : MF := { mf 4 5 6 off with scope := scope, la := BitVec.ofNat 4 la }
def xn (f : MF) (bn : Nat) : Names := ⟨regName 46 f.d ++ regName 40 f.a ++ group 34 f.b.toNat bn, [], f.g⟩
def xferB (c : Ctx) (k : XferKind) (n : Nat) : Bool := (c.s.xferErrs c.who k (vbase + 0x20000) (vbase + 0x30040) n false).isEmpty
/-- The least count, and 4 KiB and one granule. -/
theorem test_meets_transfers_start : ∀ n ∈ [64, 4160],
    Met (.cpy (xm 0 false 15)) (mNames (xm 0 false 15) 1 false 1) (fun s c => inOrder c false ∧ c.act ≠ [] ∧ ((c.plain 1 4).row c.low).poison = false ∧
      ((c.src 2 5 0 0).val c.low).toNat = vbase + 0x30040 ∧ ((c.src 3 6 0 0).val c.low).toNat = n ∧ xferB c .copy n = true ∧ c.core / 64 < s.dies.length) ∧
    Met (.put (xm 0xFF8 true 15)) ⟨regName 46 4 ++ regName 40 5 ++ regName 34 6, [], g7⟩ (fun s c => inOrder c false ∧ c.act ≠ [] ∧ ((c.plain 3 6).val c.low).toNat = n ∧
      xferB c .put n = true ∧ c.core / 64 < s.dies.length) ∧
    Met (.get (xm 0xFF008 true 15)) ⟨regName 46 4 ++ regName 40 5 ++ regName 34 6, [], g7⟩ (fun s c => inOrder c false ∧ c.act ≠ [] ∧ ((c.plain 3 6).val c.low).toNat = n ∧
      xferB c .get n = true ∧ c.core / 64 < s.dies.length) := by
  intro n hn
  simp only [List.mem_cons, List.not_mem_nil, or_false] at hn
  obtain rfl | rfl := hn
  · exact ⟨meetsD (xferring 64) (fun c => c.f.acquiring = false ∧ c.act ≠ [] ∧ ((c.plain 1 4).row c.low).poison = false ∧
      ((c.src 2 5 0 0).val c.low).toNat = vbase + 0x30040 ∧ ((c.src 3 6 0 0).val c.low).toNat = 64 ∧ xferB c .copy 64 = true ∧ c.core / 64 < (xferring 64).dies.length)
      (fun _ h => ⟨⟨h.1, fun h => by cases h⟩, h.2⟩) (by decide +kernel),
      meetsD (xferring 64) (fun c => c.f.acquiring = false ∧ c.act ≠ [] ∧ ((c.plain 3 6).val c.low).toNat = 64 ∧ xferB c .put 64 = true ∧ c.core / 64 < (xferring 64).dies.length)
      (fun _ h => ⟨⟨h.1, fun h => by cases h⟩, h.2⟩) (by decide +kernel),
      meetsD (xferring 64) (fun c => c.f.acquiring = false ∧ c.act ≠ [] ∧ ((c.plain 3 6).val c.low).toNat = 64 ∧ xferB c .get 64 = true ∧ c.core / 64 < (xferring 64).dies.length)
      (fun _ h => ⟨⟨h.1, fun h => by cases h⟩, h.2⟩) (by decide +kernel)⟩
  · exact ⟨meetsD (xferring 4160) (fun c => c.f.acquiring = false ∧ c.act ≠ [] ∧ ((c.plain 1 4).row c.low).poison = false ∧
      ((c.src 2 5 0 0).val c.low).toNat = vbase + 0x30040 ∧ ((c.src 3 6 0 0).val c.low).toNat = 4160 ∧ xferB c .copy 4160 = true ∧ c.core / 64 < (xferring 4160).dies.length)
      (fun _ h => ⟨⟨h.1, fun h => by cases h⟩, h.2⟩) (by decide +kernel),
      meetsD (xferring 4160) (fun c => c.f.acquiring = false ∧ c.act ≠ [] ∧ ((c.plain 3 6).val c.low).toNat = 4160 ∧ xferB c .put 4160 = true ∧ c.core / 64 < (xferring 4160).dies.length)
      (fun _ h => ⟨⟨h.1, fun h => by cases h⟩, h.2⟩) (by decide +kernel),
      meetsD (xferring 4160) (fun c => c.f.acquiring = false ∧ c.act ≠ [] ∧ ((c.plain 3 6).val c.low).toNat = 4160 ∧ xferB c .get 4160 = true ∧ c.core / 64 < (xferring 4160).dies.length)
      (fun _ h => ⟨⟨h.1, fun h => by cases h⟩, h.2⟩) (by decide +kernel)⟩

/-- An engine's operation with a read still to send, and one with nothing left but a local part. -/
def sending : Send := ⟨.read, 3 * 2 ^ 46, 0x20000, 64, none, noKey, none⟩
def xferOf (k : XferKind) (todo : List Send) : Xfer := ⟨7, 0, 128, 0, some (⟨1, 0⟩, 9), k, 0x20000, 64, 255, true, 255, true, false, todo,
  if todo.isEmpty then [⟨0x30000, 0x20000, 64⟩] else [], [], [], false, [], [], [], [], [], none, 0, 0, false⟩
def engaged (x : Xfer) : State :=
  let s := withOp base (opOf (if x.kind == .copy then .copy 0 7 else .transfer 0 7) .async [] false)
  { s with dies := s.dies.modify 0 fun d => { d with xfers := [x] } }
theorem engaged_wf (x : Xfer) : memWf (engaged x) := memWf_of [] (by decide) _ rfl rfl rfl
def gets : State := engaged (xferOf .get [sending])
theorem test_meets_transfers_complete :
    (gets.xfer? 0 7 = some (xferOf .get [sending]) ∧ gets.xferHeld (xferOf .get [sending]) = false ∧ gets.pathOpen (xferOf .get [sending]) (3 * 2 ^ 46) = true ∧
      gets.freeTag 128 = some 0 ∧ sending.kind = .read ∧ sending.num = none ∧ ((gets.dies.zipIdx.flatMap fun (d, k) => d.xfers.map fun (x : Xfer) => (k, x))[0]?).isSome = true) ∧
    (∀ k ∈ [XferKind.put, .get], memWf (engaged (xferOf k [])) ∧ (engaged (xferOf k [])).xfer? 0 7 = some (xferOf k []) ∧ (engaged (xferOf k [])).xferDone 0 (xferOf k []) = true ∧
      (∀ p ∈ (xferOf k []).near, (engaged (xferOf k [])).isFar p.src = false ∧ (engaged (xferOf k [])).isFar p.dst = false ∧ p.len % 64 = 0) ∧ 0 < (engaged (xferOf k [])).ctxs.length) ∧
    (memWf (engaged (xferOf .copy [])) ∧ (engaged (xferOf .copy [])).xfer? 0 7 = some (xferOf .copy []) ∧ (engaged (xferOf .copy [])).xferOpen 0 7 = false ∧
      (engaged (xferOf .copy [])).xferHeld (xferOf .copy []) = false ∧ (fibre1 (engaged (xferOf .copy []))).ops = [opOf (.copy 0 7) .async [] false]) := by
  refine ⟨⟨by decide +kernel, by decide +kernel, by decide +kernel, by decide +kernel, rfl, rfl, by decide +kernel⟩, ?_,
    ⟨engaged_wf _, by decide +kernel, by decide +kernel, by decide +kernel, rfl⟩⟩
  intro k hk
  simp only [List.mem_cons, List.not_mem_nil, or_false] at hk
  obtain rfl | rfl := hk <;> exact ⟨engaged_wf _, by decide +kernel, by decide +kernel, by decide +kernel, by decide +kernel⟩

/-- Counters: the highest of each die; arming; an entry at its threshold whose pages fail, and one whose pages pass. -/
def armed (pass : Bool) : State := { base with
  mem := if pass then pages else []
  dies := base.dies.modify 0 fun d => { d with trigs := [⟨0, 0, 255, 0, true, xm 0 true 0, BitVec.ofNat 64 (vbase + 0x20000), BitVec.ofNat 64 (vbase + 0x30040), 64, some 0⟩] } }
def fullTable : State := { xferring 64 with dies := base.dies.modify 0 fun d => { d with trigs := List.replicate 1024 ⟨0, 0, 255, 1, true, xm 0 true 0, 0, 0, 64, none⟩ } }
theorem test_meets_counters :
    Met (.cntrRead (sf 3 0 0x2FF)) (sNames (sf 3 0 0x2FF) true false) (fun _ c => c.act ≠ []) ∧
    (∀ i ∈ [Instr.cntrAdd (sf 0 4 0xFF), .cntrSet (sf 0 4 0xFF)], Met i (sNames (sf 0 4 0xFF) false true) fun s c => c.act ≠ [] ∧ ((c.plain 2 4).row c.low).poison = false ∧
      c.t.ctx < s.ctxs.length) ∧
    (∀ isPut ∈ [true, false], Met (if isPut then .trigPut (xm 0 true 0) else .trigGet (xm 0 true 0)) (xn (xm 0 true 0) 2) fun s c => inOrder c false ∧ c.act ≠ [] ∧
      ((c.plain 3 6).val c.low).toNat = 64 ∧ xferB c (if isPut then .put else .get) 64 = true ∧ c.core / 64 < s.dies.length ∧ (s.die (c.core / 64)).trigs.length < 1024) ∧
    Met (.trigPut (xm 0 true 0)) (xn (xm 0 true 0) 2) (fun s c => inOrder c false ∧ c.act ≠ [] ∧ ((c.plain 3 6).val c.low).toNat = 64 ∧ xferB c .put 64 = true ∧
      c.core / 64 < s.dies.length ∧ 1024 ≤ (s.die (c.core / 64)).trigs.length) ∧
    ∀ pass ∈ [true, false], (((armed pass).die 0).trigs[0]?).isSome = true ∧ ((armed pass).xferErrs ⟨0, 999, 0⟩ .put (vbase + 0x20000) (vbase + 0x30040) 64 false).isEmpty = pass ∧
      ∀ k < 1, ∀ y, ((armed pass).die 0).trigs[k]? = some y → ∀ a b, y.due = some a → y.due = some b → b < a ∨ a = b ∧ 0 ≤ k := by
  refine ⟨meetsD base (fun c => c.act ≠ []) (fun _ h => h) (by decide), ?_, ?_, ?_, ?_⟩
  · intro i hi
    simp only [List.mem_cons, List.not_mem_nil, or_false] at hi
    obtain rfl | rfl := hi <;> exact meetsD base (fun c => c.act ≠ [] ∧ ((c.plain 2 4).row c.low).poison = false ∧ c.t.ctx < base.ctxs.length) (fun _ h => h) (by decide)
  · intro b _
    cases b <;> exact meetsD (xferring 64) (fun c => c.f.acquiring = false ∧ c.act ≠ [] ∧ ((c.plain 3 6).val c.low).toNat = 64 ∧ xferB c _ 64 = true ∧
      c.core / 64 < (xferring 64).dies.length ∧ ((xferring 64).die (c.core / 64)).trigs.length < 1024) (fun _ h => ⟨⟨h.1, fun h => by cases h⟩, h.2⟩) (by decide +kernel)
  · exact meetsD fullTable (fun c => c.f.acquiring = false ∧ c.act ≠ [] ∧ ((c.plain 3 6).val c.low).toNat = 64 ∧ xferB c .put 64 = true ∧
      c.core / 64 < fullTable.dies.length ∧ 1024 ≤ (fullTable.die (c.core / 64)).trigs.length) (fun _ h => ⟨⟨h.1, fun h => by cases h⟩, h.2⟩) (by decide +kernel)
  · intro b _
    refine ⟨by cases b <;> decide +kernel, by cases b <;> decide +kernel, fun k hk y _ a b h h' => ?_⟩
    rw [h] at h'
    exact .inr ⟨by simpa using h', by omega⟩

/-- A descriptor of packages 0 and 1, sums of two FP32 elements, for each of the three collectives. -/
def collWords (kind : Nat) : List Nat := [3, 0x700000001, if kind = 1 then 1 else 2, 0, 0, 0, 0, 0]
def collecting (kind : Nat) : State := { setReg (setReg (setReg base 4 fun _ => BitVec.ofNat 64 (vbase + 0x20000)) 5 fun _ => BitVec.ofNat 64 (vbase + 0x30040)) 6
  (fun _ => BitVec.ofNat 64 (vbase + 0x40000)) with mem := pages ++ dws 0x40000 (collWords kind) }
def collB (c : Ctx) (kind : Nat) : Bool :=
  let ws := (List.range 8).map fun k => BitVec.ofNat 64 (numAt c.s (0x40000 + 8 * k) 8)
  (match c.s.checkAligned c.who .read (vbase + 0x40000) 64 with | .ok y => y == 0x40000 | .error _ => false) && ((c.s.place 0x40000).granules 64).all (fun g => !c.s.engineOwned g) &&
    !poisAt c.s 0x40000 64 && (List.range 8).all (fun k => c.s.place (0x40000 + 8 * k) == (c.s.place 0x40000).add (8 * k)) && c.f0.ops.all (fun o => o.kind.answers == []) &&
    collOk c.s.pkg.toNat kind ws && (c.s.rangeErrs c.who .read 2 (vbase + 0x30040) ((cdesc ws).srcBytes kind) true).isEmpty &&
    (c.s.rangeErrs c.who .write 1 (vbase + 0x20000) (cdesc ws).dstBytes true).isEmpty && (c.s.freeTag 128).isSome
theorem test_meets_coll : ∀ p ∈ [(Instr.collAllreduce (xm 0xFF008 true 15), 0), (.collRscatter (xm 0xFF008 true 15), 1), (.collBcast (xm 0xFF008 true 15), 2)],
    Met p.1 (mNames (xm 0xFF008 true 15) 1 false 1) fun s c => inOrder c false ∧ c.act ≠ [] ∧ collB c p.2 = true ∧ c.core / 64 < s.dies.length := by
  have k : ∀ i kind, (issuing i (mNames (xm 0xFF008 true 15) 1 false 1) (collecting kind)).any (fun c => decide (c.f.acquiring = false ∧ c.act ≠ [] ∧ collB c kind = true ∧
      c.core / 64 < (collecting kind).dies.length)) = true → Met i (mNames (xm 0xFF008 true 15) 1 false 1) fun s c => inOrder c false ∧ c.act ≠ [] ∧ collB c kind = true ∧
      c.core / 64 < s.dies.length := fun i kind h => meetsD (collecting kind) _ (fun _ h => ⟨⟨h.1, fun h => by cases h⟩, h.2⟩) h
  intro p hp
  simp only [List.mem_cons, List.not_mem_nil, or_false] at hp
  obtain rfl | rfl | rfl := hp
  · exact k _ 0 (by decide +kernel)
  · exact k _ 1 (by decide +kernel)
  · exact k _ 2 (by decide +kernel)

/-- The collective under way, its sources here and from package 1; and one whose time is over. -/
def collXfer : Xfer := { xferOf (.coll 0 ((collWords 0).map (BitVec.ofNat 64))) [] with
  near := [], rce := false, owner := none, tag := some 0, srcs := [(0x30040, 8)], dsts := [(0x20000, 8)], wdog := 50 }
def collating (t : Word) : State := { engaged collXfer with time := t }
theorem test_meets_collectives_complete :
    (∃ (members : List MemberData) (src : Nat → List Byte), (collating 0).xfer? 0 7 = some collXfer ∧ (collating 0).xferHeld collXfer = false ∧ collXfer.failed = false ∧
      collXfer.pages = [] ∧ src (collating 0).pkg.toNat = ((collating 0).readPieces collXfer.srcs).1 ∧ (∀ p ∈ (cdesc ((collWords 0).map (BitVec.ofNat 64))).ranks,
        p ≠ (collating 0).pkg.toNat → (members.find? fun m => m.pkg == p && m.src.length == (cdesc ((collWords 0).map (BitVec.ofNat 64))).srcBytes 0).map (·.src) = some (src p)) ∧
      memWf (collating 0) ∧ (collating 0).isFar 0x20000 = false) ∧
    ((collating 51).xfer? 0 7 = some collXfer ∧ (collating 51).canPost = true ∧ collXfer.wdog < ((collating 51).time - collXfer.issued).toNat) ∧
    (let ws := (collWords 0).map (BitVec.ofNat 64)
     let o := ws.set 2 3
     collXfer.tag = some 0 ∧ (o.getD 1 0).toNat / 2 ^ 32 = (ws.getD 1 0).toNat / 2 ^ 32 ∧ o.drop 1 ≠ ws.drop 1) ∧
    (cdesc []).ty = 0 ∧ (cdesc ((collWords 0).map (BitVec.ofNat 64))).ty = 1 :=
  ⟨⟨[⟨1, [0, 0, 0x80, 0x3F, 0, 0, 0, 0x40]⟩], fun p => if p = 0 then List.replicate 8 0 else [0, 0, 0x80, 0x3F, 0, 0, 0, 0x40], by decide +kernel, by decide +kernel, rfl, rfl,
      by decide +kernel, by decide +kernel, memWf_of [] (by decide) _ rfl rfl rfl, by decide +kernel⟩, by decide +kernel, by decide, by decide, by decide⟩

/-! ## Of the statements on launches and pages -/

/-- A good launch record of one team of 64 fibres of 64 threads, or one without fibres; the queue that holds it; its registration. -/
def recWords (good : Bool) : List Nat := [(if good then 64 else 0) + 2 * 2 ^ 16 + 15 * 2 ^ 8 + 2 ^ 15, vbase, 4096 * 2 ^ 32, 0, 8 * 2 ^ 20 + 64] ++ List.replicate 27 0
def queuedRecord (good : Bool) : State := { State.reset with
  mem := pages ++ dws 0x21000 [vbase + 0x22000, vbase + 0x23000, 4, 0, 1, 64, 0, 0] ++ dws 0x22000 (recWords good)
  ctxs := State.reset.ctxs.modify 0 fun x => { x with valid := true }
  dies := State.reset.dies.modify 1 fun d => { d with queues := d.queues.set 15 (some ⟨0, BitVec.ofNat 64 (vbase + 0x21000), true⟩) } }
def recordB (good : Bool) : Bool :=
  let s := queuedRecord good
  ((s.die 1).queues.getD 15 none == some ⟨0, BitVec.ofNat 64 (vbase + 0x21000), true⟩) && (match s.goodQueue 0 (vbase + 0x21000) with
    | some q => q.en && q.head < q.tail && q.base == vbase + 0x22000 && q.sbase == vbase + 0x23000 && q.cap == 4
    | none => false) && (match s.check (cpWho 0) .read (vbase + 0x22000), s.check (cpWho 0) .write (vbase + 0x23000) with | .ok a, .ok b => a == 0x22000 && b == 0x23000 | _, _ => false) &&
    s.refusal 0 (vbase + 0x22000) (fun k => (s.readWords 0 (vbase + 0x22000) 32).getD k 0) == if good then none else some 0x10

/-- A launch admitted, before its dependence and after; the queue-bound launch below. -/
def aRec : LaunchRec := { noRec with nteam := 2, width := 64, fps := 4, smax := 16, fibres := 64, code := BitVec.ofNat 64 vbase, codeSz := 4096, priv := 8, rage := 64 }
def aLaunch (st : Stage) (r : LaunchRec) : Launch := ⟨3, 0, 0, 0, BitVec.ofNat 64 (vbase + 0x22000), BitVec.ofNat 64 (vbase + 0x23000), r, st, 0, 0, false, false, 0, false, [], []⟩
def boundRec : LaunchRec := { aRec with qbound := true, nteam := 0, qdesc := BitVec.ofNat 64 (vbase + 0x24000) }
def admitted (l : Launch) : State := { State.reset with
  mem := pages ++ dws 0x23000 [2 ^ 63] ++ dws 0x24000 [vbase + 0x25000, 64, 0, 1, 1, vbase + 0x22000, 2 ^ 32 + 1]
  ctxs := State.reset.ctxs.modify 0 fun x => { x with valid := true }
  time := 1001
  commits := [(0x24000, 1, 0)]
  launches := [l] }
theorem test_meets_launches :
    (recordB true = true ∧ recordB false = true ∧ ((queuedRecord true).launches.filter fun l => l.die == 1 && l.stage != .complete).length < 64) ∧
    ((match (admitted (aLaunch .ready aRec)).check (cpWho 0) .write (vbase + 0x23000) with | .ok p => p == 0x23000 | .error _ => false) = true ∧
      memWf (admitted (aLaunch .ready aRec)) ∧ (admitted (aLaunch .ready aRec)).isFar 0x23000 = false ∧ (admitted (aLaunch .ready aRec)).fmtBase 0 (vbase + 0x23000) = none) ∧
    ((aLaunch .waiting aRec).stage = .waiting ∧ ∀ d ∈ aRec.deps, d.2 ≤ ((admitted (aLaunch .waiting aRec)).counter 0 0 d.1).value.toNat) ∧
    ((admitted (aLaunch .ready boundRec)).commitTime ((admitted (aLaunch .ready boundRec)).queuePa (aLaunch .ready boundRec)) 0 = some 0 ∧
      (admitted (aLaunch .ready boundRec)).queueOf (aLaunch .ready boundRec) = ⟨vbase + 0x25000, 0, 0, 64, 0, 1, 1, vbase + 0x22000, 1, 1, 0⟩ ∧
      1000 < ((admitted (aLaunch .ready boundRec)).time - 0).toNat) ∧
    2 ^ 63 ≤ (admitted (aLaunch .ready boundRec)).loadWord 0 (vbase + 0x23000) := by
  refine ⟨⟨by decide +kernel, by decide +kernel, by decide⟩, ⟨by decide +kernel, memWf_of (pages ++ dws 0x23000 [2 ^ 63] ++
    dws 0x24000 [vbase + 0x25000, 64, 0, 1, 1, vbase + 0x22000, 2 ^ 32 + 1]) (by decide +kernel) _ rfl rfl rfl, by decide +kernel, by decide +kernel⟩, ⟨rfl, by decide⟩,
    by decide +kernel, by decide +kernel⟩

/-- A team saved before, and none; a bound queue with an item. A team that has exited; a launch whose teams have retired. -/
def savedTeam : SavedTeam := ⟨{ fetchTeam 4 3 0 with index := 1, fibres := [{ fetchFibre 0 with issue := none }] }, [], [], [], [], [], 0, 0, 0, 0⟩
def ended : State := { admitted (aLaunch .ready aRec) with
  teams := [{ fetchTeam 4 3 0 with fibres := [{ fetchFibre 0 with issue := none, threads := List.replicate 16 { noThread with st := .exited } }] }] }
def resuming : State := { admitted (aLaunch .ready aRec) with saved := [savedTeam] }
theorem test_meets_placement :
    (∀ l ∈ [aLaunch .ready aRec, aLaunch .ready boundRec], (admitted l).launch? 3 = some l ∧ (admitted l).readyLaunches = [l] ∧ (l.lrec.coop = false ∨ l.lrec.qbound = true) ∧
      (admitted l).savedOf l = [] ∧ (admitted l).bestPlace l none [] = some 0) ∧
    (resuming.readyLaunches = [aLaunch .ready aRec] ∧ resuming.savedOf (aLaunch .ready aRec) = [savedTeam] ∧ resuming.team? 4 = none ∧
      resuming.bestPlace (aLaunch .ready aRec) (some savedTeam) [] = some 0) ∧
    (ended.team? 4 = some (team1 ended) ∧ (∀ F ∈ (team1 ended).fibres, (∀ x ∈ F.threads, x.live = false) ∧ F.ops = []) ∧ ended.filedOf 4 = [] ∧
      (∀ c ∈ ended.cores, c.array = []) ∧ (∀ c ∈ ended.clusters, c.table = []) ∧ (ended.ctx 0).dying = false) ∧
    (∀ l ∈ [{ aLaunch .ready aRec with retired := 2 }, { aLaunch .stopped boundRec with disp := 1 }], (admitted l).launch? 3 = some l ∧ (admitted l).savedOf l = [] ∧
      (admitted l).teams = [] ∧ (admitted l).canPost = true ∧ (admitted l).accs = [] ∧ l.spills = [] ∧ ((admitted l).ctx 0).dying = false ∧ l.lrec.ndisc = 0 ∧
      if l.lrec.qbound then l.stage = .stopped ∧ ((admitted l).queueOf l).commit ≤ l.disp else l.stage = .ready ∧ l.retired = l.lrec.nteam) := by
  refine ⟨?_, ⟨by decide +kernel, by decide +kernel, rfl, by decide +kernel⟩, ⟨rfl, by decide, by decide +kernel, by decide +kernel, by decide +kernel, rfl⟩, ?_⟩ <;> intro l hl <;>
    simp only [List.mem_cons, List.not_mem_nil, or_false] at hl
  · obtain rfl | rfl := hl <;> decide +kernel
  · obtain rfl | rfl := hl <;> decide +kernel

/-- An idle page in each FP8 format, a page with a bad header, and a conversion under way. -/
def idlePage (dw2 : Nat) : State :=
  let s := { State.reset with time := 100000001, tlb := [⟨0, 0, 0x10000, 65536, true, false, true⟩], reclaim := some ⟨0x100000, 64, 0x200000, 0⟩ }
  if dw2 = 0 then s else s.setHeader 0x10000 5 0 dw2
def converting : State := { idlePage 0x40 with convs := [(0x10000, 0)] }
theorem test_meets_pages :
    (∀ f ∈ [0x40, 0x50], (∃ e ∈ (idlePage f).tlb, e.fmtp = true ∧ localOf e.frame = 0x10000) ∧ (idlePage f).reclaimFree = true ∧ ((idlePage f).die (homeDie 0x10000)).threshold = 100 ∧
      (∀ x ∈ (idlePage f).convs, x.1 ≠ 0x10000) ∧ (idlePage f).headerOk 0x10000 = true ∧ (idlePage f).pageFmt 0x10000 ≠ 10 ∧ (idlePage f).pagePin 0x10000 = false ∧
      100 * 1000000 < (idlePage f).time.toNat - (idlePage f).ramWord (0x10000 + 8)) ∧
    ((idlePage 0).reclaimFree = true ∧ (idlePage 0).headerOk 0x10000 = false ∧ (idlePage 0).skipped = [] ∧ (idlePage 0).canPost = true) ∧
    converting.poisonedBlocks 0x10000 = [] ∧ converting.reclaim = some ⟨0x100000, 64, 0x200000, 0⟩ ∧ converting.isFar (converting.pkg.toNat * 2 ^ 46 + 0x100000) = false ∧
    converting.place (converting.pkg.toNat * 2 ^ 46 + 0x100000) = .ram 0x100000 := by
  refine ⟨?_, by decide +kernel, by decide +kernel, by decide +kernel, by decide +kernel, by decide +kernel⟩
  intro f hf
  simp only [List.mem_cons, List.not_mem_nil, or_false] at hf
  obtain rfl | rfl := hf <;> decide +kernel

/-! ## Of the statements on pre-emption, the fabric and the links -/

/-- A block takes at most its fixed parts and its registers. -/
theorem blockBytes_le (tick : Nat) (r : LaunchRec) (t : Team) (b : List Bin) (q : List GReq) (a : Nat) :
    blockBytes tick r t b q a ≤ blockFixed r b.length q a + blockRegs r t b + 64 * 16 * r.fibres + 64 * (regBytes r.width - 16) * r.fibres := by
  have := Nat.mod_lt (Config.freeWord tick).toNat (show 0 < 64 * (regBytes r.width - 16) * r.fibres + 1 by omega)
  simp only [blockBytes]
  omega

def inCtx (s : State) (f : Context → Context) : State := { s with ctxs := s.ctxs.modify 0 f }
/-- Stopped teams with an ample save area, and with none; a thread Blocked since time 0. -/
def stopped (size : Nat) : State := inCtx (setFibre base fun f => { f with issue := none, threads := f.threads.map fun t => { t with st := .waiting } }) fun x =>
  { x with saving := some 0, saveSize := size }
def blockedOne : State := { setFibre base fun f => { f with issue := none, threads := f.threads.zipIdx.map fun (t, l) =>
  if l = 15 then { t with st := .blocked (.rendezvous 0xFFFF) (.join (sf 0 0 0)) 0 } else { t with st := .waiting } } with time := 50000001 }
def waiter : Launch := aLaunch .ready { aRec with width := 16, fps := 1, smax := 1, fibres := 1, accN := 8 }
/-- Every core but core 0 has no accumulator bank free, and the team on core 0, parked for longer than 100 µs, holds its eight, or `n` of them
beside another team's; a launch waits for eight. -/
def swapping (n : Nat) : State :=
  let s := setTeam (setFibre base fun f => { f with issue := none, threads := f.threads.map fun t => { t with st := .parked .acqa (.acqa (xf 0 0 0 0)) 0 } }) fun t =>
    { t with accs := List.range n }
  { (inCtx s fun x => { x with saveSize := 2 ^ 30 }) with
    time := 100001
    launches := s.launches ++ [waiter]
    cores := s.cores.zipIdx.map fun (c, k) => { c with acc := (List.range 8).map fun j => ⟨some (if k = 0 ∧ j < n then 1 else 99), [], []⟩ } }
def swapTeam (n : Nat) : Team := team1 ((swapping n).stopTeam (team1 (swapping n)))

theorem image_fits (s : State) (T : Team) (t : Word) (n : Nat) (h : let r := s.recOf T
    let b := (s.binsOf T).map (·.2)
    blockFixed r b.length ((s.reqsOfTeam T.uid).map fun (g : GReq) => { g with posted := g.age s.clock }) (T.accs.length + T.accs2.length) + blockRegs r T b +
      64 * 16 * r.fibres + 64 * (regBytes r.width - 16) * r.fibres ≤ n) : (s.image T t).bytes ≤ n :=
  Nat.le_trans (blockBytes_le _ _ _ _ _ _) h

theorem test_meets_preemption :
    ((inCtx base fun x => { x with preempt := some 0 }).teams ≠ [] ∧ 200000 ≤ ({ (inCtx base fun x => { x with preempt := some 0 }) with time := 200000 }.time - 0).toNat) ∧
    (∀ n ∈ [0, 2 ^ 30], ((stopped n).ctx 0).saving = some 0 ∧ ((stopped n).teams.filter (·.ctx == 0)).find? (stopped n).drained = some (team1 (stopped n)) ∧
      (stopped n).canPost = true ∧ ((stopped n).ctx 0).dying = false) ∧
    256 + ((stopped (2 ^ 30)).ctx 0).saveUsed + ((stopped (2 ^ 30)).image (team1 (stopped (2 ^ 30))) 0).bytes ≤ ((stopped (2 ^ 30)).ctx 0).saveSize ∧
    ((stopped 0).ctx 0).saveSize < 256 + ((stopped 0).ctx 0).saveUsed + ((stopped 0).image (team1 (stopped 0)) 0).bytes ∧
    (∃ w ∈ blockedOne.watchDue (team1 blockedOne), w.since = 0) ∧ (blockedOne.ctx 0).saving = none ∧ blockedOne.canPost2 = true ∧
    (let s := inCtx base fun x => { x with dying := true }
     (s.ctx 0).dying = true ∧ (s.teams.map (·.uid)).Nodup ∧ (∀ T ∈ s.teams, s.engineBusy T.uid = false) ∧ (∀ d ∈ s.dies, ∀ x ∈ d.xfers, x.ctx ≠ 0) ∧ s.canPost = true ∧
      s.mbox.held = [] ∧ s.attach.cacheOn = false) := by
  refine ⟨by decide, ?_, ?_, ?_, ?_, by decide +kernel, by decide +kernel, by decide +kernel⟩
  · intro n hn
    simp only [List.mem_cons, List.not_mem_nil, or_false] at hn
    obtain rfl | rfl := hn <;> decide +kernel
  · have : ((stopped (2 ^ 30)).image (team1 (stopped (2 ^ 30))) 0).bytes ≤ 2 ^ 20 := image_fits _ _ _ _ (by decide +kernel)
    have h : ((stopped (2 ^ 30)).ctx 0).saveSize = 2 ^ 30 ∧ ((stopped (2 ^ 30)).ctx 0).saveUsed = 0 := by decide +kernel
    omega
  · have h : ((stopped 0).ctx 0).saveSize = 0 := by decide +kernel
    omega
  · have h : ((blockedOne.watchDue (team1 blockedOne)).any fun w => w.since == 0) = true := by decide +kernel
    obtain ⟨w, hw, h⟩ := List.any_eq_true.mp h
    exact ⟨w, hw, by simpa using h⟩

/-- The park-swap rule: the team is saved, and the launch placed where that frees enough, or not. -/
theorem test_meets_park_swap : ∀ n ∈ [8, 7], let s := swapping n
    s.teamsOn 0 ≠ [] ∧ (∀ T ∈ s.teamsOn 0, s.swapCandidate 0 T = true) ∧
    s.readyLaunches.find? (fun l => (s.teamsOn 0).any (fun T => T.ctx == l.lrec.ctx) && s.waitsFor 0 l) = some waiter ∧ (waiter.lrec.coop = false ∨ waiter.lrec.qbound = true) ∧
    ∃ s1, s.saveAll ((s.teamsOn 0).filter fun T => T.ctx == waiter.lrec.ctx) = some s1 ∧ (s1.ctx waiter.lrec.ctx).dying = false ∧ s1.launch? waiter.id = some waiter ∧
      ((s1.bestPlace waiter (s.savedOf waiter).head? []).isSome = decide (n = 8)) := by
  intro n hn
  let u := (swapping n).stopTeam (team1 (swapping n))
  let x := u.image (swapTeam n) (swapping n).time
  have hb : x.bytes ≤ 2 ^ 20 := by
    simp only [List.mem_cons, List.not_mem_nil, or_false] at hn
    obtain rfl | rfl := hn <;> exact image_fits _ _ _ _ (by decide +kernel)
  have hx : u.saveFits x = true := by
    have h : 256 + (u.ctx x.team.ctx).saveUsed + 2 ^ 20 ≤ (u.ctx x.team.ctx).saveSize := by
      simp only [List.mem_cons, List.not_mem_nil, or_false] at hn
      obtain rfl | rfl := hn <;> decide +kernel
    simp only [State.saveFits, decide_eq_true_eq]
    omega
  have hs : (swapping n).saveAll [team1 (swapping n)] = some (u.saveTeam (swapTeam n) x) := by
    have h1 : u.team? (team1 (swapping n)).uid = some (swapTeam n) ∧ u.drained (swapTeam n) = true := by
      simp only [List.mem_cons, List.not_mem_nil, or_false] at hn
      obtain rfl | rfl := hn <;> decide +kernel
    simp only [State.saveAll]
    rw [show (swapping n).stopTeam (team1 (swapping n)) = u from rfl, h1.1]
    simp only [h1.2, Bool.not_true, Bool.false_eq_true, if_false]
    rw [show u.image (swapTeam n) (swapping n).time = x from rfl, if_pos hx]
  have hf : ((swapping n).teamsOn 0).filter (fun T => T.ctx == waiter.lrec.ctx) = [team1 (swapping n)] := by
    simp only [List.mem_cons, List.not_mem_nil, or_false] at hn
    obtain rfl | rfl := hn <;> decide +kernel
  have hp : ((u.saveTeam (swapTeam n) x).ctx waiter.lrec.ctx).dying = false ∧ (u.saveTeam (swapTeam n) x).launch? waiter.id = some waiter ∧
      (((u.saveTeam (swapTeam n) x).bestPlace waiter ((swapping n).savedOf waiter).head? []).isSome = decide (n = 8)) := by
    simp only [List.mem_cons, List.not_mem_nil, or_false] at hn
    obtain rfl | rfl := hn <;> decide +kernel
  refine ⟨?_, ?_, ?_, .inl rfl, u.saveTeam (swapTeam n) x, by rw [hf]; exact hs, hp⟩ <;>
    simp only [List.mem_cons, List.not_mem_nil, or_false] at hn <;> obtain rfl | rfl := hn <;> decide +kernel

/-- A request outstanding under tag 5 of core 0, for a fibre's operation or an engine's. -/
def outReq (f : Option (FibreRef × Nat)) (x : Option XferRef) : OutReq := ⟨0, 5, 3, 1, .read, 2 ^ 46 + 0x20000, 8, [], 0, 0, none, 0, f, 0xFFFF, x⟩
def answer (refused : Bool) (t : Word) : FabricAnswer := ⟨0, 5, 3, t, refused, false, [1, 2, 3, 4, 5, 6, 7, 8], ⟨1, 3, true, 63, 1⟩⟩
def remoteLoad : OpKind := .access (.ld .b64 (mf 3 4 63 0)) [⟨0, 2 ^ 46 + 0x20000, []⟩] []
def outstanding (k : OpKind) (n : Nat) (t : Word) : State :=
  let s := withOp base (opOf k .async [] false)
  { s with time := t, fab := { s.fab with reqs := List.replicate n (outReq (some (⟨1, 0⟩, 9)) none) ++ if n = 2 then [{ outReq (some (⟨1, 0⟩, 9)) none with tag := 6 }] else [] } }
def fetching : State := { engaged { xferOf .get [] with near := [] } with fab := { base.fab with reqs := [outReq none (some ⟨0, 7, 0x20000⟩)] } }
def oldOp (k : OpKind) : Op := opOf k .async [] false
theorem test_meets_answers :
    ((outstanding .remoteStore 1 400001).tooOld 0 = true ∧ base.tooOld 0 = false ∧ base.fab.reqs = []) ∧
    (∀ k ∈ [OpKind.remoteStore, remoteLoad], (outstanding k 1 0).tooOld 0 = false ∧ (outstanding k 1 0).fab.reqs = [outReq (some (⟨1, 0⟩, 9)) none] ∧
      (fibre1 (outstanding k 1 0)).ops = [oldOp k] ∧ (fibre1 (outstanding k 1 0)).live ≠ [] ∧ (outstanding k 1 0).canPost = true) ∧
    (∃ x ∈ (outstanding remoteLoad 2 0).fab.reqs.filter (fun x => !(x.unit == 0 && x.tag == 5)), x.fibre = some (⟨1, 0⟩, 9)) ∧
    (fetching.fab.reqs = [outReq none (some ⟨0, 7, 0x20000⟩)] ∧ fetching.xfer? 0 7 = some { xferOf .get [] with near := [] } ∧ (fetching.ctx 0).dying = false ∧ memWf fetching ∧
      fetching.isFar 0x20000 = false) := by
  refine ⟨⟨by decide, by decide, by decide⟩, ?_, by decide, ⟨rfl, by decide +kernel, by decide, memWf_of [] (by decide) _ rfl rfl rfl, by decide⟩⟩
  intro k hk
  simp only [List.mem_cons, List.not_mem_nil, or_false] at hk
  obtain rfl | rfl := hk <;> exact ⟨by decide, rfl, rfl, by decide, by decide⟩

/-- An answer of an instruction of which one request was refused before. -/
theorem test_meets_refusals :
    (∃ x ∈ (outstanding .remoteStore 2 0).fab.reqs.filter (fun x => !(x.unit == 0 && x.tag == 5)), x.fibre = some (⟨1, 0⟩, 9)) ∧
    (outstanding .remoteStore 2 0).canPost = true ∧ (outstanding .remoteStore 2 0).fab.refused = [] ∧
    (let s := outstanding .remoteStore 1 0
     let u := { s with fab := { s.fab with refused := [{ outReq (some (⟨1, 0⟩, 9)) none with tag := 6 }] } }
     u.fab.refused.filter (·.fibre == some (⟨1, 0⟩, 9)) = [{ outReq (some (⟨1, 0⟩, 9)) none with tag := 6 }] ∧ (fibre1 u).pending = []) := by decide +kernel

/-- A request of a fibre that is lost: a store, and a load whose lane lacks its bytes. -/
theorem test_meets_timeouts : ∀ k ∈ [OpKind.remoteStore, remoteLoad], 100000 ≤ ((outstanding k 1 100000).time - 0).toNat ∧ (outstanding k 1 100000).canPost = true ∧
    (outstanding k 1 100000).fab.reqs.filter (fun x => decide (100000 ≤ ((outstanding k 1 100000).time - x.issued).toNat) && x.fibre == some (⟨1, 0⟩, 9)) = [outReq (some (⟨1, 0⟩, 9)) none] ∧
    (fibre1 (outstanding k 1 100000)).live ≠ [] ∧
    (match loadEval .b64 3 1 ((outstanding k 1 100000).reader []) ⟨0, 2 ^ 46 + 0x20000, []⟩ with | .error rs => rs == [(2 ^ 46 + 0x20000, 8)] | .ok _ => false) = true := by
  intro k hk
  simp only [List.mem_cons, List.not_mem_nil, or_false] at hk
  obtain rfl | rfl := hk <;> exact ⟨by decide, by decide, by decide +kernel, by decide, by decide +kernel⟩

/-- Requests of package 1 under a key of context 63 that grants everything, without that key, malformed, early and past. -/
def exportKeyOf : WKey := ⟨true, 255, 0, true, true, true, 0x20000, 4096, 77, 2⟩
def serving (next : BitVec 32) (skips : List (BitVec 32)) : State := { State.reset with
  ctxs := State.reset.ctxs.modify 63 fun x => { x with valid := true, keys := [exportKeyOf] }
  fab := { State.reset.fab with seqIn := [⟨1, next, [], skips, []⟩] } }
def rreq (k : ReqKind) (key : BitVec 32) (num : Option (BitVec 32)) (data : List Byte) : RemoteReq := ⟨1, k, 0x20000, 8, data, key, num, 5, 3, 0, ⟨1, 0, true, 0, 0⟩⟩
theorem test_meets_remote_requests :
    (∀ q ∈ [rreq .read 77 none [], rreq .write 77 (some 0xFFFFFFFF) (List.replicate 8 1), rreq (.atomic 0 4) 77 (some 0xFFFFFFFF) (List.replicate 16 1),
        rreq (.increment 255) 77 (some 0xFFFFFFFF) []],
      q.link.good = true ∧ q ∉ (((serving 0xFFFFFFFF []).inSeq 1).prune 0).held ∧ (serving 0xFFFFFFFF []).tooOld q.time = false ∧ reqGood 0 q = true ∧ (q.num = none ∨ q.num = some ((serving 0xFFFFFFFF []).inSeq 1).next) ∧
      (serving 0xFFFFFFFF []).remoteHeld q = false ∧ (serving 0xFFFFFFFF []).exportKey q = some (63, exportKeyOf) ∧ exportKeyOf.grants (reqAcc q) = true ∧ isHbm (localOf q.addr) = true) ∧
    memWf (serving 0xFFFFFFFF []) ∧ (serving 0xFFFFFFFF []).exportKey (rreq .read 78 none []) = none ∧ reqGood 0 (rreq .read 77 (some 0) []) = false ∧ reqGood 0 { rreq .read 77 none [] with addr := 0x20004 } = false ∧
    reqGood 0 (rreq .other 77 none []) = false ∧
    (((serving 5 []).inSeq 1).prune 0).past 6 = false ∧ ((((serving 5 []).inSeq 1).prune 0).past 4 = true ∧ (6 : BitVec 32) ∈ (((serving 5 [6]).inSeq 1).prune 0).skips) := by
  refine ⟨?_, memWf_of [] (by decide) _ rfl rfl rfl, by decide +kernel, by decide, by decide, by decide, by decide⟩
  intro q hq
  simp only [List.mem_cons, List.not_mem_nil, or_false] at hq
  obtain rfl | rfl | rfl | rfl := hq <;> decide +kernel

/-- Package 0 and 1 joined by port 31 in slot 7; a flit of package 3 held for package 1, and one that waits for its acknowledgement. -/
def aFlit : Flit := ⟨3, 1, 1, 0, 0, 0, false, true, 0, 0, [1]⟩
def linked : State := { State.reset with
  time := 586
  fab := { State.reset.fab with
    slot := 7
    cal := [((7 * 32 + 31) * 64 + 0, 0x80 + 1), ((7 * 32 + 31) * 64 + 1, 0x80)]
    guard := false
    ports := State.reset.fab.ports.modify 31 fun p => { p with replay := [aFlit] }
    credits := [{ noCredit 1 with owed := [64, 1] }]
    landing := [aFlit] } }
theorem test_meets_links :
    ({ State.reset with time := 40, fab := { State.reset.fab with guard := true } }.fab.guard = true) ∧
    linked.livePort 1 = some 31 ∧ linked.live 1 31 = true ∧ linked.fits 1 = true ∧ 586 ≤ (linked.time - (linked.port 31).updated).toNat ∧ linked.path 1 0 1 true = some (31, 1) ∧
    linked.replayOn 31 aFlit = some (31, 1) ∧ ((∃ n ∈ (linked.credit 1).owed, n ≠ 0) ∧ (linked.credit 1).owed.length = 2) ∧
    (linked.fab.landing[0]? = some aFlit ∧ aFlit.src ≠ aFlit.dst ∧ (linked.credit 1).room (nextChan aFlit.chan) 1 = true ∧
      firstWhole linked.fab.landing = some [aFlit]) ∧
    (aFlit.good = true ∧ aFlit.dst ≠ linked.pkg.toNat ∧ linked.tooOld aFlit.time = false ∧ { linked with time := 400001 }.tooOld aFlit.time = true) ∧
    ((linked.fab.ports.zipIdx.flatMap fun (q, k) => q.replay.map fun x => (k, x))[0]? = some (31, aFlit) ∧ 31 < linked.fab.ports.length) ∧
    ({ State.reset with fab := { State.reset.fab with ports := [⟨.switching, 0, 0, [], 0⟩] } }.fab.ports[0]?.map (·.dark)) = some .switching ∧
    calOk 0 [] = false := by decide +kernel

/-- A calendar that R378 admits: four control port-slots, and four to package 1. -/
def table : List Byte := (List.range 16384).map fun k => if k % 64 = 0 ∧ k < 256 then 0xC1 else 0
theorem test_meets_calendars : calOk 0 table = true ∧ table.length = 16384 := by decide +kernel

/-! ## Of the statements on the mailbox, errors, the package and steps -/

/-- A command of the ring: operation and operands, with context 0 valid; in recovery or not. -/
def commanded (op : Nat) (ops : List Nat) (recovery : Bool) : State := { State.reset with
  mem := dws hostBase ([op + 7 * 2 ^ 48] ++ ops)
  mbox := { Mailbox.reset with cmdSize := 16, cmdTail := 1 }
  fw := { Firmware.reset with recovery := recovery }
  attach := { Attach.reset with cacheOn := true }
  ctxs := State.reset.ctxs.modify 0 fun x => { x with valid := true } }
def commandOk (op : Nat) (ops : List Nat) (r : Bool) : Bool :=
  match (commanded op ops r).nextCmd with | some c => c.op.toNat == op && (c.dws.take ops.length).map (·.toNat) == ops && Memory.wf (commanded op ops r).mem | none => false
/-- Every command, with operands at the ends of their ranges. -/
theorem test_meets_commands :
    (∀ p ∈ [(1, [63, 1, 0, 0, 0]), (1, [64]), (1, [63, 1, 1, 0, 0]), (2, [15, 0, 0, 0]), (2, [16, 0, 0, 0]), (2, [15, 0, 0, 1]), (3, [0x1000, 64, 8]), (3, [0x1000, 65, 8]), (4, [0]),
      (5, [63, 0, 1]), (5, [64, 0, 1]), (6, [0, 4096, 0]), (6, [64, 4096, 0]), (7, [0]), (7, [64]), (7, [1]), (8, [0]), (8, [64]), (9, [0]), (9, [64]),
      (10, [2 ^ 56 + 2 ^ 57, 4096, 4096, 0, 2]), (10, [8, 4096, 4096]), (11, [0, 64, 4096]), (12, [1199]), (12, [1200]), (12, [2400]), (12, [2401]), (0, [0]), (13, [0]), (255, [0])],
      commandOk p.1 p.2 false = true) ∧
    (∀ n ∈ [0, 1, 11, 13], commandOk n [0] true = true) ∧
    ((commanded 7 [0] false).ctx 0).valid = true ∧ ((commanded 7 [0] false).ctx 0).preempt = none ∧ ((commanded 9 [0] false).ctx 0).dying = false ∧ (commanded 9 [0] false).canPost = true ∧
    (∀ c, (commanded 10 [2 ^ 56 + 2 ^ 57, 4096, 4096, 0, 2] false).nextCmd = some c → keyBad 0 c = false) ∧
    State.reset.mbox.held = [] ∧ (3 + 3) / 2 ≤ { Mailbox.reset with evSize := 16 }.room ∧ Mailbox.reset.room < 1 := by
  refine ⟨by decide +kernel, by decide +kernel, by decide, by decide, by decide, by decide, ?_, rfl, by decide, by decide⟩
  intro c hc
  have h : ((commanded 10 [2 ^ 56 + 2 ^ 57, 4096, 4096, 0, 2] false).nextCmd).all (fun c => !keyBad 0 c) = true := by decide +kernel
  rw [hc] at h
  simpa using h

/-- Errors in each place; a valid context. -/
theorem test_meets_errors : memWf base ∧ base.canPost2 = true ∧
    (∀ t ∈ [SramTarget.regRow ⟨1, 0⟩ 55 15, .scratchWord 47 32760, .l1Line 0, .fifoWord 1 0, .accElem 7 65532, .clauseCache, .galleryRow 63 15 0], ∀ u ∈ [true, false],
      (⟨127, 0, 0, 0, 0, u, t⟩ : SramError).core < base.cores.length) ∧
    ((⟨127, 63, 0, 0, 0, true, .barrier⟩ : StateError).ctx.toNat < base.ctxs.length ∧ (base.ctx 63).dying = false) ∧
    (∀ t ∈ [ClusterTarget.messageRow 15 0 0, .messageHeader 15 0, .reservation 31, .rasteriser 0], (⟨31, 63, 0, true, t⟩ : ClusterError).cluster < base.clusters.length) ∧
    (isHbm 0 = true ∧ isHost hostBase = true) ∧ (∀ l ∈ base.launches, l.recordOf 0 = none) ∧ base.mbox.held.length + base.ctxs.length ≤ 1024 :=
  ⟨memWf_of [] (by decide) _ rfl rfl rfl, by decide, by decide, by decide, by decide, by decide, by decide, by decide⟩

/-- Both windows of the HDM range; a host line; powers and temperatures at their ends. -/
def attached (r : Bool) : State := { State.reset with attach := { Attach.reset with retry := r, memOn := true, cacheOn := true, hdmBase := 2 ^ 40 } }
theorem test_meets_package : hdmLocal (2 ^ 40) (2 ^ 40) = some 0 ∧ hdmLocal (2 ^ 40) (2 ^ 40 + 0x3000000000) = some 0x4000000000 ∧ hdmLocal (2 ^ 40) (2 ^ 40 - 1) = none ∧
    (attached false).attach.memOn = true ∧ (0 : Nat) / 4096 = (0 + 4096 - 1) / 4096 ∧ memWf (attached false) ∧ isHost hostBase = true ∧ hostBase % 64 = 0 ∧
    (∀ m p, ({ attached false with mem := m, poison := p } : State).bankOf hostBase = none) ∧ (attached true).attach.retry = true ∧
    1 ≤ State.reset.power.gcap.toNat ∧ State.reset.power.gcap.toNat ≤ 8 ∧ 1 ≤ State.reset.power.fcap.toNat ∧ State.reset.power.fcap.toNat ≤ 8 ∧
    (109 : BitVec 8).toNat < 110 ∧ State.reset.canPost = true :=
  ⟨by decide, by decide, by decide, rfl, by decide, memWf_of [] (by decide) _ rfl rfl rfl, by decide, by decide, fun _ _ => rfl, rfl, by decide, by decide, by decide,
    by decide, by decide, by decide⟩

/-- A bundle that issues a word that decodes, and one that does not; a step without work; an event that is due. -/
theorem test_meets_steps : (∀ w ∈ [0x7A00000000000007, 0xFF00000000000007],
      (State.reset.withFetchWord 64 w).cur = some ⟨1, 0⟩ ∧ (State.reset.withFetchWord 64 w).issuing? ⟨1, 0⟩ = some (BitVec.ofNat 64 w) ∧
      (fibre1 (State.reset.withFetchWord 64 w)).issue ≠ none ∧ (fibre1 (State.reset.withFetchWord 64 w)).interlocked (team1 base) [] = false ∧ (fibre1 base).handler = none ∧
      targetOk (base.recOf (team1 base)) (fibre1 base).tvec = true ∧ (fibre1 base).ops.any Op.isWindow = false) ∧
    decodeWord 0x7A00000000000007 = .ok (.nop (sf 0 0 0)) ∧ decodeWord 0xFF00000000000007 = .error .reservedMajor ∧ State.reset.cur = none ∧
    base.on = true ∧ ({ base with cur := none } : State).works.any (fun w => match w with | .instr r w => r == (⟨1, 0⟩ : FibreRef) && w == 0 | _ => false) = true :=
  ⟨by decide +kernel, rfl, rfl, rfl, rfl, by decide +kernel⟩

/-- An instruction with its word. -/
theorem test_meets_encoding : (Instr.nop (sf 0 0 0)).firstBad = none ∧ encode (.nop (sf 0 0 0)) = some 0x7A00000000000007 := by decide

/-- A step from a state whose memory is canonical. -/
theorem test_meets_canonical : ∃ s t, memWf s ∧ step s = .next t := by
  have h : (match step base with | .next _ => true | _ => false) = true := by decide +kernel
  cases hs : step base with
  | next t => exact ⟨base, t, memWf_of [] (by decide) _ rfl rfl rfl, hs⟩
  | fault e => rw [hs] at h; cases h
  | refused e => rw [hs] at h; cases h

/-! ## Forms and branches of the statements that need a state of their own -/

/-- Member masks in v12, for the lower eight threads: none of them, just them, and a thread that stands elsewhere too. -/
def memf (d a b : Nat) : VF := vf d a b 12 2 g0
def mates (m : Nat) : State := setReg half 12 fun _ => BitVec.ofNat 64 m
def memB (k : Nat) (c : Ctx) : Bool :=
  let m := (c.src 4 12 0 0).val c.low
  !c.act.isEmpty && !((c.src 4 12 0 0).row c.low).poison && if k = 0 then c.act.all fun l => !m.getLsbD l else
    c.act.all m.getLsbD && (c.live.all fun l => c.act.contains l || (c.f.thread l).atRendezvous.isNone) && c.f.handler.isNone && c.arrivalOk &&
      if k = 1 then (c.live.all fun l => !m.getLsbD l || c.act.contains l) && (c.s.filedFrom c.r).isEmpty else c.live.any fun l => m.getLsbD l && !c.act.contains l
theorem test_meets_member_forms : ∀ p ∈ [(0xFF00, 0), (0x00FF, 1), (0x01FF, 2)],
    Met (.shfl 8 (memf 3 4 5)) (memberNames (memf 3 4 5) true 2) (fun _ c => memB p.2 c = true ∧ permWidthOk (memf 3 4 5) c.w = true ∧
      ∀ l ∈ c.act, shflPoison 8 c.w (c.srcA (memf 3 4 5) .b64) (c.srcB (memf 3 4 5) .b64) c.act.contains l = none) ∧
    (∀ i ∈ [Instr.voteAny (memf 1 15 0), .voteAll (memf 1 15 0)], Met i { memberNames (memf 1 15 0) false 0 with codes := [(28, 12)] } fun _ c => memB p.2 c = true) ∧
    ∀ i ∈ [Instr.voteBallot (memf 3 15 0), .voteCount (memf 3 15 0)], Met i { memberNames (memf 3 15 0) true 0 with codes := [(28, 12)] } fun _ c => memB p.2 c = true := by
  intro p hp
  simp only [List.mem_cons, List.not_mem_nil, or_false] at hp
  have k : ∀ m k i n, (issuing i n (mates m)).any (memB k) = true → Met i n fun _ c => memB k c = true := fun m k _ _ h => meets (mates m) (memB k) (fun _ h => h) h
  have j : ∀ m k, (issuing (.shfl 8 (memf 3 4 5)) (memberNames (memf 3 4 5) true 2) (mates m)).any (fun c => decide (memB k c = true ∧ permWidthOk (memf 3 4 5) c.w = true ∧
      ∀ l ∈ c.act, shflPoison 8 c.w (c.srcA (memf 3 4 5) .b64) (c.srcB (memf 3 4 5) .b64) c.act.contains l = none)) = true →
      Met (.shfl 8 (memf 3 4 5)) (memberNames (memf 3 4 5) true 2) fun _ c => memB k c = true ∧ permWidthOk (memf 3 4 5) c.w = true ∧
      ∀ l ∈ c.act, shflPoison 8 c.w (c.srcA (memf 3 4 5) .b64) (c.srcB (memf 3 4 5) .b64) c.act.contains l = none := fun m k h => meetsD (mates m) _ (fun _ h => h) h
  obtain rfl | rfl | rfl := hp
  · exact ⟨j 0xFF00 0 (by decide), by intro i hi; simp only [List.mem_cons, List.not_mem_nil, or_false] at hi; obtain rfl | rfl := hi <;> exact k 0xFF00 0 _ _ (by decide),
      by intro i hi; simp only [List.mem_cons, List.not_mem_nil, or_false] at hi; obtain rfl | rfl := hi <;> exact k 0xFF00 0 _ _ (by decide)⟩
  · exact ⟨j 0x00FF 1 (by decide), by intro i hi; simp only [List.mem_cons, List.not_mem_nil, or_false] at hi; obtain rfl | rfl := hi <;> exact k 0x00FF 1 _ _ (by decide),
      by intro i hi; simp only [List.mem_cons, List.not_mem_nil, or_false] at hi; obtain rfl | rfl := hi <;> exact k 0x00FF 1 _ _ (by decide)⟩
  · exact ⟨j 0x01FF 2 (by decide), by intro i hi; simp only [List.mem_cons, List.not_mem_nil, or_false] at hi; obtain rfl | rfl := hi <;> exact k 0x01FF 2 _ _ (by decide),
      by intro i hi; simp only [List.mem_cons, List.not_mem_nil, or_false] at hi; obtain rfl | rfl := hi <;> exact k 0x01FF 2 _ _ (by decide)⟩

/-- `join.m` that names no active thread; `reform` that waits for a window to close; a draw beside another bin that is eligible. -/
def twoBins : State := (binned fullBin).modCore 0 fun c => { c with gallery := [some fullBin, some { fullBin with pc := 24 }] }
theorem test_meets_rendezvous_and_draws :
    Met (.joinM (sf 0 4 0 g0)) (sNames (sf 0 4 0 g0) false true) (fun _ c => c.act ≠ [] ∧ ((c.plain 2 4).row c.low).poison = false ∧
      ∀ l ∈ c.act, ((c.plain 2 4).val c.low &&& maskOf (List.range c.w)).getLsbD l = false) ∧
    Met (.reform (sf 0 0 0)) (sNames (sf 0 0 0) false false) (fun _ c => c.act ≠ [] ∧ c.f.handler = none ∧ c.f.writesOpen = true) ∧
    ((binned fullBin).otherBins 0 0 = [] ∧ ∀ T ∈ (binned fullBin).teams, ∀ F ∈ T.fibres, ∀ x ∈ F.threads, x.atRendezvous = none) ∧
    (twoBins.drawDue 0 0 = true ∧ twoBins.otherBins 0 0 = [1] ∧ ∀ T ∈ twoBins.teams, ∀ F ∈ T.fibres, ∀ x ∈ F.threads, x.atRendezvous = none) :=
  ⟨meetsD (setReg half 4 fun _ => 0xFF00) _ (fun _ h => h) (by decide),
    meetsD (withOp base (opOf .load (.window 0 2) [] false)) (fun c => c.act ≠ [] ∧ c.f.handler = none ∧ c.f.writesOpen = true) (fun _ h => h) (by decide),
    by decide, by decide⟩

/-- Arrivals that wait for a window, and for the phase to end; the last arrival of a team, with another thread Blocked, and an early one. -/
def twice : State := setTeam base fun t => { t with slots := t.slots.map fun (x : Slot) => { x with bars := x.bars.map fun b => { b with arrivals := b.arrivals.map (· + 1) } } }
def barred (arr : Nat → Bool) : State := setThreads half fun l t => { t with
  arrived := if arr l then 0x8000 else 0
  st := if arr l ∧ 8 ≤ l then .blocked (.tbar 15 (decide (l = 15)) true) (.tbar (sf 0 0 15)) 0 else t.st }
theorem test_meets_arrivals :
    Met (.fbarArrive (sf 0 0 3)) (sNames (sf 0 0 3) false false) (fun _ c => 0 ≤ c.slot.count ∧ c.act ≠ [] ∧ (c.bar 3).arrivals.getD c.pos 0 ≤ (c.bar 3).phases ∧ c.arrivalOk = false) ∧
    Met (.fbarArrive (sf 0 0 3)) (sNames (sf 0 0 3) false false) (fun _ c => 0 ≤ c.slot.count ∧ c.act ≠ [] ∧ (c.bar 3).phases < (c.bar 3).arrivals.getD c.pos 0) ∧
    Met (.tbar (sf 0 0 15)) (sNames (sf 0 0 15) false false) (fun _ c => c.act ≠ [] ∧ c.arrivalOk = false) ∧
    Met (.tbar (sf 0 0 15 g0)) (sNames (sf 0 0 15 g0) false false) (fun s c => c.act ≠ [] ∧ c.arrivalOk = true ∧ (∀ l ∈ c.act, hasArrived 15 (c.f.thread l) = false) ∧
      (∀ l ∈ c.live, l ∉ c.act → hasArrived 15 (c.f.thread l) = true) ∧ s.filedOf c.r.team = [] ∧ (team1 s).fibres.length = 1) ∧
    Met (.tbar (sf 0 0 15 g0)) (sNames (sf 0 0 15 g0) false false) (fun _ c => c.act ≠ [] ∧ c.arrivalOk = true ∧ (∀ l ∈ c.act, hasArrived 15 (c.f.thread l) = true) ∧
      ∃ l ∈ c.live, l ∉ c.act ∧ hasArrived 15 (c.f.thread l) = false) :=
  ⟨meetsD (withOp base (opOf .load (.window 0 2) [] false)) _ (fun _ h => h) (by decide), meetsD twice _ (fun _ h => h) (by decide),
    meetsD (withOp base (opOf .load (.window 0 2) [] false)) (fun c => c.act ≠ [] ∧ c.arrivalOk = false) (fun _ h => h) (by decide),
    meetsD (barred (8 ≤ ·)) (fun c => c.act ≠ [] ∧ c.arrivalOk = true ∧ (∀ l ∈ c.act, hasArrived 15 (c.f.thread l) = false) ∧
      (∀ l ∈ c.live, l ∉ c.act → hasArrived 15 (c.f.thread l) = true) ∧ ((barred (8 ≤ ·)).filedOf c.r.team).isEmpty = true ∧ (team1 (barred (8 ≤ ·))).fibres.length = 1)
      (fun _ h => ⟨h.1, h.2.1, h.2.2.1, h.2.2.2.1, List.isEmpty_iff.mp h.2.2.2.2.1, h.2.2.2.2.2⟩) (by decide),
    meetsD (barred (· < 8)) (fun c => c.act ≠ [] ∧ c.arrivalOk = true ∧ (∀ l ∈ c.act, hasArrived 15 (c.f.thread l) = true) ∧
      ∃ l ∈ c.live, l ∉ c.act ∧ hasArrived 15 (c.f.thread l) = false) (fun _ h => h) (by decide)⟩

/-- `trec` under a recompute span, which records nothing, and where the policy or the tape makes an entry that does not fit a fault. -/
def rcOpen : State := taped 2 4096 [{ spanRc with isOpen := true }] []
def faulting : State := { taped 2 48 [spanRec] [] with launches := (taped 2 48 [spanRec] []).launches.map fun (x : Launch) => { x with lrec := { x.lrec with tpolFault := true } } }
def trecSize (c : Ctx) : Nat := c.entryCharge c.act (c.maskRegs ((c.plain 2 4).val c.low)) (maskPreds ((c.plain 2 4).val c.low)) false
theorem test_meets_tape_limits :
    Met (.trec (sf 0 4 0)) (sNames (sf 0 4 0) false true) (fun _ c => tapeUsual (areaOf rcOpen) true c ∧ (areaOf rcOpen).used + trecSize c ≤ (areaOf rcOpen).quota ∧
      ∀ l ∈ c.act, (c.tapeOf (areaOf rcOpen) l).replay = false ∧ (c.tapeOf (areaOf rcOpen) l).isRc = true) ∧
    Met (.trec (sf 0 4 0)) (sNames (sf 0 4 0) false true) (fun _ c => tapeUsual (areaOf faulting) true c ∧ (areaOf faulting).quota < (areaOf faulting).used + trecSize c ∧
      trecSize c < 2 ^ 32 ∧ c.lr.tpolFault = true) :=
  ⟨meetsD rcOpen (fun c => (c.s.area? c.lr = some (areaOf rcOpen) ∧ c.act ≠ [] ∧ c.recForbidden (areaOf rcOpen) = false ∧
      (c.act.map fun l => (c.f.thread l).tid).Nodup ∧ (true = true → ((c.plain 2 4).row c.low).poison = false ∧ c.regsPending (c.maskRegs ((c.plain 2 4).val c.low)) = false)) ∧
      (areaOf rcOpen).used + trecSize c ≤ (areaOf rcOpen).quota ∧ ∀ l ∈ c.act, (c.tapeOf (areaOf rcOpen) l).replay = false ∧ (c.tapeOf (areaOf rcOpen) l).isRc = true)
      (fun _ h => h) (by decide +kernel),
    meetsD faulting (fun c => (c.s.area? c.lr = some (areaOf faulting) ∧ c.act ≠ [] ∧ c.recForbidden (areaOf faulting) = false ∧
      (c.act.map fun l => (c.f.thread l).tid).Nodup ∧ (true = true → ((c.plain 2 4).row c.low).poison = false ∧ c.regsPending (c.maskRegs ((c.plain 2 4).val c.low)) = false)) ∧
      (areaOf faulting).quota < (areaOf faulting).used + trecSize c ∧ trecSize c < 2 ^ 32 ∧ c.lr.tpolFault = true) (fun _ h => h) (by decide +kernel)⟩

/-- A triangle of one pixel in a queue that holds `n` items of 64, or that does not pass its checks. -/
def onePixel : Tri := ⟨0, 0, [0xBF800000BF800000, 0x3F8000003F000000, 0xBF80000040400000, 0x3F8000003F000000, 0x40400000BF800000, 0x3F8000003F000000], 7,
  BitVec.ofNat 64 (vbase + 0x22000), 0, 1, 1⟩
def rasterising (n : Nat) (good : Bool) : State := { base.modCore 0 fun x => { x with rasterIn := [onePixel] } with
  mem := if good then pages ++ dws 0x22000 [vbase + 0x30000, 64 + 2 * 2 ^ 32, 0, n, n] else [] }
def pixelB (n : Nat) (good : Bool) : Bool :=
  let s := rasterising n good
  let u := (s.modCore 0 fun c => { c with rasterIn := [] }).modCluster 0 fun c => { c with
    rasterNext := 1
    raster := triChunks s.tick onePixel }
  match triChunks s.tick onePixel with
  | [y] => y.items.length == 1 && (match u.queueCheck ⟨y.ctx, 999, 0⟩ y.desc.toNat (if y.size == 2 then 0 else 1) y.size with
    | .error _ => !good && s.mbox.held.length < 1023 && !(s.ctx y.ctx).dying && y.ctx < s.ctxs.length
    | .ok (pa, q) => good && if n = 64 then q.cap - (q.tail - q.head) < y.items.length else
        y.items.length ≤ q.cap - (q.tail - q.head) && (u.ownedOf (u.itemPlaces y.ctx q y.items.length)).isEmpty && (u.reserve y.ctx 128 pa q y.items none).isSome)
  | _ => false
theorem test_meets_pixel_queues : pixelB 0 true = true ∧ pixelB 63 true = true ∧ pixelB 64 true = true ∧ pixelB 0 false = true := by decide +kernel

/-- A `qpush` that is parked, and its queue with space, or broken. -/
def parkedB (s : State) (good : Bool) : Bool :=
  let T := team1 s
  let F := fibre1 s
  match F.parkGroups with
  | [g] => g.i == .qpush 0 qpf && (F.ops.find? fun o => o.kind == .queue g.grp).isSome && (match s.queueCheck ⟨T.ctx, T.coreOf 0, T.uid⟩ g.desc.toNat 0 0 with
    | .error _ => !good
    | .ok (pa, q) => good && g.lanes.length ≤ q.cap - (q.tail - q.head) && (s.ownedOf (s.itemPlaces T.ctx q g.lanes.length)).isEmpty && !g.lanes.isEmpty &&
        (s.reserve T.ctx (T.coreOf 0) pa q (g.lanes.map fun _ => List.replicate 8 0) (some (⟨1, 0⟩, 9))).isSome)
  | _ => false
theorem test_meets_parked_pushes : parkedB parkedPush true = true ∧ parkedB { parkedPush with mem := pages } false = true := by decide +kernel

/-- A sender whose turn it is not: core 1 of its cluster has a send that is ready, and its turn. -/
def contended : State :=
  let s := parkedMsg 7 (.msnd 15 (msgf 0))
  { (messaged 7).modCluster 0 fun x => { x with sendNext := 1 } with teams := (messaged 7).teams ++ [{ team1 s with uid := 2, core := 1 }] }
theorem test_meets_port_turns : Met (.msnd 15 (msgf 0)) (rNames (msgf 0) 0 1 1 0) fun _ c => c.act ≠ [] ∧ ((c.plain 3 8).row c.low).poison = false ∧
    (c.s.msgQueue (c.core / 4) 15).msgs.length < 8 ∧ c.s.portTurn c.core = false :=
  meetsD contended _ (fun _ h => h) (by decide +kernel)

/-- The threads wait at the end of an operation's window; a younger write behind an older window of the same register; accesses that are held. -/
def windowed : State := withOp (holding .load (.window 0 0) true) { heldOp .load .async true with id := 10 }
def readLanes : List LaneAcc := [⟨14, 4096, []⟩, ⟨15, 4104, []⟩]
def heldStore : StoreItem := ⟨15, 4096, none, [1, 2, 3, 4]⟩
theorem test_meets_landing_order :
    ((fibre1 (holding .load (.window 0 0) true)).waiters (heldOp .load (.window 0 0) true) ≠ [] ∧ ∀ l ∈ List.range 16, (fibre1 base).standing l = some (0, 0)) ∧
    ((fibre1 windowed).ops = [heldOp .load (.window 0 0) true, { heldOp .load .async true with id := 10 }] ∧ ((fibre1 windowed).ops.map (·.id)).Nodup ∧
      (heldOp .load (.window 0 0) true).isWindow = true) ∧
    (∀ i ∈ [Instr.ld .b64 (mf 55 4 63 0), .ld .f32 (mf 55 4 63 0)], (fibre1 (holding (.read i readLanes) (.window 0 0) false)).ops = [heldOp (.read i readLanes) (.window 0 0) false] ∧
      (readLanes.map (·.lane)).Nodup) ∧
    ((heldOp (.held (.ld .b64 (mf 55 4 63 0)) readLanes []) .async false).classes = [.ld] ∧ heldAtom (.ld .b64 (mf 55 4 63 0)) readLanes = none ∧
      ∀ x ∈ readLanes, ∀ g ∈ (base.place x.pa).granules (heldSpan (.ld .b64 (mf 55 4 63 0))), base.engineOwned g = false) ∧
    (memWf base ∧ heldAtom (.st .b64 (mf 0 4 8 0)) [] = none ∧ base.place heldStore.pa = .ram 4096 ∧ ∀ g ∈ (base.place heldStore.pa).granules heldStore.bytes.length, base.engineOwned g = false) := by
  refine ⟨by decide, by decide, ?_, by decide, memWf_of [] (by decide) _ rfl rfl rfl, rfl, by decide, by decide⟩
  intro i hi
  simp only [List.mem_cons, List.not_mem_nil, or_false] at hi
  obtain rfl | rfl := hi <;> exact ⟨rfl, by decide⟩

/-- A queue-bound record in a launch queue, with no launch bound to its shader queue, or one. -/
def boundWords : List Nat := [64 + 2 * 2 ^ 16 + 15 * 2 ^ 8 + 2 ^ 15 + 2 ^ 19, vbase, 4096 * 2 ^ 32, 0, 8 * 2 ^ 20 + 64] ++ List.replicate 19 0 ++ [vbase + 0x24000] ++ List.replicate 7 0
def queuedBound (ls : List Launch) : State := { queuedRecord true with
  mem := pages ++ dws 0x21000 [vbase + 0x22000, vbase + 0x23000, 4, 0, 1, 64, 0, 0] ++ dws 0x22000 boundWords ++
    dws 0x24000 [vbase + 0x25000, 64, 0, 1, 1, vbase + 0x22000, 2 ^ 32 + 1]
  launches := ls }
def boundB (ls : List Launch) : Bool :=
  let s := queuedBound ls
  let w (k : Nat) : Word := (s.readWords 0 (vbase + 0x22000) 32).getD k 0
  let r : LaunchRec := { recFrom w with ctx := 0 }
  r.qbound && s.refusal 0 (vbase + 0x22000) w == none && (match s.boundQueue? r (vbase + 0x22000) with
    | some (pa, d) => pa == 0x24000 && d.head == 0 && s.launches.filter (s.bindsQueue pa) == ls
    | none => false)
theorem test_meets_bound_queues : boundB [] = true ∧ boundB [aLaunch .ready boundRec] = true := by decide +kernel

/-- Giving up frames changes neither the teams nor the number of the package. -/
theorem dropped_teams (l : List Nat) (a : Nat) (s : State) : let t := l.foldl (fun (s : State) k => s.dropSector (a + k)) s
    t.teams = s.teams ∧ t.pkg = s.pkg := by
  induction l generalizing s with
  | nil => exact ⟨rfl, rfl⟩
  | cons x l ih =>
    have h : (s.dropSector (a + x)).teams = s.teams ∧ (s.dropSector (a + x)).pkg = s.pkg := by
      dsimp only [State.dropSector]
      split <;> exact ⟨rfl, rfl⟩
    exact ⟨(ih _).1.trans h.1, (ih _).2.trans h.2⟩
/-- A page whose reclaim entry lies elsewhere, in the state that its commit leaves. -/
theorem test_meets_requantiser_commit : memWf converting ∧
    ((∃ e ∈ converting.tlb, e.fmtp = true ∧ pkgOf e.frame = converting.pkg.toNat ∧ isHbm (localOf e.frame) = true ∧ localOf e.frame = 0x10000)) ∧
    (∀ j < 16, ∀ k < 2 ^ 16, (Place.ram 0x100000).add j ≠ .ram (0x10000 + k)) ∧ (converting.commitPage 0x10000).place 0x100000 = .ram 0x100000 := by
  refine ⟨⟨by decide +kernel, ?_, (memWf_of [] (by decide) { converting with mem := [], home := [] } rfl rfl rfl).2.2⟩, ⟨_, List.mem_cons_self .., by decide⟩, ?_, ?_⟩
  · show Memory.wf ((idlePage 0).setHeader 0x10000 5 0 0x40).home = true
    unfold State.setHeader
    exact Laws.ramWrite_home_wf rfl rfl _ _ _
  · intro j hj k hk h
    simp only [Place.add, Place.ram.injEq] at h
    omega
  · have h : (converting.commitPage 0x10000).teams = [] ∧ (converting.commitPage 0x10000).pkg = 0 := by
      simp only [State.commitPage, State.dropFrames]
      exact ⟨(dropped_teams ..).1, (dropped_teams ..).2⟩
    simp only [State.place, State.bankOf, h.1, h.2]
    rfl

/-- A frame of an FP8 format page that a key of context 63 exports. -/
def named : State := { serving 0xFFFFFFFF [] with
  tlb := [⟨0, 0, 0x20000, 65536, true, false, true⟩]
  mem := dws 0x20008 [0, 0x40] }
theorem test_meets_format_page_store : (rreq .write 77 (some 0xFFFFFFFF) (List.replicate 8 1)).link.good = true ∧
    (match named.place 0x20000 with
      | .ram la => named.namedPages.find? fun b => b / 65536 == la / 65536 && (named.pageFmt b == 4 || named.pageFmt b == 5)
      | _ => none) = some 0x20000 := by decide +kernel

/-- Answers that pass the link's check, and one that does not; a get none of whose pages is an FP8 page. -/
theorem test_meets_link_checks : (answer false 0).link.good = true ∧ ({ (answer false 0) with link := { (answer false 0).link with good := false } } : FabricAnswer).link.good = false ∧
    (answer true 0).refused = true ∧ ({ xferOf .get [] with near := [] } : Xfer).pages = [] := by decide

/-- A page reply to a fibre that waits for two pages; an event with room in the ring. -/
def replied (op3 : Nat) : State := { commanded 6 [0, vbase, op3] false with
  launches := base.launches
  pageReqs := [⟨0, vbase / 4096, 0⟩]
  teams := (setFibre base fun f => { f with issue := none, pageWait := some ⟨[BitVec.ofNat 64 (vbase + 4096), BitVec.ofNat 64 (vbase + 8)], 3, ⟨7, 0, 0, 0, 0, 3⟩⟩ }).teams }
theorem test_meets_page_reply : (∀ x ∈ [0, 1], (match (replied x).nextCmd with | some c => c.op == 6 && (c.dws.take 3).map (·.toNat) == [0, vbase, x] | none => false) = true ∧
      memWf (replied x) ∧ ((replied x).ctx 0).dying = false ∧ (⟨0, vbase / 4096, 0⟩ : PageReq) ∈ (replied x).pageReqs ∧ (replied x).canPost = true ∧ ((replied x).ctx 0).valid = true ∧
      ∃ w, (fibre1 (replied x)).pageWait = some w ∧ (∃ a ∈ w.vas, a.toNat / 4096 = vbase / 4096) ∧ (team1 (replied x)).coreOf 0 / 64 = 0) ∧
    (let s := { commanded 7 [0] false with mbox := { (commanded 7 [0] false).mbox with evSize := 16 } }
     s.mbox.held = [] ∧ s.attach.cacheOn = true ∧ (3 + 3) / 2 ≤ s.mbox.room ∧ (3 + 3) / 2 ≤ s.mbox.evSize.toNat ∧ s.mbox.evBase.toNat + s.mbox.evSize.toNat * 16 ≤ 2 ^ 45) := by
  refine ⟨?_, by decide +kernel⟩
  intro x hx
  simp only [List.mem_cons, List.not_mem_nil, or_false] at hx
  obtain rfl | rfl := hx <;> exact ⟨by decide +kernel, memWf_of (dws hostBase _) (by decide +kernel) _ rfl rfl rfl, by decide +kernel, by decide +kernel, by decide +kernel, by decide +kernel,
    _, rfl, ⟨_, List.mem_cons_of_mem _ (List.mem_cons_self ..), by decide⟩, by decide⟩

/-- Every array of a core that an error can hit, of context 0; a sector of a tape area that holds spilled rows. -/
def arrays : State := { (binned fullBin).modCore 0 fun c => { c with
  banks := ((c.banks.set 0 ⟨.l1, [], []⟩).set 8 ⟨.regShare (team1 base).launch, [], []⟩).set 9 ⟨.scratch 1 0 32768, [], []⟩ |>.set 10 ⟨.fifo 1 true none, [], []⟩
  acc := c.acc.set 7 ⟨some 1, [], []⟩ } with areas := (taped 2 4096 [spanOne] []).areas }
theorem test_meets_array_errors :
    (∀ p ∈ [(8, 4095, SramTarget.regRow ⟨1, 0⟩ 55 15), (9, 4095, .scratchWord 9 32760), (47, 4095, .scratchWord 47 32760), (0, 4095, .l1Line 0), (10, 4095, .fifoWord 1 0),
        (7, 8191, .accElem 7 65532), (0, 0, .clauseCache), (0, 0, .galleryRow 0 15 0)],
      arrays.sramOk ⟨0, 0, BitVec.ofNat 6 p.1, BitVec.ofNat 13 p.2.1, 0, true, p.2.2⟩ = true) ∧
    (let s := taped 2 4096 [spanOne] []
     s.areas = [areaOf s] ∧ s.areaCovers (areaOf s) 0 = true ∧ s.areaCovers (areaOf s) 4096 = false ∧ s.spilledRows (areaOf s) ≠ [] ∧ isHbm 0 = true) := by decide +kernel

/-- Recovery, a line no bank backs whatever memory holds, a store beside the format pages, and the mailbox work and inputs that a step may take. -/
theorem test_meets_package_work : (∀ m h p, ({ attached false with mem := m, home := h, poison := p } : State).bankOf hostBase = none) ∧
    (attached false).namedPages = [] ∧ (commanded 11 [0, 64, 4096] true).fw.recovery = true ∧ base.fab.sendQ = [] ∧ (commanded 7 [0] false).commandWork ≠ [] ∧
    ({ State.reset with inbox := [.powerLoss] } : State).inputWork = [.input .powerLoss] ∧ ({ attached true with inbox := [.configurationRequest .read] } : State).inputWork ≠ [] ∧
    (∀ T ∈ inHandler.teams, ∀ F ∈ T.fibres, ∀ x ∈ F.threads, x.atRendezvous = none) :=
  ⟨fun _ _ _ => rfl, by decide +kernel, rfl, rfl, by decide +kernel, by decide +kernel, by decide +kernel, by decide +kernel⟩

/-! ## Decoding: words written out from the spec's encodings

Each word is 64 bits: major [63:56], sub [55:52], then the fields of the format of R76 to R84. -/

def dec (w : Nat) : Option Instr := match decodeWord (BitVec.ofNat 64 w) with | .ok i => some i | .error _ => none
def refusal (w : Nat) : Option Nat := match decodeWord (BitVec.ofNat 64 w) with | .ok _ => none | .error e => some e.bit
def decAll (ps : List (Nat × Instr)) : Bool := ps.all fun p => dec p.1 == some p.2

/-- Format V: `imul.n32 v4, v1, v2, hi` (R102); `ffma.f32 v3, v4, v5, v6` with abs c, pattern 1 on b with p = 1, clamp 1 and guard p2
(R76 to R79); `fcvt` with SD from f16 to e2m1, group 3 (R115). -/
theorem test_decode_vector : decAll [
    (0x0351010820000007, .imul .n32 (vf 4 1 2 2)),
    (0x42A0C41468010502, .ffma .f32 ⟨3, 4, 5, 6, 0x20, 0, 1, 1, 1, 0, ⟨false, false, 2⟩⟩),
    (0x50524837A0000007, .fcvt 5 (vf 9 8 13 0x3A))] = true := by decide

/-- Format M: a load with kc as index; `atom` operation 1 with type f32 in [33:30] (R157); transfers (R396); a collective (R400). -/
theorem test_decode_memory : decAll [
    (0x808143FC00020007, .ld .b64 ⟨5, 3, 63, 8, 0, false, 0, 0, g7⟩),
    (0x8411020E80040007, .atom 1 ⟨4, 2, 3, 0xA0010, 0, false, 0, 0, g7⟩),
    (0xB500061C00400002, .gscat 0 ⟨0, 6, 7, 0x100, 0, false, 0, 0, ⟨false, false, 2⟩⟩),
    (0xC8200A3000000007, .qpush 2 ⟨0, 10, 12, 0, 0, false, 0, 0, g7⟩),
    (0xD2028B30002529E7, .put ⟨10, 11, 12, 0x94, 2, true, 0, 15, g7⟩),
    (0xD5028B3000250807, .trigPut ⟨10, 11, 12, 0x94, 0, true, 0, 0, g7⟩),
    (0xD60515580C020807, .collAllreduce ⟨20, 21, 22, 0x3008, 0, true, 0, 0, g7⟩)] = true := by decide

/-- Format X (R83): tiles, matrices, the gradient engine and the accumulator's grant. -/
theorem test_decode_tile : decAll [
    (0xA2081201000001E7, .mma 0 { xf 8 1 2 0 with tB := true, la := 15 }),
    (0xA4001250028001E7, .gmma { xf 0 1 2 20 with k := 2, fields := 0x4000, la := 15 }),
    (0xA003004000000007, .tdesc (xf 3 0 0 16)),
    (0xA500000004000007, .acqa { xf 0 0 0 0 with k := 4 }),
    (0xA600000000000007, .rela (xf 0 0 0 0))] = true := by decide

/-- Format B (R82): a taken branch back one clause under p1, an indirect branch, a call and a return. -/
theorem test_decode_branch : decAll [
    (0x70003FFFFFFE0001, .bra ⟨0, 0xFFFFFFF8, ⟨false, false, 1⟩⟩),
    (0x7101400000000007, .brx ⟨5, 0, g7⟩),
    (0x7205000000080007, .call ⟨20, 32, g7⟩),
    (0x7305000000000007, .ret ⟨20, 0, g7⟩)] = true := by decide

/-- Format S (R84): special registers, barriers, traps, the tape, counters and bank modes. -/
theorem test_decode_system : decAll [
    (0xE000800000200007, .sget (sf 2 0 2)), (0xE200000012300007, .trap (sf 0 0 0x123)), (0xE300000000000007, .tret (sf 0 0 0)),
    (0xE401000000200007, .tinv (sf 4 0 2)), (0xE500030000000007, .copInv (sf 0 3 0)), (0xE600090000000007, .halt (sf 0 9 0)),
    (0xE700000000500007, .brk (sf 0 0 5)), (0x7510090000000007, .joinM (sf 0 9 0)), (0x7700000000000007, .yield (sf 0 0 0)),
    (0x7A00000000000007, .nop (sf 0 0 0))] = true := by decide
theorem test_decode_units : decAll [
    (0x7800000000900007, .fbarArrive (sf 0 0 9)), (0x7810000000100007, .fbarWait (sf 0 0 1)), (0x7900000000300007, .tbar (sf 0 0 3)),
    (0x8F10000002800007, .bmodeScr (sf 0 0 40)), (0xB000280000000007, .trec (sf 0 40 0)), (0xB200C00000000007, .tpop (sf 3 0 0)),
    (0xC900C00000000007, .qinfoRange (sf 3 0 0)), (0xD401000000900007, .cntrRead (sf 4 0 9)), (0xD410050000900007, .cntrAdd (sf 0 5 9))] = true := by
  decide

/-- Rendering and messages, all in format V. -/
theorem test_decode_rendering : decAll [
    (0xB7A50110A0000007, .triadj (vf 20 1 4 10)), (0xC005010850000007, .boxt (vf 20 1 2 5)), (0xC117880850000007, .trit 1 (vf 30 8 2 5)),
    (0xC200070000000007, .spush (vf 0 7 0 0)), (0xC605031000000007, .texLod (vf 20 3 4 0)), (0xD030041400000007, .msnd 3 (vf 0 4 5 0)),
    (0xD132800020000007, .mrcv 3 (vf 10 0 0 2))] = true := by decide

/-- A reserved major opcode and a set bit of a field that must be zero are refused at the field's bit (R75, R328). -/
theorem test_decode_refuses : refusal 0xFF00000000000007 = some 56 ∧ refusal 0xE00E000000200007 = some 46 ∧ refusal 0x7A00000000000027 = some 5 := by decide

/-! ## WellFormed refuses an ill-formed term of each check, at the bit where the field stands -/

def bad (ps : List (Instr × Nat)) : Bool := ps.all fun p => p.1.firstBad == some p.2 && !p.1.wf

/-- Types an entry does not admit, at [55:52] (R101, R105 to R107, R160). -/
theorem test_ill_types : bad [
    (.iadd .f32 (vf 1 2 3 0), 52), (.and .n32 (vf 1 2 3 0), 52), (.shl .i32 (vf 1 2 3 0), 52), (.sar .n32 (vf 1 2 3 0), 52),
    (.bfx .i16 (vf 1 2 3 0), 52), (.subx .i64 (vf 1 2 0 0), 52), (.lea .n64 (vf 1 2 3 0), 52), (.popc .f32 (vf 1 2 0 0), 52),
    (.fadd .e4m3 (vf 1 2 3 0), 52), (.fdot .f32 (vf 1 2 3 4), 52), (.fclass .i32 (vf 1 2 0 0), 52), (.iaddi .b64 ⟨1, 2, 0, g7⟩, 52),
    (.icmpi .n16 ⟨1, 2, 0, g7⟩, 52), (.wait .f32 (mf 1 2 3 0), 52)] = true := by decide

/-- Sub-fields that are no type, at [55:52]: rounding codes, fold, shuffle, walker, atomic and unit operations. -/
theorem test_ill_subs : bad [
    (.fcvt 6 (vf 1 2 10 11), 52), (.fcvti 6 (vf 1 2 1 10), 52), (.fround 5 (vf 1 2 0 10), 52), (.bcvtScale 1 (vf 1 2 0 9), 52),
    (.bcvtDec 1 (vf 1 2 3 41), 52), (.shfl 0 (vf 1 2 3 0), 52), (.lred 9 (vf 1 2 5 0), 52), (.wbind 7 (vf 0 2 3 4), 52),
    (.wctlEnds 8 (vf 0 2 0 0), 52), (.trit 8 (vf 1 2 3 4), 52), (.atom 12 (mf 1 2 3 0x50000), 52), (.red 7 (mf 0 2 3 0x50000), 52),
    (.prefetch 3 { mf 0 2 3 0 with la := 0 }, 52), (.gscat 2 (mf 0 2 3 0), 52), (.qpush 4 (mf 0 2 3 0), 52), (.mma 2 (xf 1 2 3 0), 52),
    (.ldt 5 (xf 1 0 0 2), 52), (.stt 6 (xf 0 1 0 2), 52)] = true := by decide

/-- Register fields: a destination of R75 must be v0 to v55; an unused field must be zero; a limited field stays below its limit. -/
theorem test_ill_registers : bad [
    (.iadd .i32 (vf 56 2 3 0), 46), (.iadd .i32 (vf 1 2 3 1), 28), (.spush (vf 1 2 0 0), 46), (.icmp .i32 (vf 1 2 3 6), 28),
    (.icmp .b32 (vf 1 2 3 2), 28), (.voteAny (vf 8 2 0 0), 46), (.voteAny (vf 1 16 0 0), 40), (.cdetMask (vf 1 2 0 8), 28),
    (.mrcv 0 (vf 1 0 0 16), 28), (.cull (vf 1 2 3 8), 28), (.ftagSet (vf 1 2 0 9), 28), (.ftagTset (vf 16 0 0 0), 46),
    (.wctlVtype 0 (vf 0 2 0 0), 28), (.brx ⟨56, 0, g7⟩, 46), (.bra ⟨1, 0, g7⟩, 46), (.icmpi .i32 ⟨48, 2, 0, g7⟩, 46),
    (.st2 .b64 (mf 0 2 56 0), 34), (.put { mf 1 2 56 0 with scope := true }, 34), (.tpop (sf 8 0 0), 46), (.joinM (sf 0 56 0), 40)] = true := by
  decide

/-- The second and third operand fields where an entry codes something else in them. -/
theorem test_ill_codes : bad [
    (.imul .i64 (vf 1 2 3 2), 28), (.subx .i32 (vf 1 2 3 0), 34), (.subx .i32 (vf 1 2 0 2), 28), (.subx .i32 (vf 1 2 3 0x30), 28),
    (.fcvt 0 (vf 1 2 1 10), 34), (.fcvt 5 (vf 1 2 11 10), 34), (.fcvt 0 (vf 1 2 10 10), 28), (.fcvt 0 (vf 1 2 15 10), 28),
    (.icvt 0 (vf 1 2 1 1), 34), (.icvt 0 (vf 1 2 10 10), 28), (.fcvti 0 (vf 1 2 10 10), 34), (.fcvti 0 (vf 1 2 1 1), 28),
    (.fround 0 (vf 1 2 0 13), 28), (.bcvtScale 0 (vf 1 2 0 8), 28), (.voteAll (vf 1 2 0 3), 28), (.lred 1 (vf 1 2 5 0), 34),
    (.lscan 0 (vf 1 2 32 0), 34), (.msnd 0 (vf 0 2 3 1), 28)] = true := by decide

/-- Modifiers, permutes, clamp and scale (R77 to R79, R119). -/
theorem test_ill_modifiers : bad [
    (.iadd .n32 (vf 1 2 3 0 0x20), 27), (.fadd .f32 (vf 1 2 3 0 1), 22), (.and .b32 (vf 1 2 3 0 0x10), 26), (.shl .n32 (vf 1 2 3 0 8), 25),
    (.voteAll (vf 1 2 0 0 4), 24), (.imin .i32 (vf 1 2 3 0 2), 23), (.iadd .i32 { vf 1 2 3 0 with permA := 7 }, 19),
    (.iadd .i32 { vf 1 63 3 0 with permA := 1 }, 19), (.trit 0 { vf 1 2 3 4 with permB := 1 }, 16), (.iadd .i32 { vf 1 2 3 0 with p := 1 }, 10),
    (.iadd .i32 { vf 1 2 3 0 with permA := 6, p := 4 }, 10), (.iadd .i32 { vf 1 2 3 0 with clamp := 1 }, 8),
    (.fadd .f32 { vf 1 2 3 0 with scale := 4 }, 5), (.iadd .i32 { vf 1 2 3 0 with scale := 1 }, 5)] = true := by decide

/-- Order, scope, policy, lookahead and the parts of the offset field (R81, R157, R160, R396, R400). -/
theorem test_ill_memory : bad [
    (.ld .b64 { mf 1 2 3 0 with order := 2 }, 12), (.st .b64 { mf 0 2 3 0 with order := 1 }, 12), (.atom 0 (mf 1 2 3 0xA0000), 30), (.atom 0 { mf 1 2 3 0x50000 with policy := 1 }, 9), (.wait .b64 { mf 1 2 3 0x20000 with la := 0 }, 30),
    (.wait .i32 (mf 1 2 3 0), 5), (.prefetch 0 { mf 0 2 3 0 with scope := true, la := 0 }, 11), (.cpy (mf 1 2 3 1), 14),
    (.cpy { mf 1 2 3 0 with policy := 2 }, 9), (.put { mf 1 2 3 1 with scope := true }, 14), (.put (mf 1 2 3 0), 11),
    (.get { mf 1 2 3 16 with scope := true }, 18), (.get { mf 1 2 3 4 with scope := true }, 16), (.trigPut { mf 1 2 3 0 with scope := true }, 5),
    (.collBcast { mf 1 2 3 1 with scope := true }, 14), (.collBcast { mf 1 2 3 16 with scope := true }, 18), (.ret ⟨1, 1, g7⟩, 14)] = true := by decide

/-- Fields of format X (R83, R163, R195). -/
theorem test_ill_tiles : bad [
    (.stt 0 (xf 1 1 0 2), 48), (.ldt 0 (xf 1 1 0 2), 44), (.tdesc (xf 1 0 1 2), 40), (.ldt 0 (xf 1 0 0 56), 34),
    (.tget { xf 0 1 0 2 with tA := true }, 33), (.tget { xf 0 1 0 2 with tB := true }, 32), (.tget { xf 0 1 0 2 with ov := true }, 31),
    (.mdist { xf 1 2 3 0 with pr := true, k := 1 }, 30), (.mdist (xf 1 2 3 0), 24), (.acqa (xf 0 0 0 0), 24),
    (.rela { xf 0 0 0 0 with fields := 0x4000 }, 23), (.mma 0 { xf 1 2 3 0 with fields := 0x2000 }, 22),
    (.ldt 0 { xf 1 0 0 2 with fields := 0x3800 }, 20), (.stt 5 { xf 0 1 0 2 with fields := 0x0800 }, 20),
    (.mzero { xf 1 0 0 0 with fields := 1 }, 9), (.gmma { xf 1 2 3 0 with k := 1 }, 5)] = true := by decide

/-- Immediates of format S. -/
theorem test_ill_immediates : bad [
    (.nop (sf 0 0 1), 20), (.fbarArrive (sf 0 0 20), 20), (.fbarWait (sf 0 0 4), 20), (.tbar (sf 0 0 16), 20), (.bmodeL1 (sf 0 0 48), 20),
    (.cntrRead (sf 1 0 768), 20), (.sget (sf 1 0 20), 20), (.tinv (sf 1 0 4), 20), (.tret (sf 0 1 0), 40)] = true := by decide

/-! ## Results that the spec states

The expected values are the tables and worked examples of the spec, not values of this model. -/

/-- RNE of an exact value in a format: the code. -/
def rn (f : Fmt) (m : Nat) (e : Int) : Nat := rne f false (.fin false m e)

/-- The table of worked examples beside R56. -/
theorem test_round_table :
    rn fmtBf16 257 (-8) = 0x3F80 ∧ rn fmtBf16 259 (-8) = 0x3F82 ∧ (roundFV fmtBf16 .rna 0 false 0 (.fin false 257 (-8))).1 = 0x3F81 ∧
    rn fmtE2m1 5 (-1) = 4 ∧ rn fmtE2m1 5 0 = 6 ∧ (roundFV fmtE5m2 .rne 0 false 0 (.fin false 61440 0)).2 = flOF ||| flNX := by decide

/-- 300 to E4M3 is 288; 1,000 saturates at 448; the spec's two SD elements, 14 and 15 at phase 0 (scope, R57, R115). -/
theorem test_round_e4m3 :
    rn fmtE4m3 300 0 = 0x79 ∧ fmtE4m3.value (rne fmtE4m3 true (.fin false 1000 0)) = .fin false 14 5 ∧
    (roundFV fmtE4m3 .sd (dither 14 0) false 0 (.fin false 300 0)).1 = 0x79 ∧ (roundFV fmtE4m3 .sd (dither 15 0) false 0 (.fin false 300 0)).1 = 0x7A ∧
    (roundFV fmtE4m3 .sd (dither 0 12) false 0 (.fin false 300 0)).1 = 0x79 ∧ (roundFV fmtE4m3 .sd (dither 5 0) false 0 (.fin false 300 0)).1 = 0x7A := by
  decide

/-- The division corners of R53. -/
theorem test_division_corners :
    divElem .i32 0x80000000 0xFFFFFFFF = (0x80000000, flDZ) ∧ remElem .i32 0x80000000 0xFFFFFFFF = (0, flDZ) ∧
    divElem .n32 7 0 = (0xFFFFFFFF, flDZ) ∧ remElem .n32 7 0 = (7, flDZ) := by decide

/-- The E4M3 product of R198 with C = 2^24, and the BF16 cases of R66. -/
theorem test_block_sums :
    accumulate false product 0x4B800000 (List.replicate 32 (fmtE4m3.value 0x30) ++ List.replicate 32 (fmtE4m3.value 1)) (List.replicate 64 (fmtE4m3.value 0x38)) = 0x4B800008 ∧
    accumulate false product 0 (List.replicate 64 (.fin false 1 0)) ([.fin false 1 24, .fin false 1 0, .fin false 1 0] ++ List.replicate 61 (.fin false 0 0)) = 0x4B800001 ∧
    accumulate false product 0 (List.replicate 64 (.fin false 1 0)) ([.fin false 1 24, .fin false 1 0] ++ List.replicate 30 (.fin false 0 0) ++ [.fin false 1 0] ++ List.replicate 31 (.fin false 0 0)) = 0x4B800000 := by
  decide

/-- Lanes 0 to 3 of `atom.fadd.f32` on 1.0 (R158), and the tree of R401 over the same five values. -/
theorem test_orders_of_addition :
    atomFold 1 .f32 0x3F800000 [0x4B800000, 0, 0x3F800000, 0, 0x3F800000, 0, 0x40400000, 0] = 0x4B800002 ∧
    collTree 0 64 [0x4B800000, 0x3F800000, 0x3F800000, 0x3F800000, 0x3F800000] = 0x4B800002 := by decide

/-- The worked blocks of R323. -/
theorem test_requantise :
    (requantBlock fmtE4m3 ([0x38, 0x44, 0x4A, 0x4C, 0x28] ++ List.replicate 27 0)).1 = 0x7F ∧
    (requantBlock fmtE4m3 ([0x38, 0x44, 0x4A, 0x4C, 0x28] ++ List.replicate 27 0)).2.take 5 = [2, 5, 6, 7, 0] ∧
    (requantBlock fmtE4m3 (0x7E :: List.replicate 31 0)).1 = 133 ∧ (requantBlock fmtE4m3 (0x7E :: List.replicate 31 0)).2.head? = some 7 := by decide

/-- The slice of local address 0x0040_0012_3400 (R281), and the caps at which 2,560 W come under 2,400 W (R374). -/
theorem test_slice_and_caps :
    homeSlice 0x004000123400 = 60 ∧ lowerCaps (demandAt 2560 32 128) (8 * 2400) 16 (8, 8) = (6, 8) ∧ demandAt 2560 32 128 6 8 = 8 * 2384 := by decide

/-! ## One step of small states -/

/-- A register of a lane after the step that issues the word, in the small fibre prepared by `pre`. -/
def after (w : Nat) (pre : State → State) (n l : Nat) : Option Row := match pre (State.reset.withFetchWord 64 w) with
  | s => match s.cur, step s with
    | some r, .next t => some (rowAt t r n l)
    | _, _ => none
def word (o : Option Row) : Option Nat := o.map (·.val.toNat)

/-- Values of v1 and v2 in every lane of the small fibre. -/
def two (x y : Nat) (s : State) : State := setReg (setReg s 1 fun _ => BitVec.ofNat 64 x) 2 fun _ => BitVec.ofNat 64 y

/-- `iadd.i32 v4, v1, v2` wraps in its low element and leaves the high one alone (R52). -/
theorem test_step_add : word (after 0x0111010800000007 (two 0x00000005FFFFFFFF 1) 4 3) = some 0x0000000500000000 := by decide +kernel

/-- `sget v2, $lane` gives each thread its lane (R29). -/
theorem test_step_lane : word (after 0xE000800000200007 id 2 0) = some 0 ∧ word (after 0xE000800000200007 id 2 11) = some 11 := by decide +kernel

/-- `fadd.f32 v4, v1, v2` of 1.5 and 2.25 in the low element is 3.75, tagged f32; of rows tagged bf16 it writes nothing and faults (R35, R36). -/
theorem test_step_fadd : (after 0x40A1010800000007 (two 0x3FC00000 0x40100000) 4 0) = some ⟨0x40700000, .f32, false⟩ ∧
    (after 0x40A1010800000007 (fun s => setReg s 1 (fun _ => 0x3FC0) .bf16) 4 0) = some ⟨0, .raw, false⟩ := by decide +kernel

/-- `imul.n32 v4, v1, v2` of 0x80000000 squared: 0 in mode `.lo`, 0x40000000 in `.hi`, the whole product in `.wide` (R102). -/
theorem test_step_imul : word (after 0x0351010800000007 (two 0x80000000 0x80000000) 4 0) = some 0 ∧
    word (after 0x0351010810000007 (two 0x80000000 0x80000000) 4 0) = some 0x40000000 ∧
    word (after 0x0351010820000007 (two 0x80000000 0x80000000) 4 0) = some 0x4000000000000000 := by decide +kernel

end Sys2Proof.Tests
end

section
/-! SUPPORT. The canonical form of memory is kept by every operation on the state: the form of cores and saved teams, and the rules of
folds, answers of instructions and outcomes from which the operations' lemmas are assembled. -/

namespace Sys2Proof.Laws.Canon

open Sys2Proof.Machine Sys2Proof.Safety

/-! ## The parts of the invariant -/

def BanksWf (bs : List Bank) : Prop := ∀ b ∈ bs, Memory.wf b.data = true
def AccsWf (bs : List AccBank) : Prop := ∀ b ∈ bs, Memory.wf b.data = true
def CoreWf (c : Core) : Prop := BanksWf c.banks ∧ AccsWf c.acc
def CoresWf (cs : List Core) : Prop := ∀ c ∈ cs, CoreWf c
def SavedWf (xs : List SavedTeam) : Prop := ∀ x ∈ xs, AccsWf (x.accs ++ x.accs2)

theorem memWf_iff (s : State) : memWf s ↔ Memory.wf s.mem = true ∧ Memory.wf s.home = true ∧ CoresWf s.cores ∧ SavedWf s.saved := Iff.rfl

theorem coreWf_iff (c : Core) : CoreWf c ↔ BanksWf c.banks ∧ AccsWf c.acc := Iff.rfl

theorem noCells_wf : Memory.wf [] = true := rfl

theorem coreReset_wf : CoreWf Core.reset := by
  simp [CoreWf, BanksWf, AccsWf, Core.reset, Bank.reset, AccBank.reset, noCells_wf]

/-- A core whose banks are those of another one. -/
theorem CoreWf.of_eq {c d : Core} (h : CoreWf c) (hb : d.banks = c.banks) (ha : d.acc = c.acc) : CoreWf d := by
  rwa [coreWf_iff, hb, ha]

/-! ## Lists of banks, cores and saved teams -/

theorem banksWf_map {bs : List Bank} (h : BanksWf bs) {f : Bank → Bank} (hf : ∀ b, Memory.wf b.data = true → Memory.wf (f b).data = true) :
    BanksWf (bs.map f) := by
  intro b hb
  obtain ⟨b, hm, rfl⟩ := List.mem_map.1 hb
  exact hf b (h b hm)

theorem banksWf_modify {bs : List Bank} (h : BanksWf bs) (k : Nat) {f : Bank → Bank}
    (hf : ∀ b, Memory.wf b.data = true → Memory.wf (f b).data = true) : BanksWf (bs.modify k f) := by
  intro b hb
  obtain ⟨j, hj, rfl⟩ := List.getElem_of_mem hb
  rw [List.length_modify] at hj
  rw [List.getElem_modify]
  have := h _ (List.getElem_mem hj)
  split
  · exact hf _ this
  · exact this

theorem banksWf_set {bs : List Bank} (h : BanksWf bs) (k : Nat) {b : Bank} (hb : Memory.wf b.data = true) : BanksWf (bs.set k b) := by
  intro x hx
  rcases List.mem_or_eq_of_mem_set hx with hx | rfl
  · exact h x hx
  · exact hb

theorem banksWf_getD {bs : List Bank} (h : BanksWf bs) (k : Nat) {d : Bank} (hd : Memory.wf d.data = true) :
    Memory.wf (bs.getD k d).data = true := by
  rw [List.getD_eq_getElem?_getD]
  cases hk : bs[k]? with
  | none => exact hd
  | some b => exact h b (List.mem_of_getElem? hk)

theorem accsWf_append {as bs : List AccBank} : AccsWf (as ++ bs) ↔ AccsWf as ∧ AccsWf bs := by
  simp [AccsWf, or_imp, forall_and]

theorem accsWf_map {bs : List AccBank} (h : AccsWf bs) {f : AccBank → AccBank} (hf : ∀ b, Memory.wf b.data = true → Memory.wf (f b).data = true) :
    AccsWf (bs.map f) := by
  intro b hb
  obtain ⟨b, hm, rfl⟩ := List.mem_map.1 hb
  exact hf b (h b hm)

theorem accsWf_modify {bs : List AccBank} (h : AccsWf bs) (k : Nat) {f : AccBank → AccBank}
    (hf : ∀ b, Memory.wf b.data = true → Memory.wf (f b).data = true) : AccsWf (bs.modify k f) := by
  intro b hb
  obtain ⟨j, hj, rfl⟩ := List.getElem_of_mem hb
  rw [List.length_modify] at hj
  rw [List.getElem_modify]
  have := h _ (List.getElem_mem hj)
  split
  · exact hf _ this
  · exact this

theorem accsWf_set {bs : List AccBank} (h : AccsWf bs) (k : Nat) {b : AccBank} (hb : Memory.wf b.data = true) : AccsWf (bs.set k b) := by
  intro x hx
  rcases List.mem_or_eq_of_mem_set hx with hx | rfl
  · exact h x hx
  · exact hb

theorem accsWf_getD {bs : List AccBank} (h : AccsWf bs) (k : Nat) : Memory.wf (bs.getD k AccBank.reset).data = true := by
  rw [List.getD_eq_getElem?_getD]
  cases hk : bs[k]? with
  | none => rfl
  | some b => exact h b (List.mem_of_getElem? hk)

theorem coresWf_getD {cs : List Core} (h : CoresWf cs) (k : Nat) : CoreWf (cs.getD k Core.reset) := by
  rw [List.getD_eq_getElem?_getD]
  cases hk : cs[k]? with
  | none => exact coreReset_wf
  | some c => exact h c (List.mem_of_getElem? hk)

theorem coresWf_map {cs : List Core} (h : CoresWf cs) {f : Core → Core} (hf : ∀ c, CoreWf c → CoreWf (f c)) : CoresWf (cs.map f) := by
  intro c hc
  obtain ⟨c, hm, rfl⟩ := List.mem_map.1 hc
  exact hf c (h c hm)

theorem coresWf_mapIdx {cs : List Core} (h : CoresWf cs) {f : Core × Nat → Core} (hf : ∀ c n, CoreWf c → CoreWf (f (c, n))) :
    CoresWf (cs.zipIdx.map f) := by
  intro c hc
  obtain ⟨⟨c, n⟩, hm, rfl⟩ := List.mem_map.1 hc
  exact hf c n (h c (List.fst_mem_of_mem_zipIdx hm))

theorem savedWf_filter {xs : List SavedTeam} (h : SavedWf xs) (p : SavedTeam → Bool) : SavedWf (xs.filter p) :=
  fun x hx => h x (List.mem_filter.1 hx).1

theorem savedWf_snoc {xs : List SavedTeam} (h : SavedWf xs) {x : SavedTeam} (hx : AccsWf (x.accs ++ x.accs2)) : SavedWf (xs ++ [x]) := by
  intro y hy
  rcases List.mem_append.1 hy with hy | hy
  · exact h y hy
  · rwa [List.mem_singleton.1 hy]

/-! ## Folds -/

section
variable {α β : Type} {s t : State}

theorem foldl_keeps {P : β → Prop} {f : β → α → β} (hf : ∀ b a, P b → P (f b a)) (l : List α) : ∀ {b : β}, P b → P (l.foldl f b) := by
  induction l with
  | nil => exact fun h => h
  | cons a l ih => exact fun h => ih (hf _ a h)

theorem foldl_wf {f : State → α → State} (hf : ∀ s a, memWf s → memWf (f s a)) (l : List α) (h : memWf s) : memWf (l.foldl f s) :=
  foldl_keeps hf l h

/-- A fold of steps of which each may fail. -/
theorem foldl_some_wf {f : State → α → Option State} (hf : ∀ s a t, memWf s → f s a = some t → memWf t) (l : List α) (h : memWf s)
    (ht : l.foldl (fun (so : Option State) a => so.bind fun s => f s a) (some s) = some t) : memWf t := by
  refine foldl_keeps (P := fun so => ∀ t, so = some t → memWf t) (fun so a hso t ht => ?_) l (fun t ht => ?_) t ht
  · obtain ⟨s, hs, hf'⟩ := Option.bind_eq_some_iff.1 ht
    exact hf s a t (hso s hs) hf'
  · exact Option.some.inj ht ▸ h

end

/-! ## States that depend on a test, or may be absent -/

theorem ite_wf {p : Prop} [Decidable p] {s t : State} (hs : memWf s) (ht : memWf t) : memWf (if p then s else t) := by
  split
  · exact hs
  · exact ht

theorem getD_wf {o : Option State} {s : State} (ho : ∀ t, o = some t → memWf t) (h : memWf s) : memWf (o.getD s) := by
  cases o with
  | none => exact h
  | some t => exact ho t rfl

theorem map_wf {o : Option State} {f : State → State} (ho : ∀ t, o = some t → memWf t) (hf : ∀ s, memWf s → memWf (f s)) (t : State)
    (ht : o.map f = some t) : memWf t := by
  obtain ⟨u, hu, rfl⟩ := Option.map_eq_some_iff.1 ht
  exact hf u (ho u hu)

/-! ## Outcomes and answers of instructions -/

/-- An outcome whose next state, if there is one, meets the invariant. -/
inductive NextWf : Host.Outcome State Fault Refusal → Prop where
  | next {t : State} (h : memWf t) : NextWf (.next t)
  | fault (e : Fault) : NextWf (.fault e)

theorem NextWf.wf {o : Host.Outcome State Fault Refusal} {t : State} (h : NextWf o) (ho : o = .next t) : memWf t := by
  cases h with
  | next h => exact Host.Outcome.next.inj ho ▸ h
  | fault e => cases ho

/-- An instruction's answer whose state, if there is one, meets the invariant. -/
inductive ActWf : Act → Prop where
  | ok {p : State × Flow} (h : memWf p.1) : ActWf (.ok p)
  | error (e : Exc) : ActWf (.error e)

theorem ActWf.wf {a : Act} {p : State × Flow} (h : ActWf a) (ha : a = .ok p) : memWf p.1 := by
  cases h with
  | ok h => exact Except.ok.inj ha ▸ h
  | error e => cases ha

theorem actWf_bind {α : Type} {x : Except Exc α} {k : α → Act} (h : ∀ a, ActWf (k a)) : ActWf (x >>= k) := by
  cases x with
  | error e => exact ActWf.error e
  | ok a => exact h a

/-- Where the first part of an answer is a state, the rest may rely on its form. -/
theorem actWf_bind_state {x : Except Exc State} {k : State → Act} (hx : ∀ t, x = .ok t → memWf t) (h : ∀ t, memWf t → ActWf (k t)) :
    ActWf (x >>= k) := by
  cases x with
  | error e => exact ActWf.error e
  | ok a => exact h a (hx a rfl)

theorem actWf_bind_act {x : Act} {k : State × Flow → Act} (hx : ActWf x) (h : ∀ p, memWf p.1 → ActWf (k p)) : ActWf (x >>= k) := by
  cases x with
  | error e => exact ActWf.error e
  | ok a => exact h a (hx.wf rfl)

end Sys2Proof.Laws.Canon
end

section
/-! SUPPORT. The state's own operations keep the canonical form: updates of parts, memory and its pages, landing, events, termination,
requests, exceptions. -/

namespace Sys2Proof.Laws.Canon

open Sys2Proof.Machine Sys2Proof.Safety

variable {s t : State}

/-! ## Parts of the state -/

theorem modTeam_wf (h : memWf s) (u f) : memWf (s.modTeam u f) := h
theorem modFibre_wf (h : memWf s) (r f) : memWf (s.modFibre r f) := h
theorem modCluster_wf (h : memWf s) (c f) : memWf (s.modCluster c f) := h
theorem modDie_wf (h : memWf s) (d f) : memWf (s.modDie d f) := h
theorem modCtx_wf (h : memWf s) (c f) : memWf (s.modCtx c f) := h
theorem modLaunch_wf (h : memWf s) (l f) : memWf (s.modLaunch l f) := h
theorem modFab_wf (h : memWf s) (g) : memWf (s.modFab g) := h
theorem newId_wf (h : memWf s) : memWf s.newId.2 := h

theorem modCore_wf (h : memWf s) (k) {f : Core → Core} (hf : ∀ c, CoreWf c → CoreWf (f c)) : memWf (s.modCore k f) := by
  obtain ⟨hm, hh, hc, hs⟩ := h
  refine ⟨hm, hh, fun c hmem => ?_, hs⟩
  obtain ⟨j, hj, rfl⟩ := List.getElem_of_mem hmem
  simp only [State.modCore, List.length_modify] at hj
  simp only [State.modCore, List.getElem_modify]
  have old : CoreWf s.cores[j] := hc _ (List.getElem_mem hj)
  split
  · exact hf _ old
  · exact old

/-- An update of a core's other parts. -/
theorem modCore_frame_wf (h : memWf s) (k) {f : Core → Core} (hb : ∀ c, (f c).banks = c.banks) (ha : ∀ c, (f c).acc = c.acc) :
    memWf (s.modCore k f) :=
  modCore_wf h k fun c hc => hc.of_eq (hb c) (ha c)

theorem mapCores_frame_wf (h : memWf s) {f : Core → Core} (hb : ∀ c, (f c).banks = c.banks) (ha : ∀ c, (f c).acc = c.acc) :
    memWf { s with cores := s.cores.map f } :=
  ⟨h.1, h.2.1, coresWf_map h.2.2.1 fun c hc => hc.of_eq (hb c) (ha c), h.2.2.2⟩

theorem core_wf (h : memWf s) (k) : CoreWf (s.core k) := coresWf_getD h.2.2.1 k

/-! ## Memory and its pages -/

theorem ramWrite_keeps (h : memWf s) (la bs pois) : memWf (s.ramWrite la bs pois) := writePlace_wf h (.ram la) bs pois

theorem homeBefore_wf (h : memWf s) (ks) : Memory.wf (s.homeBefore ks) = true := homeFold_wf h.1 _ ks h.2.1

theorem dropSector_wf (h : memWf s) (k) : memWf (s.dropSector k) := by
  unfold State.dropSector
  split
  · exact h
  · exact ⟨cellsSplice_wf h.1 h.2.1 _ _ _, h.2⟩

theorem cache_wf (h : memWf s) (ctx va) : memWf (s.cache ctx va) := by
  unfold State.cache
  grind [memWf_iff]

theorem cacheAll_wf (h : memWf s) (ctx vas) : memWf (s.cacheAll ctx vas) := foldl_wf (fun _ _ h => cache_wf h ..) _ h

theorem invalidate_wf (h : memWf s) (ctx va) : memWf (s.invalidate ctx va) := h

theorem setHeader_wf (h : memWf s) (base gen lastwr dw2) : memWf (s.setHeader base gen lastwr dw2) := ramWrite_keeps h base _ false

theorem pageStored_wf (h : memWf s) (base) : memWf (s.pageStored base) := by
  unfold State.pageStored
  grind [memWf_iff, setHeader_wf]

theorem pagesStored_wf (h : memWf s) (x dsts) : memWf (s.pagesStored x dsts) := foldl_wf (fun _ _ h => pageStored_wf h _) _ h

theorem storeAt_wf (h : memWf s) (p bs pois) : memWf (s.storeAt p bs pois) := by
  unfold State.storeAt
  grind [writePlace_wf, pageStored_wf]

theorem store_wf (h : memWf s) (ctx va bs pois) : memWf (s.store ctx va bs pois) := by
  unfold State.store
  grind [writePlace_wf, pageStored_wf]

theorem storeItem_wf (h : memWf s) (x) : memWf (s.storeItem x) := by
  unfold State.storeItem
  grind [writePlace_wf, pageStored_wf]

theorem atomHere_wf (h : memWf s) (op t g y c) : memWf (s.atomHere op t g y c) := writePlace_wf h ..

theorem performHeld_wf (h : memWf s) (i lanes items) : memWf (s.performHeld i lanes items) := by
  unfold State.performHeld
  split
  · exact foldl_wf (fun _ _ h => atomHere_wf h ..) _ h
  · exact foldl_wf (fun _ _ h => storeItem_wf h _) _ h

theorem performAllHeld_wf (h : memWf s) (f) : memWf (s.performAllHeld f) := by
  unfold State.performAllHeld
  grind [foldl_wf, performHeld_wf]

/-! ## Fibres -/

theorem putReg_wf (h : memWf s) (r n rows sh) : memWf (s.putReg r n rows sh) := h
theorem modThreads_wf (h : memWf s) (r lanes g) : memWf (s.modThreads r lanes g) := h
theorem setPreds_wf (h : memWf s) (r p vals) : memWf (s.setPreds r p vals) := h
theorem orFlags_wf (h : memWf s) (r fl) : memWf (s.orFlags r fl) := h
theorem modOp_wf (h : memWf s) (r id g) : memWf (s.modOp r id g) := h
theorem complete1_wf (h : memWf s) (r id) : memWf (s.complete1 r id) := h
theorem dropOp_wf (h : memWf s) (r id) : memWf (s.dropOp r id) := h
theorem addOp_wf (h : memWf s) (r cl k la ws ps gs) : memWf (s.addOp r cl k la ws ps gs).2 := h

theorem land_wf (h : memWf s) (r o lanes) : memWf (s.land r o lanes) := by
  unfold State.land
  grind [foldl_wf, putReg_wf, setPreds_wf, modFibre_wf]

theorem landAll_wf (h : memWf s) (r o) : memWf (s.landAll r o) := land_wf h r o _

theorem landWindows_wf (h : memWf s) (r) : memWf (s.landWindows r) := by
  unfold State.landWindows
  split
  · exact h
  · exact foldl_wf (fun _ _ h => landAll_wf h ..) _ h

/-! ## Events -/

theorem ringWrite_wf (pos ws) (h : memWf s) : memWf (s.ringWrite pos ws) := by
  fun_induction State.ringWrite s pos ws with
  | case1 s pos a b rest la ih => exact ih (writePlace_wf h ..)
  | case2 => exact h

theorem flushEvents_wf (n) (h : memWf s) : memWf (s.flushEvents n) := by
  induction n generalizing s with
  | zero => exact h
  | succ n ih =>
    unfold State.flushEvents
    grind [memWf_iff, ringWrite_wf]

theorem event_wf (h : memWf s) (kind corrected record) : memWf (s.event kind corrected record) := by
  unfold State.event
  grind [memWf_iff, flushEvents_wf]

theorem postWaiting_wf (n) (h : memWf s) : memWf (s.postWaiting n) := by
  induction n generalizing s with
  | zero => exact h
  | succ n ih =>
    unfold State.postWaiting
    grind [memWf_iff, event_wf]

theorem pageEvent_wf (h : memWf s) (record) : memWf (s.pageEvent record) := by
  unfold State.pageEvent
  grind [memWf_iff, event_wf]

theorem drainEvents_wf (h : memWf s) : memWf s.drainEvents := postWaiting_wf _ (flushEvents_wf _ h)

/-! ## Status, banks and termination -/

theorem statusStore_wf (h : memWf s) (l ws) : memWf (s.statusStore l ws) := by
  unfold State.statusStore
  split
  · exact h
  · exact store_wf h ..

theorem writeStatus_wf (h : memWf s) (l code) : memWf (s.writeStatus l code) := statusStore_wf h l _
theorem updateStatus_wf (h : memWf s) (l) : memWf (s.updateStatus l) := statusStore_wf h l _

/-- A bank goes back to memory page by page, each a copy of the bank's cells. -/
theorem writeBackBank_wf (h : memWf s) (t core bank j len) : memWf (s.writeBackBank t core bank j len) := by
  refine foldl_wf (fun s p h => ?_) _ h
  have hb := banksWf_getD (core_wf h core).1 bank (d := ⟨.free, [], []⟩) rfl
  dsimp only
  split
  · split
    · exact ⟨cellsSplice_wf h.1 hb _ _ _, homeBefore_wf h _, h.2.2⟩
    · exact h
  · exact h

theorem setRole_wf (h : memWf s) (core bank r) : memWf (s.setRole core bank r) :=
  modCore_wf h _ fun _ hc => ⟨banksWf_modify hc.1 _ fun _ _ => noCells_wf, hc.2⟩

theorem releaseBanks_wf (h : memWf s) (t) : memWf (s.releaseBanks t) := by
  refine foldl_wf (fun s c h => modCore_wf (foldl_wf (fun s b h => ?_) _ h) _ fun co hc => ?_) _ h
  · exact setRole_wf (writeBackBank_wf h ..) ..
  · refine ⟨banksWf_map hc.1 fun b hb => ?_, hc.2⟩
    split
    · split
      · exact noCells_wf
      · exact hb
    · exact hb

theorem releaseAccs_wf (h : memWf s) (t) : memWf (s.releaseAccs t) := by
  refine foldl_wf (fun s c h => modCore_wf h _ fun co hc => ?_) _ h
  refine ⟨hc.1, accsWf_map hc.2 fun b hb => ?_⟩
  split
  · exact noCells_wf
  · exact hb

theorem releaseShares_wf (h : memWf s) (launch) : memWf (s.releaseShares launch) := by
  unfold State.releaseShares
  split
  · exact h
  · refine ⟨h.1, h.2.1, coresWf_mapIdx h.2.2.1 fun c n hc => ?_, h.2.2.2⟩
    dsimp only
    split
    · exact hc
    · refine ⟨banksWf_map hc.1 fun b hb => ?_, hc.2⟩
      split
      · exact noCells_wf
      · exact hb

theorem movePart_wf (h : memWf t) (s p) : memWf (State.movePart s t p) := foldl_wf (fun _ _ h => writePlace_wf h ..) _ h

theorem moveNear_wf (h : memWf s) (x) : memWf (s.moveNear x) := pagesStored_wf (foldl_wf (fun _ _ h => movePart_wf h ..) _ h) ..

theorem finishXfers_wf (h : memWf s) (ctx) : memWf (s.finishXfers ctx) := by
  unfold State.finishXfers
  grind [foldl_wf, moveNear_wf, memWf_iff]

theorem landContext_wf (h : memWf s) (ctx) : memWf (s.landContext ctx) := by
  unfold State.landContext
  grind [foldl_wf, landWindows_wf, performAllHeld_wf]

theorem endContext_wf (h : memWf s) (ctx uids lids) : memWf (s.endContext ctx uids lids) :=
  ⟨h.1, h.2.1, coresWf_map h.2.2.1 fun _ hc => hc, savedWf_filter h.2.2.2 _⟩

theorem terminate_wf (h : memWf s) (ctx cause code detail) : memWf (s.terminate ctx cause code detail) := by
  unfold State.terminate
  split
  · exact h
  · have ended := endContext_wf (finishXfers_wf (landContext_wf h ctx) ctx) ctx
    grind [foldl_wf, releaseBanks_wf, writeStatus_wf, memWf_iff, modCtx_wf]

/-! ## Requests -/

theorem bumpGen_wf (h : memWf s) (unit tag) : memWf (s.bumpGen unit tag) := by
  unfold State.bumpGen
  split
  · exact modCore_frame_wf h _ (fun _ => rfl) fun _ => rfl
  · exact modDie_wf h ..

theorem report_wf (h : memWf s) (code port) : memWf (s.report code port) := h
theorem handOver_wf (h : memWf s) (x) : memWf (s.handOver x) := h
theorem takeNums_wf (h : memWf s) (dst n) : memWf (s.takeNums dst n) := h

theorem requestAs_wf (h : memWf s) (unit kind addr len data key w num) (ht : s.requestAs unit kind addr len data key w num = some t) :
    memWf t := by
  unfold State.requestAs at ht
  grind [memWf_iff, handOver_wf]

theorem request_wf (h : memWf s) (unit kind addr len data key w) (ht : s.request unit kind addr len data key w = some t) : memWf t := by
  unfold State.request at ht
  grind [requestAs_wf, takeNums_wf]

theorem readRemoteBy_wf (h : memWf s) (ctx unit r op ranges lanes) (ht : s.readRemoteBy ctx unit r op ranges lanes = some t) : memWf t :=
  foldl_some_wf (fun _ _ _ h ht => request_wf h _ _ _ _ _ _ _ ht) _ h ht

theorem readRemote_wf (h : memWf s) (ctx unit r op ranges) (ht : s.readRemote ctx unit r op ranges = some t) : memWf t :=
  readRemoteBy_wf h _ _ _ _ _ _ ht

theorem sendStores_wf (h : memWf s) (ctx unit r op xs) (ht : s.sendStores ctx unit r op xs = some t) : memWf t :=
  foldl_some_wf (fun _ _ _ h ht => request_wf h _ _ _ _ _ _ _ ht) _ h ht

theorem sendAtoms_wf (h : memWf s) (ctx unit r id op ty gs y c) (ht : s.sendAtoms ctx unit r id op ty gs y c = some t) : memWf t :=
  foldl_some_wf (fun _ _ _ h ht => request_wf h _ _ _ _ _ _ _ ht) _ h ht

/-! ## Slots, exceptions and the shell -/

theorem setHolder_wf (h : memWf s) (uid slot fid) : memWf (s.setHolder uid slot fid) := h

theorem passSlot_wf (h : memWf s) (r) : memWf (s.passSlot r) := by
  unfold State.passSlot
  grind [setHolder_wf]

theorem stalled_wf (h : memWf s) (r y) : memWf (s.stalled r y) := by
  unfold State.stalled
  grind [passSlot_wf]

theorem passStopped_wf (h : memWf s) (r lanes y) : memWf (s.passStopped r lanes y) := by
  unfold State.passStopped
  grind [modFibre_wf, stalled_wf]

/-- Taking an exception lands held writes, and may end the context. -/
theorem trap_wf (h : memWf s) (r lanes hdr tpc e) : memWf (s.trap r lanes hdr tpc e) := by
  have h1 := landWindows_wf h r
  unfold State.trap
  grind [modFibre_wf, terminate_wf]

theorem requestPage_wf (h : memWf s) (ctx va die kind level) : memWf (s.requestPage ctx va die kind level) := by
  unfold State.requestPage
  grind [pageEvent_wf, memWf_iff]

theorem pageStop_wf (h : memWf s) (r lanes pc clause vas e) : memWf (s.pageStop r lanes pc clause vas e) :=
  modFibre_wf (landWindows_wf h r) ..

theorem except_wf (h : memWf s) (r f is act i y e) : memWf (s.except r f is act i y e) := by
  unfold State.except
  cases e with
  | stall => exact stalled_wf h ..
  | hold g => exact stalled_wf (modFibre_wf h ..) ..
  | remote ranges lanes =>
    exact getD_wf (map_wf (fun _ ht => readRemoteBy_wf (addOp_wf h ..) _ _ _ _ _ _ ht) fun _ h => stalled_wf h ..) h
  | fault e =>
    dsimp only
    split
    · exact h
    · exact trap_wf h ..
  | park k => exact stalled_wf (modFibre_wf h ..) ..
  | pages vas kind e =>
    dsimp only
    split
    · exact h
    · exact pageStop_wf (foldl_wf (fun _ _ h => requestPage_wf h ..) _ h) ..

end Sys2Proof.Laws.Canon
end

section
/-! SUPPORT. The shell in which every instruction issues keeps the canonical form where the instruction's own answer does; the arithmetic,
cross-lane and control instructions, barriers and clauses. -/

namespace Sys2Proof.Laws.Canon

open Sys2Proof.Machine Sys2Proof.Safety

variable {s : State} {c : Ctx}

/-! ## The shell -/

theorem issueGo_wf (h : memWf s) (i n r t f is) {k : Ctx → Act} (hk : ∀ c : Ctx, memWf c.s → ActWf (k c)) :
    NextWf (issue.go i n s r t f is k) := by
  have stop (act y e) : NextWf (.next (s.except r f is act i y e)) := .next (except_wf h ..)
  unfold issue.go
  split
  · exact .next (stalled_wf h ..)
  dsimp only
  split
  · exact stop ..
  split
  · exact stop ..
  split
  · exact stop ..
  · exact stop ..
  split
  · exact stop ..
  split
  · split <;> exact stop ..
  split
  · exact stop ..
  have answer {c p} (hp : k c = .ok p) (hc : memWf c.s) : memWf p.1 := (hk c hc).wf hp
  split
  · next hs => exact .next (modFibre_wf (answer hs (modTeam_wf h ..)) ..)
  · next hs => exact .next (modFibre_wf (answer hs (modTeam_wf h ..)) ..)
  · next hs => exact .next (passStopped_wf (modFibre_wf (answer hs (modTeam_wf h ..)) ..) ..)
  · exact stop ..

/-- An instruction that issues leaves what its own meaning answers, or what an exception at it does. -/
theorem issue_wf (h : memWf s) {i n} {k : Ctx → Act} (hk : ∀ c : Ctx, memWf c.s → ActWf (k c)) : NextWf (issue i n s k) := by
  unfold issue
  split
  · exact .fault _
  split
  · exact .fault _
  split
  · exact .fault _
  split
  · exact .fault _
  split
  · exact .fault _
  dsimp only
  split
  · split
    · exact .next (setHolder_wf h ..)
    · exact .next (trap_wf (setHolder_wf h ..) ..)
  · exact issueGo_wf (setHolder_wf h ..) _ _ _ _ _ _ hk

theorem illegalWord_wf (h : memWf s) (r bit) : memWf (illegalWord s r bit) := by
  unfold illegalWord
  grind [stalled_wf, except_wf]

/-! ## Answers that several instructions give -/

theorem fault_wf (c : Ctx) (code src detail info) : ActWf (c.fault code src detail info) := .error _
theorem illegal_wf (c : Ctx) (bit) : ActWf (c.illegal bit) := .error _
theorem faultLanes_wf (c : Ctx) (code src detail addr lanes) : ActWf (c.faultLanes code src detail addr lanes) := .error _
theorem privileged_wf (c : Ctx) : ActWf c.privileged := .error _
theorem exhausted_wf (c : Ctx) (size) : ActWf (c.exhausted size) := .error _

theorem write_wf (h : memWf s) (c : Ctx) (n rows sh) : memWf (c.write s n rows sh) := by
  unfold Ctx.write
  grind [putReg_wf]

theorem finish_wf (hc : memWf c.s) (d tag sh op) : ActWf (c.finish d tag sh op) := by
  unfold Ctx.finish
  grind [ActWf.ok, write_wf, orFlags_wf]

theorem finishLate_wf (hc : memWf c.s) (d tag sh op) : ActWf (c.finishLate d tag sh op) := by
  unfold Ctx.finishLate
  grind [ActWf.ok, addOp_wf, orFlags_wf]

theorem deliver_wf (hc : memWf c.s) (late d tag sh op) : ActWf (c.deliver late d tag sh op) := by
  cases late
  · exact finish_wf hc ..
  · exact finishLate_wf hc ..

theorem finishPred_wf (hc : memWf c.s) (p op) : ActWf (c.finishPred p op) := .ok (setPreds_wf hc ..)

/-! ## Integer and immediate forms -/

theorem intBin_wf (h : memWf s) (i late ty f rule op) : NextWf (intBin i late ty f rule op s) :=
  issue_wf h fun c hc => by grind [illegal_wf, actWf_bind, deliver_wf]

theorem intUn_wf (h : memWf s) (i ty f op) : NextWf (intUn i ty f op s) :=
  issue_wf h fun c hc => by grind [illegal_wf, actWf_bind, finish_wf]

theorem intTern_wf (h : memWf s) (i ty f op) : NextWf (intTern i ty f op s) :=
  issue_wf h fun c hc => by grind [illegal_wf, actWf_bind, finish_wf]

theorem wordBin_wf (h : memWf s) (i ty f op) : NextWf (wordBin i ty f op s) :=
  issue_wf h fun c hc => by grind [illegal_wf, actWf_bind, finish_wf]

theorem immOp_wf (h : memWf s) (i f rule imm op) : NextWf (immOp i f rule imm op s) :=
  issue_wf h fun _ hc => actWf_bind fun _ => finish_wf hc ..

theorem execIaddi_wf (h : memWf s) (ty f) : NextWf (execIaddi ty f s) := by
  unfold execIaddi
  exact immOp_wf h ..

theorem immMove_wf (h : memWf s) (i f v) : NextWf (immMove i f v s) := issue_wf h fun _ hc => finish_wf hc ..

theorem execImul_wf (h : memWf s) (ty f) : NextWf (execImul ty f s) := by
  unfold execImul
  split
  · exact intBin_wf h ..
  · exact intBin_wf h ..
  · exact wordBin_wf h ..

theorem execSel_wf (h : memWf s) (f) : NextWf (execSel f s) :=
  issue_wf h fun c hc => by grind [illegal_wf, actWf_bind, finish_wf]

theorem execIcmp_wf (h : memWf s) (ty f) : NextWf (execIcmp ty f s) :=
  issue_wf h fun c hc => by grind [illegal_wf, actWf_bind, finishPred_wf]

theorem execMov_wf (h : memWf s) (f) : NextWf (execMov f s) :=
  issue_wf h fun c hc => by grind [illegal_wf, actWf_bind, finish_wf]

theorem execSubx_wf (h : memWf s) (ty f) : NextWf (execSubx ty f s) :=
  issue_wf h fun c hc => by grind [illegal_wf, actWf_bind, finish_wf]

theorem execIcmpi_wf (h : memWf s) (ty f) : NextWf (execIcmpi ty f s) :=
  issue_wf h fun _ hc => actWf_bind fun _ => finishPred_wf hc ..

/-! ## Floating point and conversions -/

theorem fltUn_wf (h : memWf s) (i late ty f op) : NextWf (fltUn i late ty f op s) :=
  issue_wf h fun c hc => by grind [illegal_wf, actWf_bind, deliver_wf]

theorem execFround_wf (h : memWf s) (sub f) : NextWf (execFround sub f s) := by
  unfold execFround
  exact fltUn_wf h ..

theorem fltBin_wf (h : memWf s) (i late ty f tb op) : NextWf (fltBin i late ty f tb op s) :=
  issue_wf h fun c hc => by grind [illegal_wf, actWf_bind, deliver_wf]

theorem execFfma_wf (h : memWf s) (ty f) : NextWf (execFfma ty f s) :=
  issue_wf h fun c hc => by grind [illegal_wf, actWf_bind, finish_wf]

theorem execFscale_wf (h : memWf s) (ty f) : NextWf (execFscale ty f s) :=
  issue_wf h fun c hc => by grind [illegal_wf, actWf_bind, finish_wf]

theorem execFcmp_wf (h : memWf s) (ty f) : NextWf (execFcmp ty f s) :=
  issue_wf h fun c hc => by grind [illegal_wf, actWf_bind, finishPred_wf]

theorem execFclass_wf (h : memWf s) (ty f) : NextWf (execFclass ty f s) :=
  issue_wf h fun c hc => by grind [illegal_wf, actWf_bind, finish_wf]

theorem execFdot_wf (h : memWf s) (ty f) : NextWf (execFdot ty f s) :=
  issue_wf h fun c hc => by grind [illegal_wf, actWf_bind, finish_wf]

theorem convert_wf (h : memWf s) (i sub f) : NextWf (convert i sub f s) :=
  issue_wf h fun c hc => by grind [illegal_wf, actWf_bind, finish_wf]

theorem execBcvtScale_wf (h : memWf s) (sub f) : NextWf (execBcvtScale sub f s) :=
  issue_wf h fun c hc => by grind [illegal_wf, ActWf.error, finish_wf]

theorem execBcvtEnc_wf (h : memWf s) (sub f) : NextWf (execBcvtEnc sub f s) :=
  issue_wf h fun c hc => by grind [illegal_wf, actWf_bind, finish_wf]

theorem execBcvtDec_wf (h : memWf s) (sub f) : NextWf (execBcvtDec sub f s) :=
  issue_wf h fun c hc => by grind [illegal_wf, actWf_bind, finish_wf]

/-! ## Cross-lane instructions, walkers, shapes and tags -/

theorem cdet_wf (hc : memWf c.s) (f a tag op) : ActWf (c.cdet f a tag op) := by
  unfold Ctx.cdet
  grind [ActWf.ok, write_wf, setPreds_wf, orFlags_wf]

theorem execCdetMask_wf (h : memWf s) (f) : NextWf (execCdetMask f s) :=
  issue_wf h fun c hc => by grind [illegal_wf, actWf_bind, cdet_wf]

theorem execCdetFadd_wf (h : memWf s) (f) : NextWf (execCdetFadd f s) :=
  issue_wf h fun c hc => by grind [illegal_wf, actWf_bind, cdet_wf]

theorem execCdetIadd_wf (h : memWf s) (f) : NextWf (execCdetIadd f s) :=
  issue_wf h fun c hc => by grind [illegal_wf, actWf_bind, cdet_wf]

theorem foldInstr_wf (h : memWf s) (i sub f red takes) : NextWf (foldInstr i sub f red takes s) :=
  issue_wf h fun c hc => by grind [illegal_wf, actWf_bind, finish_wf]

theorem execWbind_wf (h : memWf s) (sub f) : NextWf (execWbind sub f s) :=
  issue_wf h fun c hc => by grind [illegal_wf, actWf_bind, ActWf.ok, modFibre_wf]

theorem wctl_wf (h : memWf s) (i sub f reads ok op) : NextWf (wctl i sub f reads ok op s) :=
  issue_wf h fun c hc => by grind [illegal_wf, actWf_bind, ActWf.ok, modFibre_wf]

theorem execWctlUnbind_wf (h : memWf s) (sub f) : NextWf (execWctlUnbind sub f s) :=
  issue_wf h fun _ hc => .ok (modFibre_wf hc ..)

theorem execWctlTell_wf (h : memWf s) (sub f) : NextWf (execWctlTell sub f s) :=
  issue_wf h fun c hc => by grind [illegal_wf, finish_wf]

theorem execShapeGet_wf (h : memWf s) (f) : NextWf (execShapeGet f s) :=
  issue_wf h fun c hc => by grind [illegal_wf, finish_wf]

theorem execShapeGen_wf (h : memWf s) (f) : NextWf (execShapeGen f s) :=
  issue_wf h fun c hc => by grind [illegal_wf, actWf_bind, ActWf.ok, write_wf]

theorem execShapeUni_wf (h : memWf s) (f) : NextWf (execShapeUni f s) :=
  issue_wf h fun c hc => by grind [illegal_wf, actWf_bind, ActWf.ok, putReg_wf]

theorem execShapeAff_wf (h : memWf s) (f) : NextWf (execShapeAff f s) :=
  issue_wf h fun c hc => by grind [illegal_wf, actWf_bind, ActWf.ok, putReg_wf]

theorem execFtagGet_wf (h : memWf s) (f) : NextWf (execFtagGet f s) :=
  issue_wf h fun c hc => by grind [illegal_wf, actWf_bind, finish_wf]

theorem execFtagSet_wf (h : memWf s) (f) : NextWf (execFtagSet f s) :=
  issue_wf h fun c hc => by grind [illegal_wf, actWf_bind, finish_wf]

theorem execFtagTget_wf (h : memWf s) (f) : NextWf (execFtagTget f s) := issue_wf h fun _ hc => finish_wf hc ..

theorem execFtagTset_wf (h : memWf s) (f) : NextWf (execFtagTset f s) :=
  issue_wf h fun c hc => by grind [ActWf.ok, modFibre_wf]

/-! ## Exits, rendezvous and barriers -/

theorem dropQueued_wf (h : memWf s) (r) : memWf (s.dropQueued r) := h
theorem orphanStarted_wf (h : memWf s) (r) : memWf (s.orphanStarted r) := h

theorem rawExit_wf (h : memWf s) (r lanes) : memWf (s.rawExit r lanes) := by
  unfold State.rawExit
  grind [modFibre_wf, orphanStarted_wf, dropQueued_wf]

theorem doShfl_wf (hc : memWf c.s) (sub f lanes member) (t) (ht : c.doShfl sub f lanes member = .ok t) : memWf t := by
  unfold Ctx.doShfl at ht
  grind [putReg_wf]

theorem doVote_wf (hc : memWf c.s) (kind f parts lanes) : memWf (c.doVote kind f parts lanes) := by
  unfold Ctx.doVote
  grind [putReg_wf, setPreds_wf]

theorem tretDone_wf (h : memWf s) (r lanes) : memWf (s.tretDone r lanes) := by
  unfold State.tretDone
  grind [terminate_wf, modFibre_wf, rawExit_wf]

theorem joinWalk_wf (h : memWf s) (r lanes ks) : memWf (s.joinWalk r lanes ks) := by
  unfold State.joinWalk
  grind [modThreads_wf]

theorem joinCtx_wf (h : memWf s) (r tm f lanes t wv) : memWf (s.joinCtx r tm f lanes t wv).s := h

theorem dropWalkerRead_wf (h : memWf s) (r i) : memWf (s.dropWalkerRead r i) := h

theorem complete_wf (h : memWf s) (r tm f lanes t i) : memWf (s.complete r tm f lanes t i) := by
  unfold State.complete
  grind [modThreads_wf, trap_wf, foldl_wf, requestPage_wf, pageStop_wf, addOp_wf, readRemote_wf, getD_wf, joinWalk_wf, joinCtx_wf,
    dropWalkerRead_wf, doShfl_wf, doVote_wf, tretDone_wf]

end Sys2Proof.Laws.Canon
end

section
/-! SUPPORT. Barriers, control flow, system instructions, clauses, memory instructions and tiles keep the canonical form. -/

namespace Sys2Proof.Laws.Canon

open Sys2Proof.Machine Sys2Proof.Safety

variable {s : State} {c : Ctx}

/-! ## Settling of rendezvous and barriers -/

theorem leaveEmptyHandler_wf (h : memWf s) (r) : memWf (s.leaveEmptyHandler r) := h

theorem settle_wf (n) (r) (h : memWf s) : memWf (s.settle r n) := by
  induction n generalizing s with
  | zero => exact h
  | succ n ih =>
    have := leaveEmptyHandler_wf h r
    unfold State.settle
    grind [complete_wf]

theorem settleTeam_wf (h : memWf s) (uid) : memWf (s.settleTeam uid) := by
  unfold State.settleTeam
  split
  · exact foldl_wf (fun _ _ h => settle_wf 64 _ h) _ h
  · exact h

theorem fbarCheck_wf (h : memWf s) (uid slot) : memWf (s.fbarCheck uid slot) := h

/-- A team barrier changes threads, in their fibres and in the gallery. -/
theorem tbarCheck_wf (n uid id) (h : memWf s) : memWf (s.tbarCheck uid id n) := by
  induction n generalizing s with
  | zero => exact h
  | succ n ih =>
    unfold State.tbarCheck
    split
    · exact h
    · dsimp only
      split
      · exact h
      · exact ih (mapCores_frame_wf (modTeam_wf h ..) (fun _ => rfl) fun _ => rfl)

theorem tbarChecks_wf (h : memWf s) (uid) : memWf (s.tbarChecks uid) := foldl_wf (fun _ _ h => tbarCheck_wf 4 _ _ h) _ h

theorem recheck_wf (h : memWf s) (r) : memWf (s.recheck r) := by
  unfold State.recheck
  grind [settleTeam_wf, fbarCheck_wf, tbarChecks_wf]

theorem exitLanes_wf (h : memWf s) (r lanes) : memWf (s.exitLanes r lanes) := by
  unfold State.exitLanes
  grind [rawExit_wf, recheck_wf]

theorem blockMembers_wf (h : memWf s) (c : Ctx) (i members m) : memWf (c.blockMembers s i members m) := h

theorem unwalk_wf (h : memWf s) (c : Ctx) (lanes) : memWf (c.unwalk s lanes) := by
  unfold Ctx.unwalk
  grind [modFibre_wf]

theorem rendezvous_wf (hc : memWf c.s) (i m) {rest : List Nat → Except Exc State} (hr : ∀ ls t, rest ls = .ok t → memWf t) :
    ActWf (c.rendezvous i m rest) := by
  unfold Ctx.rendezvous
  dsimp only
  split
  · exact .ok hc
  split
  · exact .error _
  refine actWf_bind_state (hr _) fun t ht => ?_
  split
  · exact .ok ht
  · exact .ok (settle_wf _ _ (modFibre_wf (blockMembers_wf (unwalk_wf ht ..) ..) ..))

theorem execShfl_wf (h : memWf s) (sub f) : NextWf (execShfl sub f s) := by
  refine issue_wf h fun c hc => ?_
  dsimp only
  split
  · exact illegal_wf ..
  split
  · exact .ok hc
  split
  · refine actWf_bind fun _ => rendezvous_wf hc _ _ fun ls t ht => ?_
    grind [putReg_wf]
  · exact actWf_bind_state (doShfl_wf hc _ _ _ _) fun t ht => .ok ht

theorem vote_wf (h : memWf s) (i kind f) : NextWf (vote i kind f s) := by
  refine issue_wf h fun c hc => ?_
  dsimp only
  split
  · exact .ok hc
  split
  · refine actWf_bind fun _ => rendezvous_wf hc _ _ fun ls t ht => ?_
    grind [doVote_wf]
  · exact .ok (doVote_wf hc ..)

/-! ## Control flow -/

theorem jump_wf (h : memWf s) (c : Ctx) (tgt) : memWf (c.jump s tgt) := h

theorem transfer_wf (hc : memWf c.s) (fld tgt link) : ActWf (c.transfer fld tgt link) := by
  refine actWf_bind fun _ => .ok (jump_wf ?_ ..)
  split
  · exact write_wf hc ..
  · exact hc

theorem execBra_wf (h : memWf s) (f) : NextWf (execBra f s) := issue_wf h fun _ hc => transfer_wf hc ..
theorem execBrx_wf (h : memWf s) (f) : NextWf (execBrx f s) := issue_wf h fun _ hc => actWf_bind fun _ => transfer_wf hc ..
theorem execCall_wf (h : memWf s) (f) : NextWf (execCall f s) := issue_wf h fun _ hc => transfer_wf hc ..
theorem execCallX_wf (h : memWf s) (f) : NextWf (execCallX f s) := issue_wf h fun _ hc => actWf_bind fun _ => transfer_wf hc ..
theorem execRet_wf (h : memWf s) (f) : NextWf (execRet f s) := issue_wf h fun _ hc => actWf_bind fun _ => transfer_wf hc ..

theorem execExit_wf (h : memWf s) (f) : NextWf (execExit f s) :=
  issue_wf h fun _ hc => .ok (exitLanes_wf (modFibre_wf hc ..) ..)

theorem execJoin_wf (h : memWf s) (f) : NextWf (execJoin f s) :=
  issue_wf h fun _ hc => rendezvous_wf hc _ _ fun _ _ ht => Except.ok.inj ht ▸ hc

theorem execJoinM_wf (h : memWf s) (f) : NextWf (execJoinM f s) := by
  refine issue_wf h fun c hc => ?_
  dsimp only
  split
  · exact .ok hc
  · exact actWf_bind fun _ => rendezvous_wf hc _ _ fun _ _ ht => Except.ok.inj ht ▸ hc

theorem fileOne_wf (h : memWf s) (c : Ctx) (l pc) : memWf (c.fileOne s l pc) := by
  unfold Ctx.fileOne
  grind [modFibre_wf, modCore_wf, coreWf_iff]

theorem file_wf (hc : memWf c.s) (tgt) : ActWf (c.file tgt) := by
  unfold Ctx.file
  split
  · exact .ok (jump_wf hc ..)
  split
  · exact .error _
  · exact .ok (modCore_frame_wf (foldl_wf (fun _ _ h => fileOne_wf h ..) _ (jump_wf hc ..)) _ (fun _ => rfl) fun _ => rfl)

theorem execReform_wf (h : memWf s) (f) : NextWf (execReform f s) :=
  issue_wf h fun c hc => by grind [illegal_wf, file_wf]

theorem execReformX_wf (h : memWf s) (f) : NextWf (execReformX f s) :=
  issue_wf h fun c hc => by grind [illegal_wf, actWf_bind, file_wf]

theorem drawBin_wf (h : memWf s) (core bin) : memWf (s.drawBin core bin) := by
  unfold State.drawBin
  split
  · exact h
  split
  · exact h
  split
  · exact modCore_frame_wf h _ (fun _ => rfl) fun _ => rfl
  · refine settleTeam_wf (mapCores_frame_wf (modCore_frame_wf (modTeam_wf h ..) _ ?_ ?_) ?_ ?_) _ <;> exact fun _ => rfl

theorem execGalleryDraw_wf (h : memWf s) (core bin) : NextWf (execGalleryDraw core bin s) := by
  unfold execGalleryDraw
  split
  · exact .next (foldl_wf (fun _ _ h => drawBin_wf h ..) _ h)
  · exact .fault _

theorem execBinAgeLimit_wf (h : memWf s) (core bin) : NextWf (execBinAgeLimit core bin s) := by
  unfold execBinAgeLimit
  grind [NextWf.next, NextWf.fault, modCore_wf, coreWf_iff]

theorem execYield_wf (h : memWf s) (f) : NextWf (execYield f s) :=
  issue_wf h fun c hc => by grind [ActWf.ok, passSlot_wf]

theorem execNop_wf (h : memWf s) (f) : NextWf (execNop f s) := issue_wf h fun _ hc => .ok hc

theorem modBar_wf (h : memWf s) (uid slot id g) : memWf (s.modBar uid slot id g) := h
theorem checkBar_wf (h : memWf s) (uid slot id) : memWf (s.checkBar uid slot id) := h

theorem execFbarArrive_wf (h : memWf s) (f) : NextWf (execFbarArrive f s) :=
  issue_wf h fun c hc => by grind [illegal_wf, ActWf.ok, ActWf.error, modFibre_wf, modBar_wf, checkBar_wf]

theorem execFbarWait_wf (h : memWf s) (f) : NextWf (execFbarWait f s) :=
  issue_wf h fun c hc => by grind [ActWf.ok, modFibre_wf, modBar_wf]

theorem teamBarrier_wf (h : memWf s) (i wait f) : NextWf (teamBarrier i wait f s) :=
  issue_wf h fun c hc => by grind [ActWf.ok, ActWf.error, modFibre_wf, tbarCheck_wf]

/-! ## Special registers and system instructions -/

theorem execSget_wf (h : memWf s) (f) : NextWf (execSget f s) := issue_wf h fun _ hc => .ok (write_wf hc ..)

theorem execSset_wf (h : memWf s) (f) : NextWf (execSset f s) :=
  issue_wf h fun c hc => by grind [privileged_wf, illegal_wf, actWf_bind, ActWf.ok, modFibre_wf]

theorem execTrap_wf (h : memWf s) (f) : NextWf (execTrap f s) := issue_wf h fun c hc => by grind [ActWf.ok, fault_wf]
theorem execBrk_wf (h : memWf s) (f) : NextWf (execBrk f s) := issue_wf h fun c hc => by grind [ActWf.ok, fault_wf]

theorem execTret_wf (h : memWf s) (f) : NextWf (execTret f s) :=
  issue_wf h fun c hc => by grind [ActWf.ok, ActWf.error, privileged_wf, modFibre_wf, blockMembers_wf, recheck_wf]

theorem execTinv_wf (h : memWf s) (f) : NextWf (execTinv f s) := issue_wf h fun _ hc => .ok (write_wf hc ..)

theorem cop_wf (hc : memWf c.s) {k : Act} (hk : ActWf k) : ActWf (c.cop k) := by
  unfold Ctx.cop
  grind [ActWf.ok, privileged_wf]

theorem execCopInv_wf (h : memWf s) (f) : NextWf (execCopInv f s) :=
  issue_wf h fun _ hc => cop_wf hc (actWf_bind fun _ => .ok (invalidate_wf hc ..))

theorem execCopInvall_wf (h : memWf s) (f) : NextWf (execCopInvall f s) := issue_wf h fun _ hc => cop_wf hc (.ok (invalidate_wf hc ..))

theorem execHalt_wf (h : memWf s) (f) : NextWf (execHalt f s) :=
  issue_wf h fun c hc => by grind [ActWf.ok, ActWf.error, actWf_bind, terminate_wf]

/-! ## Clauses, landing and completion -/

theorem serve_wf (h : memWf s) (r t f p) : memWf (s.serve r t f p) := by
  unfold State.serve
  grind [requestPage_wf, pageStop_wf, trap_wf, stalled_wf, setHolder_wf, modTeam_wf, modFibre_wf]

theorem serveEvent_wf (h : memWf s) (r ageing) : NextWf (s.serveEvent r ageing) := by
  unfold State.serveEvent
  grind [NextWf.next, NextWf.fault, modFibre_wf, trap_wf, serve_wf]

theorem execClauseFetchFill_wf (h : memWf s) (r) : NextWf (execClauseFetchFill r s) := by
  unfold execClauseFetchFill
  grind [NextWf.next, NextWf.fault, modFibre_wf]

theorem execLookaheadLanding_wf (h : memWf s) (r op) : NextWf (execLookaheadLanding r op s) := by
  unfold execLookaheadLanding
  grind [NextWf.next, NextWf.fault, modFibre_wf, land_wf]

theorem execScoreboardLanding_wf (h : memWf s) (r op) : NextWf (execScoreboardLanding r op s) := by
  unfold execScoreboardLanding
  grind [NextWf.next, NextWf.fault, landAll_wf]

theorem completeKind_wf (h : memWf s) (r op p) : NextWf (s.completeKind r op p) := by
  unfold State.completeKind
  grind [NextWf.next, NextWf.fault, complete1_wf]

/-! ## Loads, stores and atomics -/

theorem withState_wf (h : memWf s) (c : Ctx) : memWf (c.withState s).s := h

theorem readLanesAs_wf (hc : memWf c.s) (anew i classes la regs sh lanes eval) : ActWf (c.readLanesAs anew i classes la regs sh lanes eval) := by
  unfold Ctx.readLanesAs
  grind [ActWf.ok, ActWf.error, orFlags_wf, addOp_wf, readRemote_wf]

theorem readLanes_wf (hc : memWf c.s) (i classes la regs sh lanes eval) : ActWf (c.readLanes i classes la regs sh lanes eval) :=
  readLanesAs_wf hc ..

theorem hold_wf (hc : memWf c.s) (i classes la regs sh accs items) : ActWf (c.hold i classes la regs sh accs items) := .ok (addOp_wf hc ..)

theorem storeLanes_wf (hc : memWf c.s) (classes la items) : ActWf (c.storeLanes classes la items) := by
  unfold Ctx.storeLanes
  grind [ActWf.ok, ActWf.error, foldl_wf, storeItem_wf, addOp_wf, sendStores_wf]

theorem loadInstr_wf (h : memWf s) (i t cnt f) : NextWf (loadInstr i t cnt f s) :=
  issue_wf h fun c hc => by grind [ActWf.ok, actWf_bind, withState_wf, cacheAll_wf, hold_wf, readLanesAs_wf]

theorem storeInstr_wf (h : memWf s) (i t cnt f) : NextWf (storeInstr i t cnt f s) :=
  issue_wf h fun c hc => by grind [ActWf.ok, actWf_bind, withState_wf, cacheAll_wf, hold_wf, storeLanes_wf]

theorem atomInstr_wf (h : memWf s) (i old sub f) : NextWf (atomInstr i old sub f s) :=
  issue_wf h fun c hc => by
    grind [ActWf.ok, ActWf.error, actWf_bind, withState_wf, cacheAll_wf, hold_wf, foldl_wf, atomHere_wf, addOp_wf, sendAtoms_wf]

theorem releaseHeld_wf (h : memWf s) (r id i lanes items) : memWf (s.releaseHeld r id i lanes items) :=
  complete1_wf (modOp_wf (performHeld_wf h ..) ..) ..

theorem replyRead_wf (h : memWf s) (r id i lanes) : memWf (s.replyRead r id i lanes) := by
  unfold State.replyRead
  grind [modOp_wf, complete1_wf]

theorem execLoadReply_wf (h : memWf s) (r op) : NextWf (execLoadReply r op s) := by
  unfold execLoadReply
  grind [NextWf.next, NextWf.fault, replyRead_wf, releaseHeld_wf, completeKind_wf]

theorem execStoreAcknowledged_wf (h : memWf s) (r op) : NextWf (execStoreAcknowledged r op s) := by
  unfold execStoreAcknowledged
  grind [NextWf.next, NextWf.fault, releaseHeld_wf, completeKind_wf]

/-! ## Fences, waits, locks and format pages -/

theorem fenceInstr_wf (h : memWf s) (i f) : NextWf (fenceInstr i f s) :=
  issue_wf h fun c hc => by grind [ActWf.ok, ActWf.error]

theorem waitRequest_wf {t : State} (h : memWf s) (ctx unit r i l pa n y) (ht : s.waitRequest ctx unit r i l pa n y = some t) : memWf t :=
  readRemote_wf (addOp_wf h ..) _ _ _ _ _ ht

theorem execWait_wf (h : memWf s) (ty f) : NextWf (execWait ty f s) :=
  issue_wf h fun c hc => by grind [ActWf.ok, actWf_bind, write_wf, cacheAll_wf, unwalk_wf, modFibre_wf]

theorem waitPass_wf (h : memWf s) (r l f x) : memWf (s.waitPass r l f x) := modThreads_wf (putReg_wf h ..) ..

theorem retest_wf (h : memWf s) (r l timer) : NextWf (s.retest r l timer) := by
  unfold State.retest
  split
  · dsimp only
    split
    · split
      · exact .fault _
      split
      · exact .next (modThreads_wf h ..)
      split
      · exact .fault _
      split
      · split
        · exact .fault _
        split
        · next ht => exact .next (waitRequest_wf (ite_wf (modThreads_wf h ..) h) _ _ _ _ _ _ _ _ ht)
        · exact .fault _
      · split
        · exact .next (waitPass_wf h ..)
        · exact .next (ite_wf (modThreads_wf h ..) h)
    · exact .fault _
  · exact .fault _

theorem execPrefetch_wf (h : memWf s) (sub f) : NextWf (execPrefetch sub f s) := issue_wf h fun _ hc => .ok (cacheAll_wf hc ..)

theorem execLockTest_wf (h : memWf s) (f) : NextWf (execLockTest f s) :=
  issue_wf h fun _ hc => actWf_bind fun _ => .ok (write_wf hc ..)

theorem execLockWait_wf (h : memWf s) (f) : NextWf (execLockWait f s) :=
  issue_wf h fun c hc => by grind [ActWf.ok, actWf_bind, unwalk_wf, modFibre_wf]

theorem execParkedAccessResume_wf (h : memWf s) (r) : NextWf (execParkedAccessResume r s) := by
  unfold execParkedAccessResume
  grind [NextWf.next, NextWf.fault, settle_wf, modFibre_wf]

theorem writeReclaim_wf (h : memWf s) (base freed kind) : memWf (s.writeReclaim base freed kind) := by
  unfold State.writeReclaim
  grind [memWf_iff, writePlace_wf]

theorem skipPage_wf (h : memWf s) (base) : memWf (s.skipPage base) := by
  unfold State.skipPage
  grind [memWf_iff, event_wf, writeReclaim_wf]

theorem setPin_wf (h : memWf s) (base on) : memWf (s.setPin base on) := by
  unfold State.setPin
  grind [memWf_iff, setHeader_wf]

theorem forceConv_wf (h : memWf s) (base) : memWf (s.forceConv base) := by
  unfold State.forceConv
  grind [memWf_iff]

theorem fpgStep_wf (h : memWf s) (op base) : memWf (fpgStep op base s) := by
  unfold fpgStep
  grind [setPin_wf, forceConv_wf]

theorem fpgLanes_wf (op) (l) (h : memWf s) : memWf (fpgLanes op s l).1 := by
  induction l generalizing s with
  | nil => exact h
  | cons x l ih =>
    obtain ⟨l, b⟩ := x
    cases b with
    | none => exact ih h
    | some base => exact ih (fpgStep_wf h ..)

theorem fpgInstr_wf (h : memWf s) (i op f) : NextWf (fpgInstr i op f s) :=
  issue_wf h fun c hc => by grind [ActWf.ok, actWf_bind, fpgLanes_wf, addOp_wf]

end Sys2Proof.Laws.Canon
end

section
/-! SUPPORT. Tiles, the matrix engines, scatter and tapes keep the canonical form. -/

namespace Sys2Proof.Laws.Canon

open Sys2Proof.Machine Sys2Proof.Safety

variable {s : State} {c : Ctx}

/-! ## Tiles -/

/-- An aligned part of a tile row goes to a pool bank or an accumulator bank, cell by cell. -/
theorem tileStore_wf (h : memWf s) (t core acc x bs) : memWf (s.tileStore t core acc x bs) := by
  refine foldl_wf (fun s k h => ?_) _ h
  dsimp only
  split
  · exact h
  split
  · refine modCore_wf h _ fun co hc => ?_
    exact ⟨hc.1, accsWf_modify hc.2 _ fun b hb => cellsSet_wf _ hb _⟩
  · refine modCore_wf h _ fun co hc => ?_
    exact ⟨banksWf_modify hc.1 _ fun b hb => bankWrite_wf hb .., hc.2⟩

theorem tileRow_wf (h : memWf s) (t core tl r els) : memWf (s.tileRow t core tl r els) := tileStore_wf h ..
theorem tileRows_wf (h : memWf s) (t core tl rows) : memWf (s.tileRows t core tl rows) := foldl_wf (fun _ _ h => tileRow_wf h ..) _ h

theorem execTdesc_wf (h : memWf s) (f) : NextWf (execTdesc f s) :=
  issue_wf h fun c hc => by grind [ActWf.ok, actWf_bind, fault_wf, modFibre_wf]

theorem execTget_wf (h : memWf s) (f) : NextWf (execTget f s) :=
  issue_wf h fun _ hc => .ok (foldl_wf (fun _ _ h => write_wf h ..) _ hc)

theorem leaveRole_wf (h : memWf s) (t core bank) : memWf (s.leaveRole t core bank) := by
  unfold State.leaveRole
  grind [writeBackBank_wf]

theorem bmodeInstr_wf (h : memWf s) (i f same room) : NextWf (bmodeInstr i f same room s) :=
  issue_wf h fun c hc => by grind [ActWf.ok, ActWf.error, fault_wf, leaveRole_wf, setRole_wf]

/-! ## Gradient scatter -/

theorem writeRecord_wf (h : memWf s) (l k a) : memWf (s.writeRecord l k a) := store_wf h ..
theorem freeRecord_wf (h : memWf s) (l k) : memWf (s.freeRecord l k) := modLaunch_wf (store_wf h ..) ..
theorem ovfUnreachable_wf (h : memWf s) (l) : memWf (s.ovfUnreachable l) := terminate_wf h ..

variable {t : State}

theorem spillAcc_wf (h : memWf s) (a) (ht : s.spillAcc a = some t) : memWf t := by
  unfold State.spillAcc at ht
  grind [memWf_iff, writeRecord_wf, ovfUnreachable_wf, modLaunch_wf]

theorem addTo_wf (h : memWf s) (a) (ht : s.addTo a = some t) : memWf t := by
  unfold State.addTo at ht
  dsimp only at ht
  split at ht
  · exact Option.some.inj ht ▸ h
  split at ht
  · exact Option.some.inj ht ▸ h
  split at ht
  · exact Option.some.inj ht ▸ h
  · refine map_wf (fun _ hu => spillAcc_wf h _ hu) (fun s h => ?_) t ht
    split
    · exact h
    · exact h

theorem additionsDone_wf (h : memWf s) (o) : memWf (s.additionsDone o) := by
  unfold State.additionsDone
  grind [complete1_wf]

theorem execScatterAddition_wf (h : memWf s) (idx) : NextWf (execScatterAddition idx s) := by
  unfold execScatterAddition
  split
  · exact .fault _
  split
  · exact .fault _
  · next hu =>
    have added := addTo_wf h _ hu
    split
    · refine .next (additionsDone_wf ?_ _)
      exact added
    · exact .next added

theorem execGscat_wf (h : memWf s) (sub f) : NextWf (execGscat sub f s) :=
  issue_wf h fun c hc => by grind [ActWf.ok, actWf_bind, addOp_wf, cacheAll_wf, memWf_iff]

theorem finalTarget_wf (h : memWf s) (l target) (ht : s.finalTarget l target = some t) : memWf t := by
  unfold State.finalTarget at ht
  grind [memWf_iff, writePlace_wf, freeRecord_wf]

theorem finalise_wf (h : memWf s) (l test) : memWf (s.finalise l test) := by
  unfold State.finalise
  dsimp only
  split
  · next ht => exact foldl_some_wf (fun _ _ _ h ht => finalTarget_wf h _ _ ht) _ h ht
  · exact ovfUnreachable_wf h _

theorem flush_wf (hc : memWf c.s) (test) : ActWf (c.flush test) := by
  unfold Ctx.flush
  grind [ActWf.ok, ActWf.error, finalise_wf]

theorem execGflush_wf (h : memWf s) (f) : NextWf (execGflush f s) :=
  issue_wf h fun c hc => by grind [ActWf.ok, actWf_bind, flush_wf]

theorem execGflushAll_wf (h : memWf s) (f) : NextWf (execGflushAll f s) := issue_wf h fun _ hc => flush_wf hc _

/-! ## Forward arrays and the gradient engine -/

theorem accept_wf (hc : memWf c.s) (i f x tiles post) : ActWf (c.accept i f x tiles post) := by
  unfold Ctx.accept
  grind [ActWf.ok, ActWf.error, addOp_wf, modCore_wf, coreWf_iff, modFibre_wf]

theorem execMma_wf (h : memWf s) (sub f) : NextWf (execMma sub f s) :=
  issue_wf h fun c hc => by grind [ActWf.ok, illegal_wf, actWf_bind, accept_wf]

theorem execMdist_wf (h : memWf s) (f) : NextWf (execMdist f s) :=
  issue_wf h fun c hc => by grind [ActWf.ok, actWf_bind, accept_wf]

theorem execMzero_wf (h : memWf s) (f) : NextWf (execMzero f s) :=
  issue_wf h fun c hc => by grind [ActWf.ok, actWf_bind, accept_wf]

theorem execMld_wf (h : memWf s) (sub f) : NextWf (execMld sub f s) :=
  issue_wf h fun c hc => by grind [ActWf.ok, actWf_bind, accept_wf]

theorem execMst_wf (h : memWf s) (sub f) : NextWf (execMst sub f s) :=
  issue_wf h fun c hc => by grind [ActWf.ok, actWf_bind, fault_wf, accept_wf]

theorem storeRows_wf (h : memWf s) (t core td rows) : memWf (s.storeRows t core td rows) := by
  unfold State.storeRows
  grind [foldl_wf, tileRows_wf, tileStore_wf]

theorem arrayRun_wf (h : memWf s) (t core o) : memWf (s.arrayRun t core o) := by
  unfold State.arrayRun
  grind [tileRows_wf, storeRows_wf]

theorem execForwardArrayComplete_wf (h : memWf s) (core) : NextWf (execForwardArrayComplete core s) := by
  unfold execForwardArrayComplete
  grind [NextWf.next, NextWf.fault, arrayRun_wf, modCore_wf, coreWf_iff, complete1_wf]

theorem post_wf (hc : memWf c.s) (f scat post) : ActWf (c.post f scat post) := by
  unfold Ctx.post
  grind [ActWf.ok, ActWf.error, addOp_wf, modCluster_wf, modFibre_wf]

theorem execGmma_wf (h : memWf s) (f) : NextWf (execGmma f s) :=
  issue_wf h fun c hc => by grind [ActWf.ok, ActWf.error, actWf_bind, post_wf]

theorem execGradientEngineStart_wf (h : memWf s) (cluster) : NextWf (execGradientEngineStart cluster s) := by
  unfold execGradientEngineStart
  grind [NextWf.next, NextWf.fault, modCluster_wf]

theorem execGradientEngineComplete_wf (h : memWf s) (cluster) : NextWf (execGradientEngineComplete cluster s) := by
  unfold execGradientEngineComplete
  grind [NextWf.next, NextWf.fault, modCluster_wf, complete1_wf, tileRows_wf, memWf_iff]

theorem cancel_wf (h : memWf s) (cluster mine) : memWf (s.cancel cluster mine) :=
  foldl_wf (fun _ _ h => complete1_wf (modCluster_wf h ..) ..) _ h

theorem cancelInstr_wf (h : memWf s) (i f mine) : NextWf (cancelInstr i f mine s) :=
  issue_wf h fun c hc => by grind [ActWf.ok, write_wf, cancel_wf]

theorem execAcqa_wf (h : memWf s) (f) : NextWf (execAcqa f s) :=
  issue_wf h fun c hc => by grind [ActWf.ok, illegal_wf, fault_wf, foldl_wf, modCore_wf, coreWf_iff, modFibre_wf]

theorem grantBanks_wf {c : Core} (hc : CoreWf c) (uid ks) : CoreWf (grantBanks uid ks c) := by
  refine ⟨hc.1, fun b hb => ?_⟩
  obtain ⟨⟨b, k⟩, hm, rfl⟩ := List.mem_map.1 hb
  dsimp only
  split
  · exact noCells_wf
  · exact hc.2 b (List.fst_mem_of_mem_zipIdx hm)

theorem execAccumulatorGrant_wf (h : memWf s) (core) : NextWf (execAccumulatorGrant core s) := by
  unfold execAccumulatorGrant
  split
  · exact .fault _
  split
  · exact .next (modCore_frame_wf h _ (fun _ => rfl) fun _ => rfl)
  dsimp only
  split
  · exact .fault _
  · refine .next (modFibre_wf (modTeam_wf (foldl_wf (fun s k h => modCore_wf h _ fun c hc => ?_) _ h) ..) ..)
    exact grantBanks_wf hc ..

theorem execRela_wf (h : memWf s) (f) : NextWf (execRela f s) :=
  issue_wf h fun c hc => by grind [ActWf.ok, ActWf.error, illegal_wf, releaseAccs_wf, modTeam_wf]

/-! ## Tile loads and stores -/

theorem execLdt_wf (h : memWf s) (sub f) : NextWf (execLdt sub f s) :=
  issue_wf h fun c hc => by
    grind [ActWf.ok, ActWf.error, actWf_bind, foldl_wf, skipPage_wf, addOp_wf, tileRows_wf, readRemote_wf]

theorem ldtArrived_wf (h : memWf s) (t core sub f lanes rd) : memWf (s.ldtArrived t core sub f lanes rd).1 := tileRows_wf h ..

theorem storeMarked_wf (h : memWf s) (p bs) : memWf (s.storeMarked p bs) := by
  unfold State.storeMarked
  grind [foldl_wf, writePlace_wf]

theorem execStt_wf (h : memWf s) (sub f) : NextWf (execStt sub f s) :=
  issue_wf h fun c hc => by
    grind [ActWf.ok, ActWf.error, actWf_bind, foldl_wf, storeMarked_wf, pageStored_wf, addOp_wf, modFibre_wf, sendStores_wf]

/-! ## Tapes -/

theorem putArea_wf (h : memWf s) (a) : memWf (s.putArea a) := h
theorem trimRing_wf (h : memWf s) (uid a) : memWf (s.trimRing uid a) := h

theorem execTapeEntryInRing_wf (h : memWf s) (r op) : NextWf (execTapeEntryInRing r op s) := by
  unfold execTapeEntryInRing
  grind [NextWf.next, NextWf.fault, modTeam_wf, complete1_wf]

theorem execTapeSpill_wf (h : memWf s) (team) : NextWf (execTapeSpill team s) := by
  unfold execTapeSpill
  grind [NextWf.next, NextWf.fault, modTeam_wf]

theorem withArea_wf (hc : memWf c.s) {k : TapeArea → Act} (hk : ∀ a, ActWf (k a)) : ActWf (c.withArea k) := by
  unfold Ctx.withArea
  grind [ActWf.ok, illegal_wf]

theorem entryOp_wf (h : memWf s) (c : Ctx) (a entry) : memWf (c.entryOp s a entry) := addOp_wf (trimRing_wf (putArea_wf h _) ..) ..

theorem execTrec_wf (h : memWf s) (f) : NextWf (execTrec f s) :=
  issue_wf h fun c hc => withArea_wf hc fun a => by
    grind [ActWf.ok, ActWf.error, actWf_bind, illegal_wf, exhausted_wf, putArea_wf, trimRing_wf, newId_wf, entryOp_wf]

theorem tmarkInstr_wf (h : memWf s) (i rc f) : NextWf (tmarkInstr i rc f s) :=
  issue_wf h fun c hc => withArea_wf hc fun a => by
    grind [ActWf.ok, ActWf.error, actWf_bind, illegal_wf, faultLanes_wf, exhausted_wf, newId_wf, entryOp_wf]

theorem execTend_wf (h : memWf s) (f) : NextWf (execTend f s) :=
  issue_wf h fun c hc => withArea_wf hc fun a => by grind [ActWf.ok, illegal_wf, putArea_wf, trimRing_wf]

theorem execTpop_wf (h : memWf s) (f) : NextWf (execTpop f s) := by
  refine issue_wf h fun c hc => ?_
  dsimp only
  split
  · exact illegal_wf ..
  refine withArea_wf hc fun a => ?_
  grind [ActWf.ok, ActWf.error, putArea_wf, modFibre_wf, trimRing_wf, addOp_wf, foldl_wf, putReg_wf, setPreds_wf]

theorem queryInstr_wf (h : memWf s) (i f sh val) : NextWf (queryInstr i f sh val s) :=
  issue_wf h fun _ hc => withArea_wf hc fun _ => .ok (write_wf hc ..)

end Sys2Proof.Laws.Canon
end

section
/-! SUPPORT. The rendering units, queues, messages and the engines of the fabric keep the canonical form. -/

namespace Sys2Proof.Laws.Canon

open Sys2Proof.Machine Sys2Proof.Safety

variable {s t : State} {c : Ctx}

/-! ## Traversal and culling -/

theorem testerInstr_wf (h : memWf s) (i f dn size eval) : NextWf (testerInstr i f dn size eval s) :=
  issue_wf h fun c hc => by grind [ActWf.ok, actWf_bind, withState_wf, cacheAll_wf, readLanes_wf]

theorem execSpush_wf (h : memWf s) (f) : NextWf (execSpush f s) :=
  issue_wf h fun c hc => by
    grind [ActWf.ok, actWf_bind, illegal_wf, faultLanes_wf, withState_wf, cacheAll_wf, modFibre_wf, storeLanes_wf]

theorem execSpop_wf (h : memWf s) (f) : NextWf (execSpop f s) :=
  issue_wf h fun c hc => by
    grind [ActWf.ok, actWf_bind, illegal_wf, setPreds_wf, withState_wf, cacheAll_wf, modFibre_wf, readLanes_wf]

theorem execSpopDepth_wf (h : memWf s) (f) : NextWf (execSpopDepth f s) := issue_wf h fun _ hc => .ok (write_wf hc ..)
theorem execSpopClear_wf (h : memWf s) (f) : NextWf (execSpopClear f s) := issue_wf h fun _ hc => .ok (modFibre_wf hc ..)

theorem execCull_wf (h : memWf s) (f) : NextWf (execCull f s) :=
  issue_wf h fun _ hc => actWf_bind fun _ => .ok (setPreds_wf (write_wf hc ..) ..)

/-! ## Textures and adjoints -/

theorem keepBytes_wf (h : memWf s) (r id bytes) : memWf (s.keepBytes r id bytes) := h

theorem readKeep_wf (hc : memWf c.s) (i classes regs sh lanes ranges eval) : ActWf (c.readKeep i classes regs sh lanes ranges eval) := by
  refine actWf_bind_act (readLanes_wf hc ..) fun p hp => ?_
  dsimp only
  split
  · exact .ok (keepBytes_wf hp ..)
  · exact .ok hp

theorem texInstr_wf (h : memWf s) (i grad f) : NextWf (texInstr i grad f s) :=
  issue_wf h fun c hc => by grind [ActWf.ok, actWf_bind, withState_wf, cacheAll_wf, readKeep_wf]

theorem texqInstr_wf (h : memWf s) (i n tag row f) : NextWf (texqInstr i n tag row f s) :=
  issue_wf h fun c hc => by grind [ActWf.ok, actWf_bind, withState_wf, cacheAll_wf, readLanes_wf]

theorem execTriadj_wf (h : memWf s) (f) : NextWf (execTriadj f s) :=
  issue_wf h fun c hc => by grind [ActWf.ok, actWf_bind, foldl_wf, write_wf, orFlags_wf]

theorem texadjInstr_wf (h : memWf s) (i grad f) : NextWf (texadjInstr i grad f s) :=
  issue_wf h fun c hc => by
    grind [ActWf.ok, actWf_bind, withState_wf, cacheAll_wf, addOp_wf, memWf_iff, orFlags_wf, readKeep_wf]

theorem setQ_wf (h : memWf s) (pa k v) : memWf (s.setQ pa k v) := writePlace_wf h ..

theorem advanceHead_wf (h : memWf s) (pa head) : memWf (s.advanceHead pa head) := by
  unfold State.advanceHead
  grind [setQ_wf, memWf_iff]

theorem execEdgeq_wf (h : memWf s) (f) : NextWf (execEdgeq f s) :=
  issue_wf h fun c hc => by
    grind [ActWf.ok, actWf_bind, advanceHead_wf, setPreds_wf, withState_wf, readLanes_wf]

/-! ## Shader queues -/

theorem putItem_wf (h : memWf s) (ctx unit w va bs) (ht : s.putItem ctx unit w va bs = some t) : memWf t := by
  unfold State.putItem at ht
  grind [request_wf, store_wf]

theorem reserve_wf (h : memWf s) (ctx unit pa q items owner) (ht : s.reserve ctx unit pa q items owner = some t) : memWf t := by
  unfold State.reserve at ht
  refine foldl_some_wf (fun _ _ _ h ht => putItem_wf h _ _ _ _ _ ht) _ ?_ ht
  exact setQ_wf (newId_wf h) ..

theorem execQpushCommit_wf (h : memWf s) (idx) : NextWf (execQpushCommit idx s) := by
  unfold execQpushCommit
  grind [NextWf.next, NextWf.fault, setQ_wf, memWf_iff, complete1_wf]

theorem execQpush_wf (h : memWf s) (sub f) : NextWf (execQpush sub f s) := by
  refine issue_wf h fun c hc => ?_
  dsimp only
  split
  · exact .ok hc
  refine actWf_bind fun _ => actWf_bind fun _ => actWf_bind fun _ => ?_
  split
  · exact actWf_bind fun _ => .ok hc
  refine actWf_bind fun _ => ?_
  split
  · exact .ok (modFibre_wf (addOp_wf (unwalk_wf (newId_wf hc) ..) ..) ..)
  refine actWf_bind fun _ => ?_
  split
  · next ht => exact .ok (reserve_wf (addOp_wf (cacheAll_wf (newId_wf hc) ..) ..) _ _ _ _ _ _ ht)
  · exact .error _

theorem unparkAgain_wf (h : memWf s) (r lanes op) : memWf (s.unparkAgain r lanes op) := h

theorem unparkQpush_wf (h : memWf s) (r tm f g) (ht : s.unparkQpush r tm f g = some t) : memWf t := by
  unfold State.unparkQpush at ht
  split at ht
  · split at ht
    · exact Option.some.inj ht ▸ unparkAgain_wf h ..
    · split at ht
      · cases ht
      · exact map_wf (fun _ hu => reserve_wf h _ _ _ _ _ _ hu) (fun _ h => modThreads_wf h ..) t ht
  · cases ht

theorem execQpushUnpark_wf (h : memWf s) (r) : NextWf (execQpushUnpark r s) := by
  unfold execQpushUnpark
  split
  · dsimp only
    split
    · next hgo =>
      obtain ⟨g, -, hg⟩ := List.mem_filterMap.1 (List.mem_of_getElem? hgo)
      exact .next (unparkQpush_wf h _ _ _ _ hg)
    · exact .fault _
  · exact .fault _

theorem execQinfoRange_wf (h : memWf s) (f) : NextWf (execQinfoRange f s) := issue_wf h fun _ hc => .ok (write_wf (write_wf hc ..) ..)

theorem qinfoInstr_wf (h : memWf s) (i val f) : NextWf (qinfoInstr i val f s) :=
  issue_wf h fun c hc => by grind [ActWf.ok, actWf_bind, write_wf, cacheAll_wf]

/-! ## The rasteriser -/

theorem rasterFails_wf (h : memWf s) (cluster ctx entry syn kind) : memWf (s.rasterFails cluster ctx entry syn kind) :=
  terminate_wf (event_wf h ..) ..

theorem putChunk_wf (h : memWf s) (cluster x) (ht : s.putChunk cluster x = some t) : memWf t := by
  unfold State.putChunk at ht
  grind [rasterFails_wf, reserve_wf]

theorem rasterWrite_wf (n cluster) (h : memWf s) : memWf (s.rasterWrite cluster n) := by
  induction n generalizing s with
  | zero => exact h
  | succ n ih =>
    unfold State.rasterWrite
    dsimp only
    split
    · exact h
    · next hgo =>
      obtain ⟨x, -, hx⟩ := List.mem_filterMap.1 (List.mem_of_getElem? hgo)
      obtain ⟨u, hu, he⟩ := Option.map_eq_some_iff.1 hx
      cases he
      exact ih (modCluster_wf (putChunk_wf h _ _ hu) ..)

theorem execRasteriseTriangle_wf (h : memWf s) (cluster) : NextWf (execRasteriseTriangle cluster s) := by
  unfold execRasteriseTriangle
  grind [NextWf.next, NextWf.fault, rasterWrite_wf, modCore_wf, coreWf_iff, modCluster_wf]

theorem rasterFeed_wf (h : memWf s) (core) : memWf (s.rasterFeed core) := by
  unfold State.rasterFeed
  grind [modCore_wf, coreWf_iff, complete1_wf]

theorem execRasterBufferEntry_wf (h : memWf s) (core) : NextWf (execRasterBufferEntry core s) := by
  unfold execRasterBufferEntry
  grind [NextWf.next, NextWf.fault, rasterFeed_wf]

theorem rasterFill_wf (n core) (h : memWf s) : memWf (s.rasterFill core n) := by
  induction n generalizing s with
  | zero => exact h
  | succ n ih =>
    unfold State.rasterFill
    grind [rasterFeed_wf]

theorem execExptri_wf (h : memWf s) (f) : NextWf (execExptri f s) :=
  issue_wf h fun c hc => by
    grind [ActWf.ok, ActWf.error, actWf_bind, cacheAll_wf, addOp_wf, modCore_wf, coreWf_iff, rasterFill_wf]

/-! ## Messages -/

theorem modQueue_wf (h : memWf s) (cluster q f) : memWf (s.modQueue cluster q f) := h
theorem append_wf (h : memWf s) (core q m) : memWf (s.append core q m) := h
theorem parkMessage_wf (hc : memWf c.s) (i regs) : memWf (c.parkMessage i regs) := modFibre_wf (addOp_wf (newId_wf hc) ..) ..

theorem execMsnd_wf (h : memWf s) (sub f) : NextWf (execMsnd sub f s) :=
  issue_wf h fun c hc => by grind [ActWf.ok, ActWf.error, actWf_bind, fault_wf, setPreds_wf, parkMessage_wf, append_wf]

theorem execMrcv_wf (h : memWf s) (sub f) : NextWf (execMrcv sub f s) :=
  issue_wf h fun c hc => by grind [ActWf.ok, fault_wf, write_wf, setPreds_wf, parkMessage_wf, modQueue_wf]

theorem execMsndUnpark_wf (h : memWf s) (r) : NextWf (execMsndUnpark r s) := by
  unfold execMsndUnpark
  grind [NextWf.next, NextWf.fault, append_wf, modThreads_wf, modFibre_wf]

theorem execMrcvUnpark_wf (h : memWf s) (r) : NextWf (execMrcvUnpark r s) := by
  unfold execMrcvUnpark
  grind [NextWf.next, NextWf.fault, modQueue_wf, modThreads_wf, modFibre_wf]

/-! ## Counters and transfers -/

theorem setCounter_wf (h : memWf s) (ctx die n x) : memWf (s.setCounter ctx die n x) := h
theorem addCounter_wf (h : memWf s) (ctx die n v) : memWf (s.addCounter ctx die n v) := setCounter_wf h ..
theorem errCounter_wf (h : memWf s) (ctx die n) : memWf (s.errCounter ctx die n) := setCounter_wf h ..

theorem execCntrRead_wf (h : memWf s) (f) : NextWf (execCntrRead f s) := issue_wf h fun _ hc => .ok (write_wf hc ..)

theorem cntrWrite_wf (h : memWf s) (i f) {upd : State → Nat → Nat → Nat → Nat → State} (hu : ∀ s a b c d, memWf s → memWf (upd s a b c d)) :
    NextWf (cntrWrite i f upd s) :=
  issue_wf h fun c hc => by grind [ActWf.ok, actWf_bind]

theorem modXfer_wf (h : memWf s) (die id g) : memWf (s.modXfer die id g) := h
theorem dropXfer_wf (h : memWf s) (die id) : memWf (s.dropXfer die id) := h

theorem numberSends_wf (es) (h : memWf s) : memWf (s.numberSends es).1 := by
  induction es generalizing s with
  | nil => exact h
  | cons e es ih =>
    unfold State.numberSends
    grind [takeNums_wf]

theorem startXfer_wf (h : memWf s) (id ctx core unit owner kind dst src n f waitsFor) :
    memWf (s.startXfer id ctx core unit owner kind dst src n f waitsFor) := modDie_wf (numberSends_wf _ h) ..

theorem sendNext_wf (h : memWf s) (die x) (ht : s.sendNext die x = some t) : memWf t := by
  unfold State.sendNext at ht
  grind [modXfer_wf, requestAs_wf, request_wf]

theorem turnCopy_wf (h : memWf s) (die x) : memWf (s.turnCopy die x) := by
  unfold State.turnCopy
  split
  · split
    · exact h
    · have near := foldl_wf (fun _ p h => movePart_wf h s p) x.near h
      exact modXfer_wf (pagesStored_wf (foldl_wf (fun _ _ h => writePlace_wf h ..) _ near) ..) ..
  · exact h

theorem execBulkSend_wf (h : memWf s) (idx) : NextWf (execBulkSend idx s) := by
  unfold execBulkSend
  split
  · exact .fault _
  next die x0 _ =>
  have turned := turnCopy_wf h die x0
  dsimp only
  split
  · exact .fault _
  split
  · exact .fault _
  split
  · exact .fault _
  split
  next ht => exact .next (sendNext_wf turned _ _ ht)
  · exact .fault _

theorem transferOp_wf (hc : memWf c.s) (kind f classes unit dst src cnt rce) : ActWf (c.transferOp kind f classes unit dst src cnt rce) := by
  unfold Ctx.transferOp
  grind [ActWf.ok, actWf_bind, cacheAll_wf, newId_wf, addOp_wf, startXfer_wf]

theorem execCpy_wf (h : memWf s) (f) : NextWf (execCpy f s) :=
  issue_wf h fun c hc => by grind [ActWf.ok, actWf_bind, transferOp_wf]

theorem putInstr_wf (h : memWf s) (i kind f) : NextWf (putInstr i kind f s) :=
  issue_wf h fun c hc => by grind [ActWf.ok, actWf_bind, transferOp_wf]

theorem endXfer_wf (h : memWf s) (die x) : memWf (s.endXfer die x) := by
  unfold State.endXfer
  grind [dropXfer_wf, complete1_wf]

theorem execCpyComplete_wf (h : memWf s) (r op) : NextWf (execCpyComplete r op s) := by
  unfold execCpyComplete
  split
  · exact .fault _
  split
  · split
    · exact .fault _
    next die id _ _ x0 _ =>
    have turned := turnCopy_wf h die x0
    dsimp only
    split
    · exact .fault _
    split
    · exact .next (endXfer_wf turned ..)
    · exact .fault _
  · exact .fault _

theorem xferCounts_wf (h : memWf s) (die x) : memWf (s.xferCounts die x) := by
  unfold State.xferCounts
  grind [addCounter_wf]

theorem completeXfer_wf (h : memWf s) (die id kind) : NextWf (s.completeXfer die id kind) := by
  unfold State.completeXfer
  grind [NextWf.next, NextWf.fault, moveNear_wf, xferCounts_wf, endXfer_wf]

theorem trigInstr_wf (h : memWf s) (i isPut f) : NextWf (trigInstr i isPut f s) :=
  issue_wf h fun c hc => by grind [ActWf.ok, ActWf.error, actWf_bind, cacheAll_wf, modDie_wf]

theorem execTriggerFire_wf (h : memWf s) (die idx) : NextWf (execTriggerFire die idx s) := by
  unfold execTriggerFire
  grind [NextWf.next, NextWf.fault, modDie_wf, errCounter_wf, newId_wf, startXfer_wf]

/-! ## Collectives and faults of outstanding operations -/

theorem collInstr_wf (h : memWf s) (i kind f) : NextWf (collInstr i kind f s) := by
  refine issue_wf h fun c hc => ?_
  dsimp only
  split
  · exact .ok hc
  refine actWf_bind fun _ => actWf_bind fun _ => actWf_bind fun _ => actWf_bind fun _ => actWf_bind fun rd => ?_
  split
  · exact .error _
  split
  · exact illegal_wf ..
  refine actWf_bind fun _ => actWf_bind fun _ => ?_
  split
  · exact .error _
  · exact .ok (modDie_wf (addOp_wf (newId_wf (cacheAll_wf hc ..)) ..) ..)

theorem writePieces_wf (ps pois bs) (h : memWf s) : memWf (s.writePieces pois ps bs) := by
  induction ps generalizing s bs with
  | nil => exact h
  | cons p ps ih => exact ih _ (writePlace_wf h ..)

theorem execCollComplete_wf (h : memWf s) (die id members) : NextWf (execCollComplete die id members s) := by
  unfold execCollComplete
  grind [NextWf.next, NextWf.fault, endXfer_wf, writePieces_wf, foldl_wf, pageStored_wf, xferCounts_wf]

theorem raise_wf (h : memWf s) (r p gen tag) : memWf (s.raise r p gen tag) := by
  unfold State.raise
  grind [terminate_wf, modFibre_wf]

theorem failXfer_wf (h : memWf s) (die x refused tag gen keyIndex) : memWf (s.failXfer die x refused tag gen keyIndex) := by
  unfold State.failXfer
  grind [modXfer_wf, errCounter_wf, raise_wf]

theorem execCollTimeout_wf (h : memWf s) (die id seen) : NextWf (execCollTimeout die id seen s) := by
  unfold execCollTimeout
  grind [NextWf.next, NextWf.fault, failXfer_wf, endXfer_wf, bumpGen_wf]

end Sys2Proof.Laws.Canon
end

section
/-! SUPPORT. Requests, answers and the events of the links and of launches keep the canonical form. -/

namespace Sys2Proof.Laws.Canon

open Sys2Proof.Machine Sys2Proof.Safety

variable {s t : State}

/-! ## Ports and credits -/

theorem modPort_wf (h : memWf s) (p g) : memWf (s.modPort p g) := h
theorem setCredit_wf (h : memWf s) (c) : memWf (s.setCredit c) := h

theorem linkIn_wf (h : memWf s) (x flits) : memWf (s.linkIn x flits) := by
  unfold State.linkIn
  grind [modFab_wf, setCredit_wf]

theorem linkFree_wf (h : memWf s) (x flits) : memWf (s.linkFree x flits) := setCredit_wf h _

theorem sendFlit_wf (h : memWf s) (port x counted) : memWf (s.sendFlit port x counted) := h

theorem sendFlits_wf (h : memWf s) (port xs) : memWf (s.sendFlits port xs) := foldl_wf (fun _ _ h => sendFlit_wf h ..) _ h

theorem sendWaiting_wf (h : memWf s) : memWf s.sendWaiting := by
  obtain ⟨g, hg⟩ := sendWaiting_keeps s
  rw [hg]
  exact h

/-! ## Answers to this package's requests -/

theorem finishLoad_wf (h : memWf s) (r o i lanes bytes) : memWf (s.finishLoad r o i lanes bytes) := by
  unfold State.finishLoad
  grind [orFlags_wf, modOp_wf, complete1_wf]

theorem finishWait_wf (h : memWf s) (r f o ty g x bytes) : memWf (s.finishWait r f o ty g x bytes) := by
  have dropped := dropOp_wf h r o.id
  unfold State.finishWait
  grind [waitPass_wf]

theorem settleAccess_wf (h : memWf s) (r id) : memWf (s.settleAccess r id) := by
  unfold State.settleAccess
  split
  · split
    · split
      · refine ite_wf h ?_
        split
        · exact finishWait_wf h ..
        · exact modOp_wf (ldtArrived_wf h ..) ..
        · exact ite_wf h (finishLoad_wf h ..)
        · exact finishLoad_wf h ..
      · exact ite_wf h (complete1_wf h ..)
      · exact ite_wf h (complete1_wf h ..)
      · exact h
    · exact h
  · exact h

theorem answerFibre_wf (h : memWf s) (r id q data pois) : memWf (s.answerFibre r id q data pois) := by
  have settled (g) := settleAccess_wf (modOp_wf h r id g) r id
  unfold State.answerFibre
  grind [settle_wf]

theorem answerXfer_wf (h : memWf s) (x q data pois) : memWf (s.answerXfer x q data pois) := by
  unfold State.answerXfer
  grind [pagesStored_wf, writePlace_wf, modXfer_wf]

theorem failLoad_wf (h : memWf s) (r o i lanes bytes e) : memWf (s.failLoad r o i lanes bytes e) := by
  unfold State.failLoad
  exact ite_wf h (raise_wf (modOp_wf h ..) ..)

theorem failOp_wf (h : memWf s) (r id e) : memWf (s.failOp r id e) := by
  unfold State.failOp
  split
  · exact h
  split
  · exact h
  split
  · dsimp only
    split
    · split
      · exact raise_wf (dropOp_wf h ..) ..
      · exact dropOp_wf h ..
    · exact settleAccess_wf (raise_wf (modOp_wf h ..) ..) ..
    · split
      · exact raise_wf (dropOp_wf h ..) ..
      · exact dropOp_wf h ..
    · exact ite_wf h (raise_wf (ite_wf (modOp_wf h ..) (dropOp_wf h ..)) ..)
    · exact settleAccess_wf (failLoad_wf h ..) ..
  · exact settleAccess_wf (raise_wf h ..) ..
  · exact settleAccess_wf (raise_wf h ..) ..
  · exact raise_wf h ..
  · exact h

theorem failReqs_wf (h : memWf s) (q qs refused) : memWf (s.failReqs q qs refused) := by
  unfold State.failReqs
  grind [failOp_wf, failXfer_wf]

theorem loseReq_wf (h : memWf s) (q) : memWf (s.loseReq q) := by
  unfold State.loseReq
  refine bumpGen_wf ?_ ..
  exact h

theorem failAll_wf (h : memWf s) (q qs refused) : memWf (s.failAll q qs refused) := by
  unfold State.failAll
  grind [failReqs_wf, memWf_iff]

theorem execFabricRequestTimeout_wf (h : memWf s) (unit tag) : NextWf (execFabricRequestTimeout unit tag s) := by
  unfold execFabricRequestTimeout
  grind [NextWf.next, NextWf.fault, failAll_wf, foldl_wf, loseReq_wf]

theorem takeAnswer_wf (h : memWf s) (a) : NextWf (s.takeAnswer a) := by
  unfold State.takeAnswer
  grind [NextWf.next, NextWf.fault, report_wf, memWf_iff, failAll_wf, modOp_wf, answerFibre_wf, failReqs_wf, answerXfer_wf]

theorem execFabricResponseArrival_wf (h : memWf s) (a) : NextWf (execFabricResponseArrival a s) := by
  unfold execFabricResponseArrival
  split
  · exact .next h
  · exact takeAnswer_wf (linkFree_wf (linkIn_wf h ..) ..) _

/-! ## Requests of other packages -/

theorem performRemote_wf (h : memWf s) (ctx q) : memWf (s.performRemote ctx q).1 := by
  unfold State.performRemote
  grind [storeAt_wf, addCounter_wf]

theorem answer_wf (h : memWf s) (q refused pois data) : memWf (s.answer q refused pois data) := by
  unfold State.answer
  refine handOver_wf ?_ _
  exact h

theorem serveRemote_wf (h : memWf s) (q) : memWf (s.serveRemote q).1 := by
  unfold State.serveRemote
  grind [performRemote_wf, answer_wf]

theorem setSeq_wf (h : memWf s) (x) : memWf (s.setSeq x) := h

theorem takeRemote_wf (h : memWf s) (q) : memWf (s.takeRemote q) := by
  unfold State.takeRemote
  grind [serveRemote_wf, setSeq_wf]

theorem duplicate_wf (h : memWf s) (x q n) : memWf (s.duplicate x q n) := by
  unfold State.duplicate
  grind [answer_wf]

theorem modErrors_wf (h : memWf s) : memWf (State.takeRequest.modErrors s) := h

theorem takeRequest_wf (h : memWf s) (q) : NextWf (s.takeRequest q) := by
  unfold State.takeRequest
  grind [NextWf.next, NextWf.fault, linkFree_wf, setSeq_wf, modErrors_wf, answer_wf, takeRemote_wf, duplicate_wf]

theorem execRemoteRequestArrival_wf (h : memWf s) (q) : NextWf (execRemoteRequestArrival q s) := by
  unfold execRemoteRequestArrival
  grind [NextWf.next, takeRequest_wf, linkIn_wf]

theorem execSkipNoticeArrival_wf (h : memWf s) (src num) : NextWf (execSkipNoticeArrival src num s) := by
  unfold execSkipNoticeArrival
  grind [NextWf.next, setSeq_wf]

/-! ## Events of the links -/

theorem execSlotMarker_wf (h : memWf s) (slot time) : NextWf (execSlotMarker slot time s) := by
  unfold execSlotMarker
  grind [NextWf.next, modFab_wf]

theorem execGuardIntervalEnd_wf (h : memWf s) : NextWf (execGuardIntervalEnd s) := by
  unfold execGuardIntervalEnd
  grind [NextWf.next, NextWf.fault, modFab_wf]

theorem execCalendarLoad_wf (h : memWf s) (start table) : NextWf (execCalendarLoad start table s) :=
  .next (ite_wf (modFab_wf h _) (report_wf (modFab_wf h _) ..))

theorem execPortFailure_wf (h : memWf s) (port laser) : NextWf (execPortFailure port laser s) := by
  unfold execPortFailure
  grind [NextWf.next, NextWf.fault, report_wf, modPort_wf]

theorem execSpareSwitchComplete_wf (h : memWf s) (port) : NextWf (execSpareSwitchComplete port s) := by
  unfold execSpareSwitchComplete
  grind [NextWf.next, NextWf.fault, modPort_wf]

theorem execBlackoutNotice_wf (h : memWf s) (peer port live) : NextWf (execBlackoutNotice peer port live s) := .next (modFab_wf h _)

theorem execCreditUpdateSend_wf (h : memWf s) (peer) : NextWf (execCreditUpdateSend peer s) := by
  unfold execCreditUpdateSend
  grind [NextWf.next, NextWf.fault, modFab_wf, modPort_wf, setCredit_wf]

theorem execCreditUpdateReceived_wf (h : memWf s) (peer freed) : NextWf (execCreditUpdateReceived peer freed s) := .next (setCredit_wf h _)

theorem execCreditIncrementFlit_wf (h : memWf s) (peer) : NextWf (execCreditIncrementFlit peer s) := by
  unfold execCreditIncrementFlit
  grind [NextWf.next, NextWf.fault, sendFlit_wf]

theorem execRelayFlitArrival_wf (h : memWf s) (x) : NextWf (execRelayFlitArrival x s) := by
  unfold execRelayFlitArrival
  grind [NextWf.next, linkIn_wf, linkFree_wf, modFab_wf]

theorem execRelayForward_wf (h : memWf s) (idx) : NextWf (execRelayForward idx s) := by
  unfold execRelayForward
  grind [NextWf.next, NextWf.fault, linkFree_wf, modFab_wf, sendFlits_wf]

theorem execFlitAck_wf (h : memWf s) (x) : NextWf (execFlitAck x s) := .next (modFab_wf h _)

theorem execFlitReplay_wf (h : memWf s) (idx) : NextWf (execFlitReplay idx s) := by
  unfold execFlitReplay
  grind [NextWf.next, NextWf.fault, modFab_wf, modPort_wf]

/-! ## Launch records -/

theorem openArea_wf (h : memWf s) (r) : memWf (s.openArea r) := by
  unfold State.openArea
  grind [putArea_wf, memWf_iff]

theorem setLaunches_wf (h : memWf s) (ls) : memWf { s with launches := ls } := h

theorem execLaunchRecordTake_wf (h : memWf s) (die queue) : NextWf (execLaunchRecordTake die queue s) := by
  unfold execLaunchRecordTake
  split
  · exact .fault _
  split
  · exact .fault _
  split
  · exact .fault _
  split
  · exact .fault _
  extract_lets recVa stat ws w s1 fields
  split
  · have taken : memWf s1.newId.2 := newId_wf (store_wf h ..)
    split
    next id s2 hs =>
    rw [hs] at taken
    extract_lets l
    split
    · exact .next (writeStatus_wf taken ..)
    · exact .next (writeStatus_wf (openArea_wf (setLaunches_wf taken _) _) ..)
  · exact .fault _

theorem execLaunchDependenceMet_wf (h : memWf s) (launch) : NextWf (execLaunchDependenceMet launch s) := by
  unfold execLaunchDependenceMet
  grind [NextWf.next, NextWf.fault, modLaunch_wf, updateStatus_wf]

theorem execQueueAgeLimit_wf (h : memWf s) (launch) : NextWf (execQueueAgeLimit launch s) := by
  unfold execQueueAgeLimit
  grind [NextWf.next, NextWf.fault, modLaunch_wf]

theorem execLaunchStop_wf (h : memWf s) (launch) : NextWf (execLaunchStop launch s) := by
  unfold execLaunchStop
  grind [NextWf.next, NextWf.fault, modLaunch_wf]

end Sys2Proof.Laws.Canon
end

section
/-! SUPPORT. Placing, retiring, saving and resuming teams keep the canonical form: a granted bank starts empty, and a resumed team's
accumulators are those that were saved. -/

namespace Sys2Proof.Laws.Canon

open Sys2Proof.Machine Sys2Proof.Safety

variable {s t : State}

/-! ## Queues and grants -/

theorem takeQueue_wf (h : memWf s) (ctx cluster q) : memWf (s.takeQueue ctx cluster q) := by
  unfold State.takeQueue
  grind [modCtx_wf, modQueue_wf]

theorem releaseQueues_wf (h : memWf s) : memWf s.releaseQueues := h

theorem grantPool_wf (high rs) {c : Core} (hc : CoreWf c) : CoreWf (grantPool high rs c) := by
  induction rs generalizing c with
  | nil => exact hc
  | cons r rs ih =>
    unfold grantPool
    split
    · exact ih ⟨banksWf_set hc.1 _ noCells_wf, hc.2⟩
    · exact hc

theorem coreGrant_wf {c : Core} (hc : CoreWf c) (l uid n busy) : CoreWf (coreGrant l uid n busy c).1 := by
  unfold coreGrant
  refine grantBanks_wf (CoreWf.of_eq (c := grantPool false _ (grantPool false _ _)) ?_ rfl rfl) ..
  refine grantPool_wf _ _ (grantPool_wf _ _ ?_)
  split
  · exact hc
  · exact grantPool_wf _ _ hc

/-! ## Resuming a saved team -/

theorem modBankData_wf (h : memWf s) (core bank) {f : Bank → Bank} (hf : ∀ b, Memory.wf b.data = true → Memory.wf (f b).data = true) :
    memWf (s.modCore core fun c => { c with banks := c.banks.modify bank f }) :=
  modCore_wf h _ fun _ hc => ⟨banksWf_modify hc.1 _ hf, hc.2⟩

theorem fillBank_wf (h : memWf s) (core bank a bs) :
    memWf (s.modCore core fun c => { c with banks := c.banks.modify bank fun b => { b with data := cellsSet b.data a bs } }) :=
  modBankData_wf h _ _ fun _ hb => cellsSet_wf bs hb a

/-- A page of a bank comes back as a copy of memory's cells, or as zeros. -/
theorem refillPage_wf (h : memWf s) (t core bank j p) : memWf (s.refillPage t core bank j p) := by
  have lost := fillBank_wf h core bank (p * 4096) (List.replicate 4096 0)
  unfold State.refillPage
  dsimp only
  split
  · split
    · exact modBankData_wf h _ _ fun _ hb => cellsSplice_wf hb h.1 _ _ _
    · exact lost
  · exact lost

theorem refillBanks_wf (h : memWf s) (t) : memWf (s.refillBanks t) :=
  foldl_wf (fun _ _ h => foldl_wf (fun _ _ h => foldl_wf (fun _ _ h => refillPage_wf h ..) _ h) _ h) _ h

theorem restoreAccs_wf {c : Core} (hc : CoreWf c) (uid ks) {old : List AccBank} (ho : AccsWf old) : CoreWf (restoreAccs uid ks old c) := by
  unfold restoreAccs
  have saved : ∀ p ∈ ks.zip old, Memory.wf p.2.data = true := fun p hp => ho p.2 (List.of_mem_zip hp).2
  generalize ks.zip old = ps at saved
  induction ps generalizing c with
  | nil => exact hc
  | cons p ps ih =>
    refine ih (c := { c with acc := c.acc.set p.1 { p.2 with owner := some uid } }) ⟨hc.1, accsWf_set hc.2 _ ?_⟩ fun q hq => ?_
    · exact saved p (List.mem_cons_self ..)
    · exact saved q (List.mem_cons_of_mem _ hq)

theorem restoreBins_wf {c : Core} (hc : CoreWf c) (clock bins) : CoreWf (restoreBins clock bins c) := by
  refine foldl_keeps (P := CoreWf) (fun c b hc => ?_) _ hc
  split
  · exact hc
  · exact hc

theorem repost_wf (h : memWf s) (uid core reqs) : memWf (s.repost uid core reqs) :=
  foldl_wf (fun _ _ h => modFibre_wf (modCluster_wf h ..) ..) _ h

theorem setDisp_wf (h : memWf s) (l disp) : memWf (s.setDisp l disp) := h

/-! ## Placing -/

theorem savedWf_mem (h : memWf s) {x : SavedTeam} (hx : x ∈ s.saved) : AccsWf (x.accs ++ x.accs2) := h.2.2.2 x hx

theorem savedOf_wf (h : memWf s) (l) {x : SavedTeam} (hx : (s.savedOf l).head? = some x) : AccsWf (x.accs ++ x.accs2) :=
  savedWf_mem h (List.mem_filter.1 (List.mem_of_head? hx)).1

/-- The cores a placement writes are cores of the state it began from. -/
theorem setCores_wf {α : Type} (h : memWf s) (got : List (Nat × Core × α)) (hg : ∀ g ∈ got, CoreWf g.2.1) :
    memWf (got.foldl (fun (s : State) g => s.modCore g.1 fun _ => g.2.1) s) := by
  induction got generalizing s with
  | nil => exact h
  | cons g got ih =>
    exact ih (modCore_wf h _ fun _ _ => hg g (List.mem_cons_self ..)) fun g' hg' => hg g' (List.mem_cons_of_mem _ hg')

theorem placeAt_wf (h : memWf s) (l x core) (hx : ∀ y, x = some y → AccsWf (y.accs ++ y.accs2)) : memWf (s.placeAt l x core) := by
  unfold State.placeAt
  extract_lets r uid got s1 places accs accs2 s2 q fields new started
  have granted : memWf s1 := setCores_wf h got fun g hg => by
    obtain ⟨k, _, rfl⟩ := List.mem_map.1 hg
    exact coreGrant_wf (core_wf h _) ..
  have queued : memWf s2 := foldl_wf (fun _ _ h => takeQueue_wf h ..) _ granted
  clear_value s2
  split
  · have placed : memWf started := queued
    exact ite_wf placed (setDisp_wf placed ..)
  · next y =>
    obtain ⟨hacc, hacc2⟩ := accsWf_append.1 (hx y rfl)
    extract_lets fields t s3 s4 s5
    have standing : memWf s3 := ⟨queued.1, queued.2.1, queued.2.2.1, savedWf_filter queued.2.2.2 _⟩
    have restored : memWf s4 :=
      modCore_wf (modCore_wf standing _ fun _ hc => restoreAccs_wf hc _ _ hacc) _ fun _ hc => restoreAccs_wf hc _ _ hacc2
    have filled : memWf s5 := foldl_wf (fun _ _ h => modCore_wf h _ fun _ hc => restoreBins_wf hc ..) _ (refillBanks_wf restored _)
    exact releaseQueues_wf (modCtx_wf (repost_wf filled ..) ..)

theorem placeOne_wf (h : memWf s) (id closed) (ht : s.placeOne id closed = some t) : memWf t := by
  unfold State.placeOne at ht
  split at ht
  · cases ht
  · obtain ⟨c, _, rfl⟩ := Option.map_eq_some_iff.1 ht
    exact placeAt_wf h _ _ _ fun _ hx => savedOf_wf h _ hx

theorem placeAll_wf (h : memWf s) (l closed) (ht : s.placeAll l closed = some t) : memWf t :=
  foldl_some_wf (fun _ _ _ h ht => placeOne_wf h _ _ ht) _ h ht

theorem placeNext_wf (h : memWf s) (die closed ls) (ht : s.placeNext die closed ls = some t) : memWf t := by
  induction ls generalizing closed with
  | nil => cases ht
  | cons l ls ih =>
    unfold State.placeNext at ht
    grind [placeAll_wf, placeOne_wf]

theorem execTeamPlacement_wf (h : memWf s) (die) : NextWf (execTeamPlacement die s) := by
  unfold execTeamPlacement
  split
  next ht => exact .next (placeNext_wf h _ _ _ ht)
  · exact .fault _

/-! ## Retiring -/

theorem consumeRange_wf (h : memWf s) (l t) : memWf (s.consumeRange l t) := by
  unfold State.consumeRange
  grind [advanceHead_wf, setLaunches_wf]

theorem dropTeam_wf (h : memWf s) (t) : memWf (s.dropTeam t) := by
  unfold State.dropTeam
  extract_lets s1 s2
  have released : memWf s1 := releaseAccs_wf (releaseBanks_wf h t) t
  have cut : memWf s2 := by
    refine (memWf_iff s2).2 ⟨released.1, released.2.1, coresWf_map released.2.2.1 ?_, released.2.2.2⟩
    exact fun _ hc => hc
  exact releaseQueues_wf (releaseShares_wf cut _)

theorem execTeamRetirement_wf (h : memWf s) (team) : NextWf (execTeamRetirement team s) := by
  unfold execTeamRetirement
  grind [NextWf.next, NextWf.fault, dropTeam_wf, updateStatus_wf, modLaunch_wf, consumeRange_wf]

theorem discardPiece_wf (h : memWf s) (la n) : memWf (s.discardPiece la n) :=
  ite_wf (foldl_wf (fun _ _ h => dropSector_wf h _) _ h) h

theorem discardRange_wf (h : memWf s) (ctx va n) : memWf (s.discardRange ctx va n) :=
  foldl_wf (fun _ _ h => ite_wf (discardPiece_wf h ..) h) _ h

theorem discards_wf (h : memWf s) (r) : memWf (s.discards r).1 := by
  unfold State.discards
  refine foldl_keeps (P := fun a : State × Bool => memWf a.1) (fun a e ha => ?_) _ h
  split
  · exact ha
  · split
    · exact discardRange_wf ha ..
    · exact ha

theorem execLaunchCompletion_wf (h : memWf s) (launch) : NextWf (execLaunchCompletion launch s) := by
  unfold execLaunchCompletion
  grind [NextWf.next, NextWf.fault, finalise_wf, discards_wf, writeStatus_wf, addCounter_wf, setLaunches_wf]

/-! ## The requantiser -/

theorem execRequantiserPick_wf (h : memWf s) (page) : NextWf (execRequantiserPick page s) := by
  unfold execRequantiserPick
  grind [NextWf.next, NextWf.fault, skipPage_wf, memWf_iff]

theorem dropFrames_wf (h : memWf s) (base) : memWf (s.dropFrames base) := foldl_wf (fun _ _ h => dropSector_wf h _) _ h

theorem setPoison_wf (h : memWf s) (ks) : memWf { s with poison := ks } := h

theorem commitPage_wf (h : memWf s) (base) : memWf (s.commitPage base) := by
  unfold State.commitPage
  extract_lets bad s1 s2
  have written : memWf s1 := ramWrite_keeps h ..
  exact dropFrames_wf (setHeader_wf (setPoison_wf written _) ..) _

theorem execRequantiserCommit_wf (h : memWf s) (page) : NextWf (execRequantiserCommit page s) := by
  unfold execRequantiserCommit
  grind [NextWf.next, NextWf.fault, commitPage_wf, event_wf, writeReclaim_wf, memWf_iff]

/-! ## Saving -/

theorem stopForSave_wf (h : memWf s) (r) : memWf (s.stopForSave r) := modFibre_wf (landWindows_wf (modFibre_wf h ..) _) ..

theorem stopTeam_wf (h : memWf s) (t) : memWf (s.stopTeam t) := by
  unfold State.stopTeam
  exact mapCores_frame_wf (foldl_wf (fun _ _ h => stopForSave_wf h _) _ h) (fun _ => rfl) fun _ => rfl

theorem accImage_wf {c : Core} (hc : CoreWf c) (ks) : AccsWf (accImage c ks) := by
  intro b hb
  obtain ⟨k, _, rfl⟩ := List.mem_map.1 hb
  exact accsWf_getD hc.2 k

theorem image_wf (h : memWf s) (t stopped) : AccsWf ((s.image t stopped).accs ++ (s.image t stopped).accs2) :=
  accsWf_append.2 ⟨accImage_wf (core_wf h _) _, accImage_wf (core_wf h _) _⟩

theorem writeSaveArea_wf (h : memWf s) (ctx) : memWf (s.writeSaveArea ctx) := ramWrite_keeps h ..

theorem saveTeam_wf (h : memWf s) (t) {x : SavedTeam} (hx : AccsWf (x.accs ++ x.accs2)) : memWf (s.saveTeam t x) := by
  unfold State.saveTeam
  extract_lets s1 s2
  have kept : memWf s1 := by
    refine (memWf_iff s1).2 ⟨h.1, h.2.1, coresWf_map h.2.2.1 ?_, savedWf_snoc h.2.2.2 hx⟩
    exact fun _ hc => hc
  exact writeSaveArea_wf (dropTeam_wf (modCtx_wf kept ..) _) _

theorem beginSave_wf (h : memWf s) (ctx) : memWf (s.beginSave ctx) := modCtx_wf (foldl_wf (fun _ _ h => stopTeam_wf h _) _ h) ..

theorem execDrainDeadline_wf (h : memWf s) (ctx) : NextWf (execDrainDeadline ctx s) := by
  unfold execDrainDeadline
  grind [NextWf.next, NextWf.fault, beginSave_wf, saveTeam_wf, image_wf, terminate_wf, modCtx_wf]

theorem execSaveDeadline_wf (h : memWf s) (ctx) : NextWf (execSaveDeadline ctx s) := by
  unfold execSaveDeadline
  grind [NextWf.next, NextWf.fault, terminate_wf]

theorem saveAll_wf (ts) (h : memWf s) (ht : s.saveAll ts = some t) : memWf t := by
  induction ts generalizing s with
  | nil => exact Option.some.inj ht ▸ h
  | cons u ts ih =>
    have stopped := stopTeam_wf h u
    unfold State.saveAll at ht
    grind [saveTeam_wf, image_wf, terminate_wf]

theorem placeWaiting_wf (h : memWf s) (l x) (hx : ∀ y, x = some y → AccsWf (y.accs ++ y.accs2)) (ht : s.placeWaiting l x = some t) : memWf t := by
  unfold State.placeWaiting at ht
  split at ht
  · exact placeAll_wf h _ _ ht
  · split at ht
    · cases ht
    · obtain ⟨c, _, rfl⟩ := Option.map_eq_some_iff.1 ht
      exact placeAt_wf h _ _ _ hx

theorem execParkSwap_wf (h : memWf s) (core) : NextWf (execParkSwap core s) := by
  unfold execParkSwap
  dsimp only
  split
  · exact .fault _
  split
  · exact .fault _
  split
  · exact .fault _
  next l _ s1 hs =>
  have saved := saveAll_wf _ h hs
  split
  · exact .next saved
  · exact .next (getD_wf (fun _ ht => placeWaiting_wf saved _ _ (fun _ hx => savedOf_wf h _ hx) ht) saved)

theorem execWatchdogFire_wf (h : memWf s) (team) : NextWf (execWatchdogFire team s) := by
  unfold execWatchdogFire
  grind [NextWf.next, NextWf.fault, event_wf, terminate_wf]

theorem execTerminationComplete_wf (h : memWf s) (ctx) : NextWf (execTerminationComplete ctx s) := by
  unfold execTerminationComplete
  split
  · exact .fault _
  · exact .next (event_wf (modCtx_wf (setLaunches_wf (foldl_wf (fun _ _ h => dropTeam_wf h _) _ h) _) ..) ..)

end Sys2Proof.Laws.Canon
end

section
/-! SUPPORT. The mailbox's commands and the package's events keep the canonical form; after a loss the host's cells alone stay, in order. -/

namespace Sys2Proof.Laws.Canon

open Sys2Proof.Machine Sys2Proof.Safety

variable {s t : State}

/-! ## Commands -/

theorem finishCmd_wf (h : memWf s) (status) : memWf (s.finishCmd status) := by
  unfold State.finishCmd
  have written := writePlace_wf h (.ram (s.mbox.cmdAddr + 5)) [BitVec.ofNat 8 status] false
  exact written

/-- A command's answer whose state, if there is one, meets the invariant. -/
inductive AnsWf : Option (State × Nat) → Prop where
  | done {p : State × Nat} (h : memWf p.1) : AnsWf (some p)
  | later : AnsWf none

theorem command_wf (h : memWf s) (op c) {body : State → Option (State × Nat)} (hb : ∀ s, memWf s → AnsWf (body s)) :
    NextWf (command op c body s) := by
  have answered := hb s h
  unfold command
  split
  · exact .fault _
  split
  · exact .next (finishCmd_wf h _)
  split
  next hs =>
    rw [hs] at answered
    cases answered with
    | done h => exact .next (finishCmd_wf h _)
  · exact .fault _

theorem renewContext_wf (h : memWf s) (ctx w0 w1 w2 w3) : memWf (s.renewContext ctx w0 w1 w2 w3) := h
theorem setQueue_wf (h : memWf s) (die q r) : memWf (s.setQueue die q r) := h
theorem retryPage_wf (h : memWf s) (r) : memWf (s.retryPage r) := h

theorem failPage_wf (h : memWf s) (r w) : memWf (s.failPage r w) := by
  unfold State.failPage
  grind [retryPage_wf, trap_wf]

theorem execRegisterContext_wf (h : memWf s) (c) : NextWf (execRegisterContext c s) :=
  command_wf h _ _ fun s h => by grind [AnsWf.done, renewContext_wf]

theorem execRegisterLaunchQueue_wf (h : memWf s) (c) : NextWf (execRegisterLaunchQueue c s) :=
  command_wf h _ _ fun s h => by grind [AnsWf.done, setQueue_wf]

theorem execRegisterReclaimQueue_wf (h : memWf s) (c) : NextWf (execRegisterReclaimQueue c s) :=
  command_wf h _ _ fun s h => by grind [AnsWf.done, memWf_iff]

theorem execRequantiserThreshold_wf (h : memWf s) (c) : NextWf (execRequantiserThreshold c s) :=
  command_wf h _ _ fun _ h => .done (modDie_wf h ..)

theorem execInvalidateTranslation_wf (h : memWf s) (c) : NextWf (execInvalidateTranslation c s) :=
  command_wf h _ _ fun s h => by grind [AnsWf.done, invalidate_wf]

theorem execPageReply_wf (h : memWf s) (c) : NextWf (execPageReply c s) :=
  command_wf h _ _ fun s h => by grind [AnsWf.done, AnsWf.later, foldl_wf, retryPage_wf, failPage_wf, memWf_iff]

theorem execPreemptContext_wf (h : memWf s) (c) : NextWf (execPreemptContext c s) :=
  command_wf h _ _ fun s h => by grind [AnsWf.done, modCtx_wf]

theorem execLiftPreemption_wf (h : memWf s) (c) : NextWf (execLiftPreemption c s) :=
  command_wf h _ _ fun s h => by grind [AnsWf.done, modCtx_wf]

theorem execTerminateContext_wf (h : memWf s) (c) : NextWf (execTerminateContext c s) :=
  command_wf h _ _ fun s h => by grind [AnsWf.done, AnsWf.later, terminate_wf]

theorem execRegisterWindowKey_wf (h : memWf s) (c) : NextWf (execRegisterWindowKey c s) :=
  command_wf h _ _ fun s h => by grind [AnsWf.done, modCtx_wf]

theorem execFirmwareChunk_wf (h : memWf s) (c) : NextWf (execFirmwareChunk c s) :=
  command_wf h _ _ fun s h => by grind [AnsWf.done, memWf_iff]

theorem execSetPowerLimit_wf (h : memWf s) (c) : NextWf (execSetPowerLimit c s) :=
  command_wf h _ _ fun s h => by grind [AnsWf.done, memWf_iff]

theorem execReservedCommand_wf (h : memWf s) (c) : NextWf (execReservedCommand c s) :=
  command_wf h _ _ fun _ h => .done h

theorem runCommand_wf (h : memWf s) (c) : NextWf (runCommand c s) := by
  unfold runCommand
  split
  · exact execRegisterContext_wf h c
  · exact execRegisterLaunchQueue_wf h c
  · exact execRegisterReclaimQueue_wf h c
  · exact execRequantiserThreshold_wf h c
  · exact execInvalidateTranslation_wf h c
  · exact execPageReply_wf h c
  · exact execPreemptContext_wf h c
  · exact execLiftPreemption_wf h c
  · exact execTerminateContext_wf h c
  · exact execRegisterWindowKey_wf h c
  · exact execFirmwareChunk_wf h c
  · exact execSetPowerLimit_wf h c
  · exact execReservedCommand_wf h c

theorem execMailboxRegisterWrite_wf (h : memWf s) (offset v) : NextWf (execMailboxRegisterWrite offset v s) := by
  refine .next (drainEvents_wf ?_)
  exact h

/-! ## Errors of memories -/

theorem poisonOne_wf (h : memWf s) (a rows k) : memWf (s.poisonOne a rows k) := by
  unfold State.poisonOne
  split
  · exact putArea_wf h _
  · exact h

theorem poisonTape_wf (h : memWf s) (team tid) : memWf (s.poisonTape team tid) := by
  unfold State.poisonTape
  grind [poisonOne_wf]

theorem poisonAreas_wf (h : memWf s) (la) : memWf (s.poisonAreas la) := by
  unfold State.poisonAreas
  grind [foldl_wf, poisonOne_wf]

/-- An error in a bank marks its cells and keeps them. -/
theorem sramLoss_wf (h : memWf s) (e) : memWf (s.sramLoss e) := by
  unfold State.sramLoss
  split
  · exact modTeam_wf h ..
  · exact modBankData_wf h _ _ fun _ hb => hb
  · exact poisonTape_wf h ..
  · exact modCore_wf h _ fun _ hc => ⟨hc.1, accsWf_modify hc.2 _ fun _ hb => hb⟩
  · exact modCore_frame_wf h _ (fun _ => rfl) fun _ => rfl
  · exact h
  · exact h

theorem countCorrected_wf (h : memWf s) (k) : memWf (s.modCore k fun c => { c with corrected := c.corrected + 1 }) :=
  modCore_frame_wf h _ (fun _ => rfl) fun _ => rfl

theorem execSramEccError_wf (h : memWf s) (e) : NextWf (execSramEccError e s) := by
  unfold execSramEccError
  grind [NextWf.next, NextWf.fault, sramLoss_wf, event_wf, countCorrected_wf]

theorem execUncorrectableStateError_wf (h : memWf s) (e) : NextWf (execUncorrectableStateError e s) := by
  unfold execUncorrectableStateError
  grind [NextWf.next, NextWf.fault, terminate_wf, event_wf, countCorrected_wf]

theorem execClusterEccError_wf (h : memWf s) (e) : NextWf (execClusterEccError e s) := by
  unfold execClusterEccError
  grind [NextWf.next, NextWf.fault, rasterFails_wf, event_wf, modCluster_wf]

theorem execMemoryEccError_wf (h : memWf s) (e) : NextWf (execMemoryEccError e s) := by
  unfold execMemoryEccError
  grind [NextWf.next, NextWf.fault, poisonAreas_wf, event_wf, memWf_iff]

theorem poisonSum_wf (h : memWf s) (target record) : memWf (s.poisonSum target record) := by
  unfold State.poisonSum
  grind [writeRecord_wf, memWf_iff]

theorem execScatterUnitError_wf (h : memWf s) (target record) : NextWf (execScatterUnitError target record s) := by
  unfold execScatterUnitError
  grind [NextWf.next, NextWf.fault, poisonSum_wf, event_wf]

theorem execPatrolScrub_wf (h : memWf s) (addr) : NextWf (execPatrolScrub addr s) := by
  unfold execPatrolScrub
  grind [NextWf.next, NextWf.fault]

theorem setDown_wf (h : memWf s) (b) : memWf { s with down := b } := h

theorem endAll_wf (h : memWf s) : memWf s.endAll :=
  setDown_wf (foldl_wf (fun _ _ h => ite_wf (terminate_wf h ..) h) _ h) true

theorem execBridgeFlitFailure_wf (h : memWf s) (replays) : NextWf (execBridgeFlitFailure replays s) := by
  unfold execBridgeFlitFailure
  grind [NextWf.next, NextWf.fault, endAll_wf]

/-! ## The host -/

theorem execHostSnoop_wf (h : memWf s) (line stores) : NextWf (execHostSnoop line stores s) := by
  unfold execHostSnoop
  grind [NextWf.next, NextWf.fault, foldl_wf, writePlace_wf, memWf_iff]

theorem execHostMemAccess_wf (h : memWf s) (a) : NextWf (execHostMemAccess a s) := by
  unfold execHostMemAccess
  grind [NextWf.next, NextWf.fault, storeAt_wf, memWf_iff]

theorem execConfigurationRequest_wf (h : memWf s) (q) : NextWf (execConfigurationRequest q s) := by
  unfold execConfigurationRequest
  grind [NextWf.next, memWf_iff]

/-! ## Reset, power and attestation -/

theorem resetCores_wf : CoresWf State.reset.cores := by
  intro c hc
  obtain ⟨-, rfl⟩ := List.mem_replicate.1 (hc : c ∈ List.replicate 128 Core.reset)
  exact coreReset_wf

theorem reset_wf : memWf State.reset := ⟨rfl, rfl, resetCores_wf, fun _ hx => nomatch hx⟩

theorem hostCells_wf {m : List Host.Cell} (hm : Memory.wf m = true) : Memory.wf (hostCells m) = true := filter_wf _ hm

theorem lost_wf (h : memWf s) : memWf s.lost := ⟨hostCells_wf h.1, hostCells_wf h.2.1, reset_wf.2.2⟩

theorem execPackageReset_wf (h : memWf s) (pkg) : NextWf (execPackageReset pkg s) := by
  refine .next ?_
  exact lost_wf h

theorem setOn_wf (h : memWf s) (b) : memWf { s with on := b } := h

theorem off_wf (h : memWf s) : memWf s.off := setOn_wf (lost_wf h) _

theorem execPowerLoss_wf (h : memWf s) : NextWf (execPowerLoss s) := .next (off_wf h)

theorem execThermalTrip_wf (h : memWf s) : NextWf (execThermalTrip s) := .next (off_wf h)

theorem execPowerArbiterPeriod_wf (h : memWf s) (draw busyGrad busyFwd) : NextWf (execPowerArbiterPeriod draw busyGrad busyFwd s) := by
  refine .next ?_
  exact h

theorem execThermalLimitChange_wf (h : memWf s) (celsius) : NextWf (execThermalLimitChange celsius s) := by
  unfold execThermalLimitChange
  grind [NextWf.next, NextWf.fault, event_wf, memWf_iff]

theorem doeAnswer_wf (h : memWf s) (kind req) : memWf (s.doeAnswer kind req) := h

theorem execGetVersion_wf (h : memWf s) (req) : NextWf (execGetVersion req s) := .next (doeAnswer_wf h ..)
theorem execGetCapabilities_wf (h : memWf s) (req) : NextWf (execGetCapabilities req s) := .next (doeAnswer_wf h ..)
theorem execNegotiateAlgorithms_wf (h : memWf s) (req) : NextWf (execNegotiateAlgorithms req s) := .next (doeAnswer_wf h ..)
theorem execGetDigests_wf (h : memWf s) (req) : NextWf (execGetDigests req s) := .next (doeAnswer_wf h ..)
theorem execGetCertificate_wf (h : memWf s) (req) : NextWf (execGetCertificate req s) := .next (doeAnswer_wf h ..)
theorem execChallenge_wf (h : memWf s) (req) : NextWf (execChallenge req s) := .next (doeAnswer_wf h ..)
theorem execKeyExchange_wf (h : memWf s) (req) : NextWf (execKeyExchange req s) := .next (doeAnswer_wf h ..)

theorem execGetMeasurements_wf (h : memWf s) (req) : NextWf (execGetMeasurements req s) := by
  refine .next ?_
  exact h

theorem execIdeKm_wf (h : memWf s) (req) : NextWf (execIdeKm req s) := by
  refine .next ?_
  exact h

end Sys2Proof.Laws.Canon
end

section
/-! SUPPORT. Every meaning of an instruction, event or input keeps the canonical form, and so does the passing of time. -/

namespace Sys2Proof.Laws.Canon

open Sys2Proof.Machine Sys2Proof.Safety

variable {s t : State}

/-- No instruction, event or input leaves the canonical form. A type is given where the unifier would otherwise unfold the family that
the meaning is one case of. -/
theorem exec_wf (h : memWf s) (i) : NextWf (exec i s) := by
  cases i with
  | iadd | isub | idiv | irem | imin | imax | iabsd | shl | shr | sar | rot | bfx => exact intBin_wf h ..
  | imul => exact execImul_wf h ..
  | imad | bfi => exact intTern_wf h ..
  | and | or | xor => exact wordBin_wf h ..
  | lea ty f => exact (wordBin_wf h .. : NextWf (execLea ty f s))
  | popc | clz | brev => exact intUn_wf h ..
  | sel => exact execSel_wf h ..
  | icmp => exact execIcmp_wf h ..
  | mov => exact execMov_wf h ..
  | subx => exact execSubx_wf h ..
  | movi | movhi => exact immMove_wf h ..
  | iaddi => exact execIaddi_wf h ..
  | andi f => exact (immOp_wf h .. : NextWf (execAndi f s))
  | ori f => exact (immOp_wf h .. : NextWf (execOri f s))
  | xori f => exact (immOp_wf h .. : NextWf (execXori f s))
  | icmpi => exact execIcmpi_wf h ..
  | fdiv => exact fltBin_wf h ..
  | fadd ty f => exact (fltBin_wf h .. : NextWf (execFadd ty f s))
  | fmul ty f => exact (fltBin_wf h .. : NextWf (execFmul ty f s))
  | fmin ty f => exact (fltBin_wf h .. : NextWf (execFmin ty f s))
  | fmax ty f => exact (fltBin_wf h .. : NextWf (execFmax ty f s))
  | ffma => exact execFfma_wf h ..
  | fcmp => exact execFcmp_wf h ..
  | fclass => exact execFclass_wf h ..
  | fdot => exact execFdot_wf h ..
  | fround => exact execFround_wf h ..
  | frcp ty f => exact (fltUn_wf h .. : NextWf (execFrcp ty f s))
  | frsq ty f => exact (fltUn_wf h .. : NextWf (execFrsq ty f s))
  | fsqrt ty f => exact (fltUn_wf h .. : NextWf (execFsqrt ty f s))
  | fexp2 ty f => exact (fltUn_wf h .. : NextWf (execFexp2 ty f s))
  | flog2 ty f => exact (fltUn_wf h .. : NextWf (execFlog2 ty f s))
  | fsin ty f => exact (fltUn_wf h .. : NextWf (execFsin ty f s))
  | fcos ty f => exact (fltUn_wf h .. : NextWf (execFcos ty f s))
  | fcvt | icvt | fcvti => exact convert_wf h ..
  | fscale => exact execFscale_wf h ..
  | bcvtScale => exact execBcvtScale_wf h ..
  | bcvtEnc => exact execBcvtEnc_wf h ..
  | bcvtDec => exact execBcvtDec_wf h ..
  | shfl => exact execShfl_wf h ..
  | voteAny | voteAll | voteBallot | voteCount => exact vote_wf h ..
  | cdetMask => exact execCdetMask_wf h ..
  | cdetFadd => exact execCdetFadd_wf h ..
  | cdetIadd => exact execCdetIadd_wf h ..
  | lred | lscan => exact foldInstr_wf h ..
  | wbind => exact execWbind_wf h ..
  | wctlEnds sub f => exact (wctl_wf h .. : NextWf (execWctlEnds sub f s))
  | wctlVtype sub f => exact (wctl_wf h .. : NextWf (execWctlVtype sub f s))
  | wctlShift sub f => exact (wctl_wf h .. : NextWf (execWctlShift sub f s))
  | wctlRew sub f => exact (wctl_wf h .. : NextWf (execWctlRew sub f s))
  | wctlSkip sub f => exact (wctl_wf h .. : NextWf (execWctlSkip sub f s))
  | wctlUnbind => exact execWctlUnbind_wf h ..
  | wctlTell => exact execWctlTell_wf h ..
  | shapeGet => exact execShapeGet_wf h ..
  | shapeGen => exact execShapeGen_wf h ..
  | shapeUni => exact execShapeUni_wf h ..
  | shapeAff => exact execShapeAff_wf h ..
  | ftagGet => exact execFtagGet_wf h ..
  | ftagSet => exact execFtagSet_wf h ..
  | ftagTget => exact execFtagTget_wf h ..
  | ftagTset => exact execFtagTset_wf h ..
  | bra => exact execBra_wf h ..
  | brx => exact execBrx_wf h ..
  | call => exact execCall_wf h ..
  | callX => exact execCallX_wf h ..
  | ret => exact execRet_wf h ..
  | exit => exact execExit_wf h ..
  | join => exact execJoin_wf h ..
  | joinM => exact execJoinM_wf h ..
  | reform => exact execReform_wf h ..
  | reformX => exact execReformX_wf h ..
  | galleryDraw => exact execGalleryDraw_wf h ..
  | binAgeLimit => exact execBinAgeLimit_wf h ..
  | yield => exact execYield_wf h ..
  | nop => exact execNop_wf h ..
  | fbarArrive => exact execFbarArrive_wf h ..
  | fbarWait => exact execFbarWait_wf h ..
  | tbar | tbarArrive => exact teamBarrier_wf h ..
  | ld | ld2 | ldn => exact loadInstr_wf h ..
  | st | st2 | stn => exact storeInstr_wf h ..
  | atom | red => exact atomInstr_wf h ..
  | fence | fenceDom => exact fenceInstr_wf h ..
  | wait => exact execWait_wf h ..
  | waitRetestWrite | waitRetestTimer => exact retest_wf h ..
  | prefetch => exact execPrefetch_wf h ..
  | ldt => exact execLdt_wf h ..
  | stt => exact execStt_wf h ..
  | cpy => exact execCpy_wf h ..
  | cpyComplete => exact execCpyComplete_wf h ..
  | lockWait => exact execLockWait_wf h ..
  | lockTest => exact execLockTest_wf h ..
  | bmodeL1 => exact bmodeInstr_wf h ..
  | bmodeScr f => exact (bmodeInstr_wf h .. : NextWf (execBmodeScr f s))
  | bmodeFifo f => exact (bmodeInstr_wf h .. : NextWf (execBmodeFifo f s))
  | fpgQuery | fpgPin | fpgUnpin | fpgForce => exact fpgInstr_wf h ..
  | parkedAccessResume => exact execParkedAccessResume_wf h ..
  | tdesc => exact execTdesc_wf h ..
  | tget => exact execTget_wf h ..
  | mma => exact execMma_wf h ..
  | mdist => exact execMdist_wf h ..
  | gmma => exact execGmma_wf h ..
  | acqa => exact execAcqa_wf h ..
  | rela => exact execRela_wf h ..
  | mzero => exact execMzero_wf h ..
  | mld => exact execMld_wf h ..
  | mst => exact execMst_wf h ..
  | mcancel | mcancelTeam => exact cancelInstr_wf h ..
  | accumulatorGrant => exact execAccumulatorGrant_wf h ..
  | forwardArrayComplete => exact execForwardArrayComplete_wf h ..
  | gradientEngineStart => exact execGradientEngineStart_wf h ..
  | gradientEngineComplete => exact execGradientEngineComplete_wf h ..
  | trec => exact execTrec_wf h ..
  | tmarkRec | tmarkRc => exact tmarkInstr_wf h ..
  | tpop => exact execTpop_wf h ..
  | tend => exact execTend_wf h ..
  | tqueryNext | tqueryUsed | tqueryQuota => exact queryInstr_wf h ..
  | tapeSpill => exact execTapeSpill_wf h ..
  | tapeRefill r op => exact (completeKind_wf h .. : NextWf (execTapeRefill r op s))
  | tileTransferComplete r op => exact (completeKind_wf h .. : NextWf (execTileTransferComplete r op s))
  | gscat => exact execGscat_wf h ..
  | scatterAddition => exact execScatterAddition_wf h ..
  | gflush => exact execGflush_wf h ..
  | gflushAll => exact execGflushAll_wf h ..
  | triadj => exact execTriadj_wf h ..
  | texadjLod | texadjGrad => exact texadjInstr_wf h ..
  | edgeq => exact execEdgeq_wf h ..
  | boxt | trit => exact testerInstr_wf h ..
  | spush => exact execSpush_wf h ..
  | spop => exact execSpop_wf h ..
  | spopDepth => exact execSpopDepth_wf h ..
  | spopClear => exact execSpopClear_wf h ..
  | cull => exact execCull_wf h ..
  | exptri => exact execExptri_wf h ..
  | rasterBufferEntry => exact execRasterBufferEntry_wf h ..
  | rasteriseTriangle => exact execRasteriseTriangle_wf h ..
  | texLod | texGrad => exact texInstr_wf h ..
  | texqSize | texqLod => exact texqInstr_wf h ..
  | qpush => exact execQpush_wf h ..
  | qpushUnpark => exact execQpushUnpark_wf h ..
  | qpushCommit => exact execQpushCommit_wf h ..
  | qinfoRange => exact execQinfoRange_wf h ..
  | qinfoSpace => exact qinfoInstr_wf h ..
  | qinfoFill f => exact (qinfoInstr_wf h .. : NextWf (execQinfoFill f s))
  | msnd => exact execMsnd_wf h ..
  | mrcv => exact execMrcv_wf h ..
  | msndUnpark => exact execMsndUnpark_wf h ..
  | mrcvUnpark => exact execMrcvUnpark_wf h ..
  | put | get => exact putInstr_wf h ..
  | putComplete | getComplete => exact completeXfer_wf h ..
  | cntrRead => exact execCntrRead_wf h ..
  | cntrAdd => exact cntrWrite_wf h _ _ fun _ _ _ _ _ h => addCounter_wf h ..
  | cntrSet f => exact (cntrWrite_wf h _ _ fun _ _ _ _ _ h => setCounter_wf h .. : NextWf (execCntrSet f s))
  | trigPut | trigGet => exact trigInstr_wf h ..
  | triggerFire => exact execTriggerFire_wf h ..
  | collAllreduce | collRscatter | collBcast => exact collInstr_wf h ..
  | collComplete => exact execCollComplete_wf h ..
  | collTimeout => exact execCollTimeout_wf h ..
  | sget => exact execSget_wf h ..
  | sset => exact execSset_wf h ..
  | trap => exact execTrap_wf h ..
  | tret => exact execTret_wf h ..
  | tinv => exact execTinv_wf h ..
  | copInv => exact execCopInv_wf h ..
  | copInvall => exact execCopInvall_wf h ..
  | halt => exact execHalt_wf h ..
  | brk => exact execBrk_wf h ..
  | clauseIssue r => exact (serveEvent_wf h .. : NextWf (execClauseIssue r s))
  | pathAgeing r => exact (serveEvent_wf h .. : NextWf (execPathAgeing r s))
  | clauseFetchFill => exact execClauseFetchFill_wf h ..
  | lookaheadLanding => exact execLookaheadLanding_wf h ..
  | scoreboardLanding => exact execScoreboardLanding_wf h ..
  | storeAcknowledged => exact execStoreAcknowledged_wf h ..
  | loadReply => exact execLoadReply_wf h ..
  | launchRecordTake => exact execLaunchRecordTake_wf h ..
  | launchDependenceMet => exact execLaunchDependenceMet_wf h ..
  | teamPlacement => exact execTeamPlacement_wf h ..
  | teamRetirement => exact execTeamRetirement_wf h ..
  | launchCompletion => exact execLaunchCompletion_wf h ..
  | queueAgeLimit => exact execQueueAgeLimit_wf h ..
  | launchStop => exact execLaunchStop_wf h ..
  | requantiserPick => exact execRequantiserPick_wf h ..
  | requantiserCommit => exact execRequantiserCommit_wf h ..
  | drainDeadline => exact execDrainDeadline_wf h ..
  | saveDeadline => exact execSaveDeadline_wf h ..
  | parkSwap => exact execParkSwap_wf h ..
  | watchdogFire => exact execWatchdogFire_wf h ..
  | terminationComplete => exact execTerminationComplete_wf h ..
  | fabricRequestTimeout => exact execFabricRequestTimeout_wf h ..
  | sramEccError => exact execSramEccError_wf h ..
  | uncorrectableStateError => exact execUncorrectableStateError_wf h ..
  | clusterEccError => exact execClusterEccError_wf h ..
  | memoryEccError => exact execMemoryEccError_wf h ..
  | scatterUnitError => exact execScatterUnitError_wf h ..
  | patrolScrub => exact execPatrolScrub_wf h ..
  | hostSnoop => exact execHostSnoop_wf h ..
  | hostMemAccess => exact execHostMemAccess_wf h ..
  | bridgeFlitFailure => exact execBridgeFlitFailure_wf h ..
  | packageReset => exact execPackageReset_wf h ..
  | powerLoss => exact execPowerLoss_wf h ..
  | powerArbiterPeriod => exact execPowerArbiterPeriod_wf h ..
  | thermalLimitChange => exact execThermalLimitChange_wf h ..
  | thermalTrip => exact execThermalTrip_wf h ..
  | registerContext => exact execRegisterContext_wf h ..
  | registerLaunchQueue => exact execRegisterLaunchQueue_wf h ..
  | registerReclaimQueue => exact execRegisterReclaimQueue_wf h ..
  | requantiserThreshold => exact execRequantiserThreshold_wf h ..
  | invalidateTranslation => exact execInvalidateTranslation_wf h ..
  | pageReply => exact execPageReply_wf h ..
  | preemptContext => exact execPreemptContext_wf h ..
  | liftPreemption => exact execLiftPreemption_wf h ..
  | terminateContext => exact execTerminateContext_wf h ..
  | registerWindowKey => exact execRegisterWindowKey_wf h ..
  | firmwareChunk => exact execFirmwareChunk_wf h ..
  | setPowerLimit => exact execSetPowerLimit_wf h ..
  | reservedCommand => exact execReservedCommand_wf h ..
  | mailboxRegisterWrite => exact execMailboxRegisterWrite_wf h ..
  | getVersion => exact execGetVersion_wf h ..
  | getCapabilities => exact execGetCapabilities_wf h ..
  | negotiateAlgorithms => exact execNegotiateAlgorithms_wf h ..
  | getDigests => exact execGetDigests_wf h ..
  | getCertificate => exact execGetCertificate_wf h ..
  | challenge => exact execChallenge_wf h ..
  | getMeasurements => exact execGetMeasurements_wf h ..
  | keyExchange => exact execKeyExchange_wf h ..
  | ideKm => exact execIdeKm_wf h ..
  | slotMarker => exact execSlotMarker_wf h ..
  | calendarLoad => exact execCalendarLoad_wf h ..
  | bulkSend => exact execBulkSend_wf h ..
  | relayFlitArrival => exact execRelayFlitArrival_wf h ..
  | relayForward => exact execRelayForward_wf h ..
  | creditUpdateSend => exact execCreditUpdateSend_wf h ..
  | creditUpdateReceived => exact execCreditUpdateReceived_wf h ..
  | creditIncrementFlit => exact execCreditIncrementFlit_wf h ..
  | flitAck => exact execFlitAck_wf h ..
  | flitReplay => exact execFlitReplay_wf h ..
  | remoteRequestArrival => exact execRemoteRequestArrival_wf h ..
  | skipNoticeArrival => exact execSkipNoticeArrival_wf h ..
  | fabricResponseArrival => exact execFabricResponseArrival_wf h ..
  | portFailure => exact execPortFailure_wf h ..
  | spareSwitchComplete => exact execSpareSwitchComplete_wf h ..
  | tapeEntryInRing => exact execTapeEntryInRing_wf h ..
  | configurationRequest => exact execConfigurationRequest_wf h ..
  | guardIntervalEnd => exact execGuardIntervalEnd_wf h ..
  | blackoutNotice => exact execBlackoutNotice_wf h ..

theorem advance_wf (h : memWf s) : memWf s.advance := by
  unfold State.advance
  refine sendWaiting_wf ?_
  exact h

theorem runWord_wf (h : memWf s) (r w) : NextWf (s.runWord r w) := by
  rcases runWord_cases s r w with ⟨i, -, hi⟩ | ⟨e, -, he⟩
  · exact hi ▸ exec_wf (s := { s with cur := some r }) h i
  · exact he ▸ .next (illegalWord_wf h ..)

theorem step_wf (h : memWf s) (hs : step s = .next t) : memWf t := by
  obtain ⟨u, rfl, hu⟩ := step_cases hs
  refine advance_wf ?_
  rcases hu with ⟨r, w, -, hu⟩ | ⟨i, -, hu⟩ | ⟨c, -, hu⟩ | ⟨i, -, hu⟩ | ⟨-, rfl⟩
  · exact (runWord_wf h r w).wf hu
  · exact (exec_wf h i).wf hu
  · exact (runCommand_wf h c).wf hu
  · exact (exec_wf (s := { s with inbox := s.inbox.drop 1 }) h i).wf hu
  · exact h

end Sys2Proof.Laws.Canon
end

section
/-! The obligations of the model's scope: the canonical form of memory (O59), and what reset leaves (O60). -/

namespace Sys2Proof.Laws.Canon

open Sys2Proof.Machine Sys2Proof.Safety

/-- Settles O59: every meaning that a step may run keeps the invariant, and so does the time that then passes. -/
theorem everyStepKeepsMemoryCanonical : Obligations.EveryStepKeepsMemoryCanonical := fun _ _ => step_wf

theorem reset_ctx (k : Nat) : State.reset.ctx k = Context.reset := by
  have read : State.reset.ctx k = (List.replicate 64 Context.reset)[k]?.getD Context.reset := List.getD_eq_getElem?_getD
  rw [read, List.getElem?_replicate]
  split
  · rfl
  · rfl

theorem reset_counter (k d n : Nat) : State.reset.counter k d n = ⟨0, false⟩ := by
  rw [State.counter, reset_ctx]
  rfl

theorem withFetchWord_word (s : State) (w : Word) : s.withFetchWord 64 w.toNat = s.placeWord w := by
  rw [State.withFetchWord, Nat.min_self, Nat.mod_eq_of_lt w.isLt, BitVec.ofNat_toNat, BitVec.setWidth_eq]

theorem placeWord_issuing (w : Word) : (State.reset.placeWord w).issuing? ⟨1, 0⟩ = some w := rfl

/-- Settles O60: the fields of the reset state, and the bundle that a placed word gives it. -/
theorem resetStartsEmpty : Obligations.ResetStartsEmpty := by
  refine ⟨reset_wf, fun _ => rfl, rfl, fun k => ?_, rfl, rfl, rfl, rfl, reset_counter, fun _ => reset_wf, fun w => ⟨⟨1, 0⟩, rfl, ?_⟩⟩
  · rw [reset_ctx]
    rfl
  · rw [withFetchWord_word, placeWord_issuing]

end Sys2Proof.Laws.Canon
end

section
/-! The obligation on rounding (O7). Its middle part leaves the dither offset free, and from 32 on, beyond every offset of R58, dithered rounding
moves an exactly representable value to the next one up while NX stays clear. -/

namespace Sys2Proof.Proofs.Rounding

open Sys2Proof.Machine

/-- An offset of 32 is a whole quantum: 1 becomes the E2M1 code of 1.5, with no flag. -/
theorem roundQ_e2m1_one_sd_wholeQuantum : roundQ fmtE2m1 .sd 32 false false 1 1 0 = (3, 0) := by decide

theorem value_e2m1_three : fmtE2m1.value 3 = .fin false 3 (-1) := by decide

/-- Refutes O7: at a dither offset of 32, which its middle part allows, 1 rounds to 1.5 in E2M1 and NX, which must be set exactly when the result
differs from the exact value, is clear. -/
theorem not_roundingResults : ¬ Obligations.RoundingResults := by
  rintro ⟨-, middle⟩
  obtain ⟨-, -, -, -, -, -, finite, -⟩ := middle .sd 32 false false 0 1 1 0
  obtain ⟨-, -, in_range, -⟩ := finite fmtE2m1 (by simp) Nat.one_pos
  rw [roundQ_e2m1_one_sd_wholeQuantum] at in_range
  obtain ⟨c, -, code, nx_iff_exact, -⟩ := in_range rfl
  obtain rfl : 3 = c := code
  have exact : 3 * 1 * pow2 (-1 - 0) = 1 * pow2 (0 - -1) := (nx_iff_exact 3 (-1) value_e2m1_three).1 rfl
  exact absurd exact (by decide)

end Sys2Proof.Proofs.Rounding
end
